-- ==== Sys2Proof/Word.lean ====
section
/-! DEFINITION. The word types of Aurok 4 and their plainest arithmetic (02 R31, R40 to R50). -/

namespace Sys2Proof

/-- One byte of memory. -/
abbrev Byte := BitVec 8

/-- A 32-bit register word. -/
abbrev Word := BitVec 32

/-- A 64-bit scalar, counter or instruction word. -/
abbrev DWord := BitVec 64

/-- A lane mask: bit i is lane i (01 R12). -/
abbrev Mask := BitVec 64

/-- A table from numbers to entries. An unlisted number reads as the table's default. -/
abbrev Tab (α : Type) := List (Nat × α)

/-- Sparse bytes: strictly rising addresses, no entry equal to zero (log entry 3). -/
abbrev Mem := List (Nat × BitVec 8)

end Sys2Proof
end

