-- ==== Sys2Proof/Syntax.lean ====
section
/-! DEFINITION. The operations of Aurok 4: one constructor for each row of spec/opcode_table.json.
A row with an encoding carries the fields of its format (02 R40 to R49). A row that is an event of
the part (95) carries the unit it happens at. -/

namespace Sys2Proof

/-- Types (02 R50). -/
inductive Ty where
  | i32 | i64 | n32 | n64 | b32 | l8 | l16 | l32 | bl8 | bl4
  deriving DecidableEq, Repr

/-- Format V (02 R40). `s` = 127 names no scalar. -/
structure FmtV where
  pn : Bool
  ps : BitVec 3
  d : BitVec 8
  a : BitVec 8
  b : BitVec 8
  c : BitVec 8
  s : BitVec 7
  u : Bool
  k : Bool
  ty : Ty
  fn : BitVec 6
  deriving DecidableEq, Repr

/-- Format VI (02 R42). -/
structure FmtVI where
  pn : Bool
  ps : BitVec 3
  d : BitVec 8
  a : BitVec 8
  imm : BitVec 24
  k : Bool
  ty : Ty
  fn : BitVec 6
  deriving DecidableEq, Repr

/-- Format S (02 R43); PS and PN are zero (R38). -/
structure FmtS where
  sd : BitVec 7
  sa : BitVec 7
  sb : BitVec 7
  i : Bool
  imm : BitVec 30
  deriving DecidableEq, Repr

/-- Format M (02 R44). -/
structure FmtM where
  pn : Bool
  ps : BitVec 3
  d : BitVec 8
  a : BitVec 8
  t : BitVec 3
  sz : BitVec 3
  fe : BitVec 2
  as : BitVec 2
  ss : BitVec 2
  br : BitVec 6
  sc : BitVec 2
  k : Bool
  imm : BitVec 15
  deriving DecidableEq, Repr

/-- Format A (02 R45). -/
structure FmtA where
  pn : Bool
  ps : BitVec 3
  d : BitVec 8
  a : BitVec 8
  b : BitVec 8
  c : BitVec 8
  t : BitVec 3
  as : BitVec 2
  ss : BitVec 2
  sq : Bool
  ty : Ty
  deriving DecidableEq, Repr

/-- Format B (02 R46). -/
structure FmtB where
  pn : Bool
  ps : BitVec 3
  bk : BitVec 4
  join : BitVec 16
  off : BitVec 32
  deriving DecidableEq, Repr

/-- Format X (02 R47). -/
structure FmtX where
  pn : Bool
  ps : BitVec 3
  d : BitVec 8
  a : BitVec 8
  vb : BitVec 12
  fmt : BitVec 4
  s : BitVec 7
  rsel : BitVec 5
  fn : BitVec 8
  deriving DecidableEq, Repr

/-- Format C (02 R48); PS and PN are zero (11 R299). -/
structure FmtC where
  sa : BitVec 7
  qn : BitVec 5
  cnt : BitVec 8
  imm : BitVec 32
  deriving DecidableEq, Repr

/-- Format Y (02 R49). -/
structure FmtY where
  pn : Bool
  ps : BitVec 3
  d : BitVec 8
  a : BitVec 8
  b : BitVec 8
  idx : BitVec 8
  s : BitVec 7
  imm : BitVec 13
  deriving DecidableEq, Repr

/-- The operations a peer's AtomicOp can ask for (09 R244). -/
inductive PeerOp where
  | fetchAdd | swap | cas
  deriving DecidableEq, Repr

/-- The accesses a vendor-defined message of kinds 1 to 3 carries (16 R411). -/
inductive PeerAccess where
  /-- A full/empty read: FE form 1 or 2. -/
  | read (fe : Nat) (bytes : Nat)
  /-- A full/empty write: FE form 1 or 3. -/
  | write (fe : Nat) (data : List Byte)
  /-- `fest`: the target state. -/
  | setState (full : Bool) (bytes : Nat)
  /-- `feq`. -/
  | query (bytes : Nat)
  /-- An atomic that is no AtomicOp: opcode, type, C field, and the operand and comparand of each lane it combines. -/
  | atomic (opc : Nat) (ty : Ty) (c : Nat) (lanes : List (DWord × DWord))
  /-- `wake`. -/
  | wake (all : Bool)
  /-- A system-scope release of the sender. -/
  | release
  /-- The proxy entry of a group that waits no more is unlinked. -/
  | unlink
  /-- The proxy entry of a group that has moved names its new core and slot. -/
  | repoint (core slot : Nat)
  deriving DecidableEq, Repr

/-- The operations of the part, in the order of spec/opcode_table.json. -/
inductive Instr where
  -- control (03)
  | nop (f : FmtY) | bra (f : FmtB) | brx (f : FmtB) | brxRegroup (f : FmtB)
  | join (f : FmtY) | call (f : FmtB) | ret (f : FmtY) | jmpi (f : FmtS) | loop (f : FmtS)
  | exit (f : FmtY)
  | groupExit (core slot : Nat)
  | yield (f : FmtY)
  | emovGet (f : FmtY) | emovSet (f : FmtY) | emovPred (f : FmtY) | emovLive (f : FmtY)
  | trap (f : FmtY) | brk (f : FmtY) | tret (f : FmtY) | mpt (f : FmtY)
  -- scalar (04)
  | sadd (f : FmtS) | ssub (f : FmtS) | smul (f : FmtS) | sand (f : FmtS) | sor (f : FmtS)
  | sxor (f : FmtS) | sshl (f : FmtS) | sshr (f : FmtS) | scmp (f : FmtS) | smov (f : FmtS)
  | smovi (f : FmtS) | sld (f : FmtS) | sst (f : FmtS) | sbfe (f : FmtS) | ssel (f : FmtS)
  | slea (f : FmtS)
  -- integer vector (04)
  | iadd (f : FmtV) | isub (f : FmtV) | imul (f : FmtV) | imad (f : FmtV) | imulh (f : FmtV)
  | idiv (f : FmtV) | ineg (f : FmtV) | iabs (f : FmtV) | imin (f : FmtV) | imax (f : FmtV)
  | and (f : FmtV) | or (f : FmtV) | xor (f : FmtV) | not (f : FmtV) | shl (f : FmtV)
  | shr (f : FmtV) | sar (f : FmtV) | rot (f : FmtV) | bfe (f : FmtV) | bfi (f : FmtV)
  | popc (f : FmtV) | clz (f : FmtV) | ctz (f : FmtV) | brev (f : FmtV) | icmp (f : FmtV)
  | sel (f : FmtV) | mov (f : FmtV) | movi (f : FmtVI) | movh (f : FmtVI) | lea (f : FmtV)
  | plog (f : FmtV)
  -- lane-cross (04)
  | shfl (f : FmtV) | matchV (f : FmtV) | vote (f : FmtV) | scan (f : FmtV) | redux (f : FmtV)
  | bcast (f : FmtV)
  -- log (06)
  | lmul (f : FmtV) | ldiv (f : FmtV) | lrcp (f : FmtV) | lsqr (f : FmtV) | lsqrt (f : FmtV)
  | lpow (f : FmtVI) | lscl (f : FmtV) | lneg (f : FmtV) | labs (f : FmtV) | ladd (f : FmtV)
  | lsub (f : FmtV) | lmad (f : FmtV) | lmin (f : FmtV) | lmax (f : FmtV) | lcmp (f : FmtV)
  | lcls (f : FmtV) | lcvt (f : FmtV) | lfi (f : FmtV) | lti (f : FmtV) | lxf (f : FmtV)
  | lfx (f : FmtV) | lexp2 (f : FmtV) | llg2 (f : FmtV) | lpk (f : FmtV) | lupk (f : FmtV)
  -- memory (08)
  | ld (f : FmtM) | st (f : FmtM) | ldc (f : FmtM) | stc (f : FmtM) | festFull (f : FmtM)
  | festEmpty (f : FmtM) | feq (f : FmtM) | pf (f : FmtM) | dsc (f : FmtM) | wbk (f : FmtM)
  | linv (f : FmtM)
  -- atomics (09)
  | aadd (f : FmtA) | amin (f : FmtA) | amax (f : FmtA) | aand (f : FmtA) | aor (f : FmtA)
  | axor (f : FmtA) | axchg (f : FmtA) | acas (f : FmtA) | adecp (f : FmtA) | afmax (f : FmtA)
  | ladda (f : FmtA)
  | atomicReturn (core slot n : Nat)
  -- ordering and synchronisation (10, 12)
  | fence (f : FmtY) | fenceSc (f : FmtY)
  | baraInit (f : FmtY) | baraFree (f : FmtY) | baraArr (f : FmtY) | baraDrop (f : FmtY)
  | barw (f : FmtY) | bartArr (f : FmtY) | bartTest (f : FmtY)
  | gbarInit (f : FmtY) | gbarArr (f : FmtY) | gbarNtf (f : FmtY) | gbarWait (f : FmtY)
  | waitv (f : FmtY)
  | monitorFire (n : Nat)
  | wakeOne (f : FmtY) | wakeAll (f : FmtY) | tdec (f : FmtY) | tspn (f : FmtY)
  | tendClu (f : FmtY) | tendDev (f : FmtY)
  -- matrix (07)
  | mmla (f : FmtX) | mmls (f : FmtX) | mldb (f : FmtX)
  | mldbComplete (core slot n : Nat)
  | mclr (f : FmtX) | mscl (f : FmtX) | mstatFlags (f : FmtX) | mstatClr (f : FmtX)
  | mstatTile (f : FmtX) | mstatEu (f : FmtX)
  | matrixWriteBack (core : Nat)
  -- copy (11)
  | cpq (f : FmtC) | cpi (f : FmtC) | cpl (f : FmtC) | cpc (f : FmtC) | cps (f : FmtC)
  | cpf (f : FmtC)
  | pushedCommand (core : Nat) | commandAccept (core : Nat)
  | copy (core q : Nat) | convert (core q : Nat) | quantise (core q : Nat)
  | tileTranspose (core q : Nat) | gather (core q : Nat) | scatter (core q : Nat)
  | foldMax (core q : Nat)
  | chainNextBlock (core q : Nat) | commandEnd (core q : Nat)
  | engineCompletionFill (core q : Nat)
  -- system (13, 15, 16)
  | tlr (f : FmtY) | tlc (f : FmtY) | srd (f : FmtY) | swr (f : FmtY) | feat (f : FmtY)
  | msg (f : FmtY) | rdc (f : FmtY) | lease (f : FmtY) | lrel (f : FmtY) | slpIv (f : FmtY)
  | slpNtc (f : FmtY)
  | sleepWake (core slot : Nat)
  -- issue, replies and waking (03, 08)
  | groupSelect (core : Nat)
  | loadDataReturn (core slot n : Nat) | storeAck (core slot n : Nat)
  | continuationAdmit (cluster : Nat) | feBudget (core slot : Nat)
  | regroupRendezvous (team : Nat) | regroupRejoin (team : Nat)
  | pageFaultReport
  -- tasks (12)
  | taskDecrement | launchAdmit | teamPlace (cluster : Nat) | gangPlace
  | phaseAdmit (cluster : Nat) | furrowAgeing (cluster : Nat) | teamRetire (team : Nat)
  | producerTeamFinish (team : Nat) | launchEnd (launch : Nat)
  -- host (12, 13, 16)
  | arrive (ctx : Nat) (v : DWord)
  | cctlPreempt (ctx : Nat) | groupSave (core slot : Nat) | cctlRestore (ctx : Nat)
  | cctlKill (ctx : Nat) | ctxcfgCreate (ctx : Nat) (v : DWord) | ctxcfgDelete (ctx : Nat)
  | fresolveResolved (ctx seq : Nat) | fresolveUnresolvable (ctx seq : Nat)
  | shoot (ctx : Nat) (v : DWord) | shootdownComplete (ctx : Nat) | shootRead (by_ : Nat × Nat)
  | msgin (ctx : Nat) | q15Outgoing (core slot : Nat) | gbarCounterWrite (ctx k : Nat) (v : DWord)
  | xlgo (fn : Nat) | translationComplete (fn : Nat) | provgo
  | lostCountClear (ctx : Nat) (events : Bool)
  | registerWrite (fn off : Nat) (v : DWord) (half : Option Bool)
  | getMeasurements (nonce : Nat) | deviceReset
  | hostMemoryWindowAccess (fn ctx addr : Nat) (size : Nat) (write : Option DWord)
  -- peers (08, 16)
  | peerMemoryRead (peer pa size : Nat) | peerPostedWrite (peer pa : Nat) (data : List Byte)
  | peerAtomicop (peer pa : Nat) (wide : Bool) (op : PeerOp) (lane : DWord × DWord) (more : List (DWord × DWord))
  | peerFeAccess (peer core slot pa : Nat) (acc : PeerAccess)
  | peerCompressedLine (peer pa code : Nat) (data : List Byte)
  | peerProxyWake (core slot : Nat) | peerStoreAck (peer n : Nat) | peerDrainRequest (peer : Nat)
  | peerAckTimeout (core q : Nat) | drainSend (launch : Nat)
  -- energy, rails and thermal (15), links (09, 16)
  | controlIntervalStart (cluster : Nat) (start : Bool) (temps : List (Nat × Nat))
  | packageIntervalEnd (leak bandwidth : Nat)
  | leaseExpire (cluster ctx : Nat) | teamThrottle (team : Nat) | railStopEnd (cluster : Nat)
  | teamMigrate (team : Nat) | linkTraining (port : Nat) (dcap : Bool) | portDown (port : Nat)
  | queueTailRead (fn ctx : Nat) (events : Bool) | provisioningWritten
  | queuePopDelivery (core slot n : Nat)
  | gridBarrierRequest
  deriving DecidableEq, Repr

end Sys2Proof
end

