-- ==== Sys2Proof/WellFormed.lean ====
section
/-! DEFINITION. Which field values an instruction may have: the encoding checks of 02 R57, step 2,
parts 2 to 5, in their order. A check that depends on the launch (register counts, group width) is
made when the clause is checked or the instruction issues, not here. -/

namespace Sys2Proof

/-- Why an instruction word is refused at the clause check (02 R57). -/
inductive EncFault where
  /-- ILLEGAL_ENC: no such opcode, a reserved or unused field is set, or a value is not assigned. -/
  | illegal
  /-- MATRIX_FMT: FMT 7 to 15 where FMT is used (02 R47). -/
  | matrixFmt
  /-- VENEER_BOUNDS: VB 128 or more where VB is used (02 R47). -/
  | veneer
  deriving DecidableEq, Repr

/-- What an 8-bit register field of format V holds for an instruction. -/
inductive OpK where
  /-- Unused: the field is zero (02 R39). -/
  | unused
  /-- One 32-bit register. -/
  | r32
  /-- An even register pair (02 R53). -/
  | r64
  /-- A predicate read; p0 reads true. -/
  | predSrc
  /-- A predicate written; p0 is illegal. -/
  | predDst
  deriving DecidableEq, Repr

/-- The role of the V-format scalar field (02 R41). -/
inductive SRole where
  | noScalar | inB | inA | dest
  deriving DecidableEq, Repr

/-- The lanes whose operand A a lane-wise instruction reads: its own active lanes, the lane that FN names, or the source
lanes of `shfl` (04 R118). -/
inductive ALanes where
  | own | one | shuffled
  deriving DecidableEq, Repr

/-- How a V-format instruction uses its fields. -/
structure VUse where
  d : OpK
  a : OpK
  b : OpK
  c : OpK
  s : SRole
  al : ALanes := .own
  deriving DecidableEq, Repr

/-- Bits of an operand of type `ty` in registers (02 R53). -/
def Ty.width : Ty → Nat
  | .i64 => 64 | .n64 => 64 | _ => 32

def Ty.isLog : Ty → Bool
  | .l8 => true | .l16 => true | .l32 => true | _ => false

def Ty.isSigned : Ty → Bool
  | .i32 => true | .i64 => true | _ => false

/-- The register kind of an operand of type `ty`. -/
def Ty.opk (ty : Ty) : OpK := if ty.width = 64 then .r64 else .r32

namespace Wf

/-- First failing check of a list, none when all hold. -/
def firstFault : List (Bool × EncFault) → Option EncFault
  | [] => none
  | (true, _) :: rest => firstFault rest
  | (false, e) :: _ => some e

/-- Every check raises ILLEGAL_ENC. -/
def allLegal (cs : List Bool) : Option EncFault :=
  if cs.all id then none else some .illegal

/-- PS = 0 with PN = 1 is illegal (02 R38). -/
def predOk (pn : Bool) (ps : BitVec 3) : Bool := !(pn && ps == 0)

def unpredicated (pn : Bool) (ps : BitVec 3) : Bool := !pn && ps == 0

/-- Queues that may be read and written (02 R52). -/
def queueReadable (r : Nat) : Bool := r == 228 || r == 229 || r == 230 || r == 239
def queueWritable (r : Nat) : Bool := (224 ≤ r && r ≤ 227) || r == 239
def isQueue (r : Nat) : Bool := 224 ≤ r && r ≤ 239

/-- A source register field of format V or VI (02 R51 to R53). -/
def srcOk (r : Nat) : OpK → Bool
  | .unused => r == 0
  | .r32 => if isQueue r then queueReadable r else r ≤ 245
  | .r64 => (r % 2 == 0 && r ≤ 223) || r == 240
  | .predSrc => r ≤ 7
  | .predDst => false

/-- A destination register field of format V or VI (02 R51 to R53). -/
def dstOk (r : Nat) : OpK → Bool
  | .unused => r == 0
  | .r32 => if isQueue r then queueWritable r else r ≤ 240
  | .r64 => (r % 2 == 0 && r ≤ 223) || r == 240
  | .predSrc => false
  | .predDst => 1 ≤ r && r ≤ 7

/-- Queue numbers named by the source fields that hold registers. -/
def queuesOf (l : List (OpK × Nat)) : List Nat :=
  (l.filter (fun p => p.1 == .r32 && isQueue p.2)).map Prod.snd

/-- At most one queue is named (02 R52). DESIGN CHOICE (log entry 9): a word that names one queue in two source fields is
legal, and its instruction pops one entry for both (06 R148). -/
def oneQueue : List Nat → Bool
  | [] => true
  | q :: rest => rest.all (· == q)

/-- K = 1 needs a destination other than a team register or a queue (04 R104, 02 R52). -/
def kOk (k : Bool) (d : OpK) (r : Nat) : Bool :=
  !(k && d != .predDst && (192 ≤ r && r ≤ 239))

/-- The field checks of a V-format word whose types and FN values are accepted. -/
def vCheck (tyOk fnOk : Bool) (u : VUse) (f : FmtV) : Option EncFault :=
  let hasS := f.s != 127
  allLegal [
    predOk f.pn f.ps, tyOk, fnOk,
    dstOk f.d.toNat u.d, kOk f.k u.d f.d.toNat,
    (if u.s == .inA && hasS then f.a == 0 else srcOk f.a.toNat u.a),
    (if u.s == .inB && hasS then f.b == 0 else srcOk f.b.toNat u.b),
    srcOk f.c.toNat u.c,
    (u.s != .noScalar || !hasS),
    oneQueue (queuesOf ((if u.s == .inA && hasS then [] else [(u.a, f.a.toNat)])
      ++ (if u.s == .inB && hasS then [] else [(u.b, f.b.toNat)]) ++ [(u.c, f.c.toNat)])),
    !(f.u && isQueue f.a.toNat && u.a == .r32)]

def use (d a b c : OpK) (s : SRole) : VUse := ⟨d, a, b, c, s, .own⟩

/-- a op b at the width of TY, a scalar in place of B. -/
def binUse (ty : Ty) : VUse := use ty.opk ty.opk ty.opk .unused .inB
def unUse (ty : Ty) : VUse := use ty.opk ty.opk .unused .unused .noScalar
/-- Shifts and `lea`: the amount is one 32-bit register (04 R112). -/
def shiftUse (ty : Ty) : VUse := use ty.opk ty.opk .r32 .unused .inB
/-- `shfl` and `bcast`: A comes from other lanes (04 R118). -/
def shflUse (ty : Ty) : VUse := { shiftUse ty with al := .shuffled }
def bcastUse (ty : Ty) : VUse := { use ty.opk ty.opk .unused .unused .dest with al := .one }

def intTy (t : Ty) : Bool := t == .i32 || t == .i64 || t == .n32 || t == .n64
def signedTy (t : Ty) : Bool := t == .i32 || t == .i64
def logTy (t : Ty) : Bool := t == .l8 || t == .l16 || t == .l32
def bitsTy (t : Ty) : Bool := t == .b32 || t == .n64

def vInt (sat : Bool) (u : VUse) (f : FmtV) : Option EncFault :=
  vCheck (intTy f.ty) (f.fn == 0 || (sat && f.fn == 1)) u f

def vB32 (u : VUse) (f : FmtV) : Option EncFault := vCheck (f.ty == .b32) (f.fn == 0) u f

def vLog (one : Bool) (u : VUse) (f : FmtV) : Option EncFault :=
  vCheck (logTy f.ty) (f.fn == 0 || (one && f.fn == 1)) u f

def un32 : VUse := use .r32 .r32 .unused .unused .noScalar
def bin32 : VUse := use .r32 .r32 .r32 .unused .inB
def tern32 : VUse := use .r32 .r32 .r32 .r32 .inB

/-- Ops of `scan` and `redux` against their types (04 R117). -/
def scanTyOk (ty : Ty) (op : Nat) : Bool :=
  if op ≤ 2 then intTy ty || ty == .l16 || ty == .l32 else op ≤ 5 && ty == .b32

def viCheck (tyOk fnOk immOk : Bool) (aUse : OpK) (f : FmtVI) : Option EncFault :=
  allLegal [predOk f.pn f.ps, tyOk, fnOk, immOk, dstOk f.d.toNat .r32,
    kOk f.k .r32 f.d.toNat, srcOk f.a.toNat aUse]

/-- Scalar instructions of 04 R108; `iOk` lists the accepted I values, `immRole` says IMM30 has a
role with I = 0. -/
def sCheck (i0 i1 sbUsed immRole : Bool) (f : FmtS) : Option EncFault :=
  allLegal [if f.i then i1 else i0, !(f.i && f.sb != 0), sbUsed || f.sb == 0,
    f.i || immRole || f.imm == 0]

def fracCount (sz : Nat) : Nat := match sz with | 3 => 2 | 4 => 4 | 5 => 8 | _ => 1

/-- A data run of an M-format access: aligned and inside one kind of register (02 R44, 08 R212). -/
def mRunOk (isStore : Bool) (d sz : Nat) : Bool :=
  d % fracCount sz == 0 &&
    (d ≤ 223 || d == 240 || (isStore && 241 ≤ d && d + fracCount sz ≤ 246))

def mOffsetOk (a : Nat) : Bool := a ≤ 191 || (240 ≤ a && a ≤ 245)

/-- T and SS name the same space (08 R196). -/
def spaceOk (t : BitVec 3) (ss : BitVec 2) : Bool := if t == 0 then ss != 1 else ss != 0

structure MUse where
  dKind : Nat          -- 0 unused, 1 load destination, 2 store data, 3 predicate
  t0 : Bool            -- T = 0 accepted
  szs : List Nat
  fes : List Nat
  ases : List Nat
  onlyGlobal : Bool    -- SS must be 1
  br : Bool
  k : Bool

def mCheck (u : MUse) (f : FmtM) : Option EncFault :=
  allLegal [predOk f.pn f.ps,
    (match u.dKind with
      | 0 => f.d == 0
      | 1 => mRunOk false f.d.toNat f.sz.toNat
      | 2 => mRunOk true f.d.toNat f.sz.toNat
      | _ => dstOk f.d.toNat .predDst),
    mOffsetOk f.a.toNat, u.t0 || f.t != 0, u.szs.contains f.sz.toNat, u.fes.contains f.fe.toNat,
    u.ases.contains f.as.toNat, !u.onlyGlobal || f.ss == 1, spaceOk f.t f.ss,
    u.br || f.br == 0, u.k || !f.k, kOk f.k .r32 f.d.toNat,
    f.fe == 0 || 2 ≤ f.sz.toNat]

def anyScope : List Nat := [0, 1, 2, 3]

/-- Atomics (09 R239, R240). `cKind`: 0 zero, 1 comparand register, 2 zero or one. -/
def aCheck (tys : List Ty) (cKind : Nat) (bUsed : Bool) (f : FmtA) : Option EncFault :=
  let pairOk (r : Nat) : Bool := (r % 2 == 0 && r ≤ 223) || r == 240
  let wide := f.ty == .i64
  let src (r : Nat) : Bool := if wide then pairOk r else !isQueue r && r ≤ 245
  let dst (r : Nat) : Bool := if wide then pairOk r else r ≤ 223 || r == 240
  allLegal [predOk f.pn f.ps, tys.contains f.ty,
    (match cKind with
      | 0 => f.c == 0
      | 1 => src f.c.toNat
      | _ => f.c == 0 || f.c == 1),
    dst f.d.toNat, f.a.toNat ≤ 223 || f.a == 240,
    if bUsed then src f.b.toNat else f.b == 0,
    spaceOk f.t f.ss, !(f.sq && (f.t == 0 || f.as.toNat < 2))]

def bCheck (bk : Nat) (joinUsed : Bool) (f : FmtB) : Option EncFault :=
  allLegal [predOk f.pn f.ps, f.bk.toNat == bk, if joinUsed then f.join != 0 else f.join == 0]

/-- A-fragment registers, logical K, elements stored per column, panel tiles and tree levels (07 R168). -/
def fragRegs (fmt : Nat) : Nat :=
  match fmt with | 0 => 18 | 1 => 20 | 2 => 8 | 3 => 36 | 4 => 36 | _ => 40

/-- `mmla` and `mmls` (07 R171, R186), with the order of 02 R57. DESIGN CHOICE (log entry 54): that order names no place for
RSEL; it is checked with FN, before FMT. -/
def mmCheck (f : FmtX) : Option EncFault :=
  let d := f.d.toNat; let a := f.a.toNat; let n := fragRegs f.fmt.toNat
  firstFault [
    (predOk f.pn f.ps, .illegal), (f.rsel.toNat ≤ 1 && f.fn.toNat ≤ 3, .illegal),
    (f.fmt.toNat ≤ 6, .matrixFmt),
    (d ≤ 128 && a + n ≤ 192 && (a + n ≤ d || d + 64 ≤ a), .illegal),
    (f.vb.toNat < 128, .veneer)]

/-- The Y-format fields that must be zero, each flag telling that the field is used. -/
def yZero (ps d a b idx s imm : Bool) (f : FmtY) : List Bool :=
  [if ps then predOk f.pn f.ps else unpredicated f.pn f.ps, d || f.d == 0, a || f.a == 0,
    b || f.b == 0, idx || f.idx == 0, s || f.s == 0, imm || f.imm == 0]

/-- A scalar named in an 8-bit field: bit 7 is zero (12 R324). -/
def scalarOk (r : BitVec 8) : Bool := r.toNat < 128
def predDstOk (r : BitVec 8) : Bool := 1 ≤ r.toNat && r.toNat ≤ 7

/-- AS in IMM13[3:2] and SS in IMM13[1:0] against T (12 R325). -/
def ySpaceOk (f : FmtY) : Bool :=
  spaceOk (f.idx.setWidth 3) (f.imm.setWidth 2) && f.idx.toNat < 8

/-- Indices `srd` and `swr` accept (13 R362). -/
def sysIndexOk (i : Nat) : Bool :=
  i ≤ 6 || i == 8 || i == 9 || (0x10 ≤ i && i ≤ 0x16) || (0x18 ≤ i && i ≤ 0x1A) ||
    (0x20 ≤ i && i ≤ 0x22)

/-- `fence` (10 R269). -/
def fenceCheck (sc : Bool) (f : FmtY) : Option EncFault :=
  let as := f.imm.toNat / 4 % 4; let ss := f.imm.toNat % 4
  allLegal (yZero false false false false false false true f ++
    [decide (f.imm.toNat < 32), (f.imm.toNat / 16 == 1) == sc, !(sc && as < 2), !(ss == 3 && as < 3)])

def baraCheck (form : Nat) (f : FmtY) : Option EncFault :=
  allLegal (yZero false (form ≤ 1) false false true true true f ++
    [scalarOk f.d, f.imm.toNat % 4 == form, f.imm.toNat < 128, form == 2 || f.imm.toNat < 4])

def gbarCheck (form : Nat) (f : FmtY) : Option EncFault :=
  allLegal (yZero false (form == 0 || form == 2) (form == 1) false true (form == 3) true f ++
    [scalarOk f.d, scalarOk f.a, f.idx.toNat < 64, f.imm.toNat == form])

def wakeCheck (all : Bool) (f : FmtY) : Option EncFault :=
  allLegal (yZero false true false false true true true f ++
    [scalarOk f.d, ySpaceOk f, f.imm.toNat / 16 == (if all then 1 else 0)])

def mstatCheck (form : Nat) (f : FmtX) : Option EncFault :=
  firstFault [
    (f.d == 0 && f.a == 0 && f.fmt == 0 && f.rsel == 0 && (form == 2 || f.vb == 0), .illegal),
    (unpredicated f.pn f.ps, .illegal), (f.fn.toNat == form, .illegal),
    (form != 2 || f.vb.toNat < 128, .veneer)]

def emovCheck (form : Nat) (f : FmtY) : Option EncFault :=
  allLegal (yZero (form == 2) false false false false (form != 2) true f ++ [f.imm.toNat == form])

def cCheck (saUsed : Bool) (cntOk immOk : Bool) (f : FmtC) : Option EncFault :=
  allLegal [f.qn.toNat ≤ 3, saUsed || f.sa == 0, cntOk, immOk]

end Wf

open Wf

/-- The encoding fault of an instruction, none when its fields are legal; events have no encoding.
One line per row, each from the row's own rule. -/
def Instr.encFault : Instr → Option EncFault
  -- control (03 R85, R91, 13 R357, R359, 15 R400)
  | .nop f => allLegal (yZero true false false false false false false f)
  | .bra f => bCheck 0 false f
  | .brx f => bCheck 1 true f
  | .brxRegroup f => bCheck 2 true f
  | .join f => allLegal (yZero false false false false false false false f)
  | .call f => bCheck 3 false f
  | .ret f => allLegal (yZero false false false false false false false f)
  | .jmpi f => allLegal [!f.i, f.sd == 0, f.sb == 0]
  | .loop f => allLegal [!f.i, f.sd == f.sa, f.sb == 0]
  | .exit f => allLegal (yZero true false false false false false false f)
  | .yield f => allLegal (yZero false false false false false false false f)
  | .emovGet f => emovCheck 0 f
  | .emovSet f => emovCheck 1 f
  | .emovPred f => emovCheck 2 f
  | .emovLive f => emovCheck 3 f
  | .trap f => allLegal (yZero true false false false false false true f)
  | .brk f => allLegal (yZero true false false false false false true f)
  | .tret f => allLegal (yZero false false false false false false false f)
  | .mpt f => allLegal (yZero false false false false false false false f)
  -- scalar (04 R108 to R111)
  | .sadd f => sCheck true true true false f
  | .ssub f => sCheck true true true false f
  | .smul f => sCheck true true true false f
  | .sand f => sCheck true true true false f
  | .sor f => sCheck true true true false f
  | .sxor f => sCheck true true true false f
  | .sshl f => sCheck true true true false f
  | .sshr f => sCheck true true true false f
  | .scmp f =>
    if f.sd.toNat % 8 == 0 || 10 ≤ f.sd.toNat / 8 then some .illegal
    else sCheck true true true false f
  | .smov f => sCheck true false false false f
  | .smovi f => sCheck false true false false f
  | .sld f => sCheck true false false true f
  | .sst f => if f.sd != 0 then some .illegal else sCheck true false true true f
  | .sbfe f => sCheck true true true false f
  | .ssel f => sCheck true true true false f
  | .slea f => if 8 ≤ f.imm.toNat then some .illegal else sCheck true false true true f
  -- integer vector (04 R112)
  | .iadd f => vInt true (binUse f.ty) f
  | .isub f => vInt true (binUse f.ty) f
  | .imul f => vInt true (binUse f.ty) f
  | .imad f => vInt true (use f.ty.opk f.ty.opk f.ty.opk f.ty.opk .inB) f
  | .imulh f => vInt false (binUse f.ty) f
  | .idiv f => vInt true (binUse f.ty) f
  | .ineg f => vCheck (signedTy f.ty) (f.fn.toNat ≤ 1) (unUse f.ty) f
  | .iabs f => vCheck (signedTy f.ty) (f.fn.toNat ≤ 1) (unUse f.ty) f
  | .imin f => vInt false (binUse f.ty) f
  | .imax f => vInt false (binUse f.ty) f
  | .and f => vB32 bin32 f
  | .or f => vB32 bin32 f
  | .xor f => vB32 bin32 f
  | .not f => vB32 un32 f
  | .shl f => vCheck (bitsTy f.ty) (f.fn == 0) (shiftUse f.ty) f
  | .shr f => vCheck (bitsTy f.ty) (f.fn == 0) (shiftUse f.ty) f
  | .sar f => vCheck (signedTy f.ty) (f.fn == 0) (shiftUse f.ty) f
  | .rot f => vB32 bin32 f
  | .bfe f => vCheck (f.ty == .i32 || f.ty == .n32) (f.fn == 0) bin32 f
  | .bfi f => vB32 tern32 f
  | .popc f => vB32 un32 f
  | .clz f => vB32 un32 f
  | .ctz f => vB32 un32 f
  | .brev f => vB32 un32 f
  | .icmp f => vCheck (intTy f.ty) (f.fn.toNat ≤ 5) (use .predDst f.ty.opk f.ty.opk .unused .inB) f
  | .sel f => vCheck (bitsTy f.ty) (f.fn == 0) (use f.ty.opk f.ty.opk f.ty.opk .predSrc .inB) f
  | .mov f => vCheck (bitsTy f.ty) (f.fn == 0) (use f.ty.opk f.ty.opk .unused .unused .inA) f
  | .movi f => viCheck (f.ty == .b32) (f.fn == 0) true .unused f
  | .movh f => viCheck (f.ty == .b32) (f.fn == 0) (f.imm.toNat < 65536) .r32 f
  | .lea f => vCheck (f.ty == .n32 || f.ty == .n64) (f.fn.toNat ≤ 7) (shiftUse f.ty) f
  | .plog f => vCheck (f.ty == .i32) (f.fn.toNat ≤ 15) (use .predDst .predSrc .predSrc .unused .noScalar) f
  -- lane-cross (04 R117, R119)
  | .shfl f => vCheck (bitsTy f.ty) (f.fn.toNat ≤ 3) (shflUse f.ty) f
  | .matchV f => vCheck (bitsTy f.ty) (f.fn == 0) (use .r64 f.ty.opk .unused .unused .noScalar) f
  | .vote f =>
    vCheck (f.ty == .i32) (f.fn.toNat ≤ 3)
      (if f.fn == 3 then use .r64 .predSrc .unused .unused .dest
       else use .predDst .predSrc .unused .unused .noScalar) f
  | .scan f => vCheck (scanTyOk f.ty (f.fn.toNat % 8)) (f.fn.toNat < 16) (unUse f.ty) f
  | .redux f =>
    vCheck (scanTyOk f.ty (f.fn.toNat % 8)) (f.fn.toNat < 8)
      (use f.ty.opk f.ty.opk .unused .unused .dest) f
  | .bcast f => vCheck (bitsTy f.ty) true (bcastUse f.ty) f
  -- log (06 R144, R145)
  | .lmul f => vLog true bin32 f
  | .ldiv f => vLog true bin32 f
  | .lrcp f => vLog true un32 f
  | .lsqr f => vLog true un32 f
  | .lsqrt f => vLog false un32 f
  | .lpow f =>
    viCheck (logTy f.ty) (f.fn.toNat ≤ 1) (-16 ≤ f.imm.toInt && f.imm.toInt ≤ 16) .r32 f
  | .lscl f => vLog true bin32 f
  | .lneg f => vLog false un32 f
  | .labs f => vLog false un32 f
  | .ladd f => vLog true bin32 f
  | .lsub f => vLog true bin32 f
  | .lmad f => vLog true tern32 f
  | .lmin f => vLog true bin32 f
  | .lmax f => vLog true bin32 f
  | .lcmp f =>
    if f.k then some .illegal
    else vCheck (logTy f.ty) (f.fn.toNat ≤ 7) (use .predDst .r32 .r32 .unused .inB) f
  | .lcls f => vLog false un32 f
  | .lcvt f => vCheck (logTy f.ty) (f.fn.toNat % 4 != 0 && f.fn.toNat < 16) un32 f
  | .lfi f =>
    vCheck (logTy f.ty) (f.fn.toNat < 8)
      (use .r32 (if f.fn.toNat % 4 < 2 then .r32 else .r64) .unused .unused .noScalar) f
  | .lti f =>
    vCheck (logTy f.ty) (f.fn.toNat < 8)
      (use (if f.fn.toNat % 4 < 2 then .r32 else .r64) .r32 .unused .unused .noScalar) f
  | .lxf f => vCheck (logTy f.ty) true un32 f
  | .lfx f => vCheck (logTy f.ty) true un32 f
  | .lexp2 f => vLog true un32 f
  | .llg2 f => vLog false un32 f
  | .lpk f =>
    vCheck (f.ty == .l8 || f.ty == .l16) (f.fn == 0 || (f.ty == .l8 && f.fn == 1))
      (if f.ty == .l8 then tern32 else bin32) f
  | .lupk f =>
    vCheck (f.ty == .l8 || f.ty == .l16) (f.fn.toNat < (if f.ty == .l8 then 4 else 2)) un32 f
  -- memory (08 R212)
  | .ld f => mCheck ⟨1, true, [0, 1, 2, 3, 4, 5], [0, 1, 2], anyScope, false, false, true⟩ f
  | .st f => mCheck ⟨2, true, [0, 1, 2, 3, 4, 5], [0, 1, 3], anyScope, false, false, false⟩ f
  | .ldc f => mCheck ⟨1, false, [2, 3, 4, 5], [0, 1, 2], anyScope, false, true, true⟩ f
  | .stc f => mCheck ⟨2, false, [2, 3, 4, 5], [0, 1, 3], anyScope, false, true, false⟩ f
  | .festFull f => mCheck ⟨0, true, [2, 3, 4, 5], [3], anyScope, false, false, false⟩ f
  | .festEmpty f => mCheck ⟨0, true, [2, 3, 4, 5], [2], anyScope, false, false, false⟩ f
  | .feq f => mCheck ⟨3, true, [2, 3, 4, 5], [0], anyScope, false, false, false⟩ f
  | .pf f => mCheck ⟨0, false, [0], [0], [1, 2], true, false, false⟩ f
  | .dsc f => mCheck ⟨0, false, [0], [0], [0], true, false, false⟩ f
  | .wbk f => mCheck ⟨0, false, [0], [0], [2, 3], true, false, false⟩ f
  | .linv f => mCheck ⟨0, false, [0], [0], [0], true, false, false⟩ f
  -- atomics (09 R239)
  | .aadd f => aCheck [.i32, .n32, .i64] 0 true f
  | .amin f => aCheck [.i32, .n32, .i64] 0 true f
  | .amax f => aCheck [.i32, .n32, .i64] 0 true f
  | .aand f => aCheck [.i32, .n32, .i64] 0 true f
  | .aor f => aCheck [.i32, .n32, .i64] 0 true f
  | .axor f => aCheck [.i32, .n32, .i64] 0 true f
  | .axchg f => aCheck [.i32, .n32, .i64, .l16, .l32] 0 true f
  | .acas f => aCheck [.i32, .n32, .i64, .l16, .l32] 1 true f
  | .adecp f => aCheck [.i32, .i64] 0 false f
  | .afmax f => aCheck [.l16, .l32] 2 true f
  | .ladda f => aCheck [.l16, .l32] 2 true f
  -- ordering and synchronisation (10 R269, 12 R325)
  | .fence f => fenceCheck false f
  | .fenceSc f => fenceCheck true f
  | .baraArr f => baraCheck 0 f
  | .baraDrop f => baraCheck 1 f
  | .baraInit f => baraCheck 2 f
  | .baraFree f => baraCheck 3 f
  | .barw f => allLegal (yZero false false true false true true false f ++ [scalarOk f.a])
  | .bartArr f =>
    allLegal (yZero false true false true true true true f ++
      [scalarOk f.d, predDstOk f.b, f.imm.toNat == 0])
  | .bartTest f =>
    allLegal (yZero false false true true true true true f ++
      [scalarOk f.a, predDstOk f.b, f.imm.toNat == 1])
  | .gbarArr f => gbarCheck 0 f
  | .gbarWait f => gbarCheck 1 f
  | .gbarNtf f => gbarCheck 2 f
  | .gbarInit f => gbarCheck 3 f
  | .waitv f =>
    allLegal (yZero false true true false true true true f ++
      [predDstOk f.d, scalarOk f.a, ySpaceOk f, f.imm.toNat < 16])
  | .wakeOne f => wakeCheck false f
  | .wakeAll f => wakeCheck true f
  | .tdec f => allLegal (yZero false false false false false true true f ++ [decide (f.imm.toNat < 4096)])
  | .tspn f => allLegal (yZero false false false false false true false f)
  | .tendClu f => allLegal (yZero false true false false false false true f ++ [scalarOk f.d, f.imm == 0])
  | .tendDev f => allLegal (yZero false true false false false false true f ++ [scalarOk f.d, f.imm == 1])
  -- matrix (07 R186)
  | .mmla f => mmCheck f
  | .mmls f => mmCheck f
  | .mldb f =>
    firstFault [(f.d == 0 && f.a == 0 && f.fmt == 0 && f.rsel == 0, .illegal),
      (unpredicated f.pn f.ps, .illegal), (f.vb.toNat < 128, .veneer)]
  | .mclr f =>
    allLegal [predOk f.pn f.ps, f.a == 0, f.vb == 0, f.fmt == 0, f.s == 0, f.rsel == 0, f.fn == 0,
      f.d.toNat ≤ 128]
  | .mscl f =>
    allLegal [predOk f.pn f.ps, f.vb == 0, f.fmt == 0, f.rsel == 0, f.fn.toNat ≤ 3,
      f.d.toNat ≤ 128, if f.fn.toNat % 2 == 1 then f.s == 0 && f.a.toNat ≤ 191 else f.a == 0]
  | .mstatFlags f => mstatCheck 0 f
  | .mstatClr f => mstatCheck 1 f
  | .mstatTile f => mstatCheck 2 f
  | .mstatEu f => mstatCheck 3 f
  -- copy (11 R299)
  | .cpq f => cCheck true (1 ≤ f.cnt.toNat && f.cnt.toNat ≤ 48) (f.imm == 0) f
  | .cpi f => cCheck true (f.cnt == 0) true f
  | .cpl f => cCheck true (f.cnt == 0) (f.imm == 0) f
  | .cpc f => cCheck false (f.cnt == 0) (f.imm.toNat < 8192) f
  | .cps f => cCheck true (f.cnt.toNat ≤ 1) (f.imm == 0) f
  | .cpf f => cCheck true (f.cnt == 0) (f.imm == 0) f
  -- system (13 R341, R342, R363, 16 R413, R414, 03 R83, 15 R396, R401)
  | .tlr f =>
    allLegal (yZero false true false false true true true f ++
      [scalarOk f.d, 1 ≤ f.idx.toNat, f.idx.toNat ≤ 7, f.imm.toNat ≤ 1])
  | .tlc f =>
    allLegal (yZero false false false false true false false f ++
      [decide (1 ≤ f.idx.toNat), decide (f.idx.toNat ≤ 7)])
  | .srd f => allLegal (yZero false false false false true true false f ++ [sysIndexOk f.idx.toNat])
  | .swr f => allLegal (yZero false false false false true true false f ++ [sysIndexOk f.idx.toNat])
  | .feat f => allLegal (yZero false false false false true true false f)
  | .msg f => allLegal (yZero false true true false false false true f ++ [scalarOk f.d, scalarOk f.a])
  | .rdc f => allLegal (yZero false false false false true true false f ++ [decide (f.idx.toNat ≤ 2)])
  | .lease f => allLegal (yZero false true false false false true false f ++ [scalarOk f.d])
  | .lrel f => allLegal (yZero false true false false false false false f ++ [scalarOk f.d])
  | .slpIv f => allLegal (yZero false false false false false true true f ++ [f.imm == 0])
  | .slpNtc f => allLegal (yZero false false false false false true true f ++ [f.imm == 1])
  | .groupExit _ _ => none | .atomicReturn _ _ _ => none | .monitorFire _ => none
  | .mldbComplete _ _ _ => none | .matrixWriteBack _ => none | .pushedCommand _ => none
  | .commandAccept _ => none | .copy _ _ => none | .convert _ _ => none | .quantise _ _ => none
  | .tileTranspose _ _ => none | .gather _ _ => none | .scatter _ _ => none | .foldMax _ _ => none
  | .chainNextBlock _ _ => none | .commandEnd _ _ => none | .engineCompletionFill _ _ => none
  | .sleepWake _ _ => none | .groupSelect _ => none | .loadDataReturn _ _ _ => none
  | .storeAck _ _ _ => none | .continuationAdmit _ => none | .feBudget _ _ => none
  | .regroupRendezvous _ => none | .regroupRejoin _ => none | .pageFaultReport => none
  | .taskDecrement => none | .launchAdmit => none | .teamPlace _ => none | .gangPlace => none
  | .phaseAdmit _ => none | .furrowAgeing _ => none | .teamRetire _ => none
  | .producerTeamFinish _ => none | .launchEnd _ => none | .arrive _ _ => none
  | .cctlPreempt _ => none | .groupSave _ _ => none | .cctlRestore _ => none | .cctlKill _ => none
  | .ctxcfgCreate _ _ => none | .ctxcfgDelete _ => none | .fresolveResolved _ _ => none
  | .fresolveUnresolvable _ _ => none | .shoot _ _ => none | .shootdownComplete _ => none
  | .shootRead _ => none | .msgin _ => none | .q15Outgoing _ _ => none
  | .gbarCounterWrite _ _ _ => none | .xlgo _ => none | .translationComplete _ => none
  | .provgo => none | .lostCountClear _ _ => none | .registerWrite _ _ _ _ => none
  | .getMeasurements _ => none | .deviceReset => none | .hostMemoryWindowAccess _ _ _ _ _ => none
  | .peerMemoryRead _ _ _ => none | .peerPostedWrite _ _ _ => none
  | .peerAtomicop _ _ _ _ _ _ => none | .peerFeAccess _ _ _ _ _ => none
  | .peerCompressedLine _ _ _ _ => none | .peerProxyWake _ _ => none | .peerStoreAck _ _ => none
  | .peerDrainRequest _ => none | .peerAckTimeout _ _ => none | .drainSend _ => none
  | .controlIntervalStart _ _ _ => none | .packageIntervalEnd _ _ => none | .leaseExpire _ _ => none
  | .teamThrottle _ => none | .railStopEnd _ => none | .teamMigrate _ => none
  | .linkTraining _ _ => none | .portDown _ => none | .queueTailRead _ _ _ => none
  | .provisioningWritten => none | .gridBarrierRequest => none | .queuePopDelivery _ _ _ => none

/-- The field values of an instruction are legal. -/
def Instr.WellFormed (i : Instr) : Prop := i.encFault = none

end Sys2Proof
end

