-- ==== Sys2Proof/Decode.lean ====
section
/-! DEFINITION. The decoder and the encoder: from 64-bit words to instructions and clause headers and
back, from the layouts of 02 R33, R38 to R50 and the opcode map of R54 and R56. -/

namespace Sys2Proof

/-- Why a word is not an instruction. Every one raises ILLEGAL_ENC, but for `enc .matrixFmt` and
`enc .veneer` (02 R57). -/
inductive Reject where
  /-- OPC 0xF0 to 0xFF: clause-tag space (02 R56). -/
  | tagSpace
  /-- An opcode the map does not assign (02 R56). -/
  | unassigned
  /-- A field value that no form of the opcode has: a reserved field, a type, a form selector. -/
  | field
  /-- A check of Instr.encFault. -/
  | enc (e : EncFault)
  deriving DecidableEq, Repr

/-- TY codes (02 R50). -/
def Ty.code : Ty → BitVec 5
  | .i32 => 0 | .i64 => 1 | .n32 => 2 | .n64 => 3 | .b32 => 4
  | .l8 => 5 | .l16 => 6 | .l32 => 7 | .bl8 => 8 | .bl4 => 9

def Ty.ofCode (c : BitVec 5) : Option Ty :=
  match c.toNat with
  | 0 => some .i32 | 1 => some .i64 | 2 => some .n32 | 3 => some .n64 | 4 => some .b32
  | 5 => some .l8 | 6 => some .l16 | 7 => some .l32 | 8 => some .bl8 | 9 => some .bl4
  | _ => none

namespace Dec

/-- Bits [lo + n - 1 : lo] of a word. -/
def slice (w : DWord) (lo n : Nat) : BitVec n := w.extractLsb' lo n

def bit (w : DWord) (k : Nat) : Bool := w.extractLsb' k 1 == 1#1

def ofBool (b : Bool) : BitVec 1 := if b then 1#1 else 0#1

/-- Format V (02 R40). -/
def fmtV (w : DWord) : Option FmtV :=
  (Ty.ofCode (slice w 6 5)).map fun ty =>
    { pn := bit w 55, ps := slice w 52 3, d := slice w 44 8, a := slice w 36 8, b := slice w 28 8,
      c := slice w 20 8, s := slice w 13 7, u := bit w 12, k := bit w 11, ty := ty, fn := slice w 0 6 }

/-- Format VI (02 R42). -/
def fmtVI (w : DWord) : Option FmtVI :=
  (Ty.ofCode (slice w 6 5)).map fun ty =>
    { pn := bit w 55, ps := slice w 52 3, d := slice w 44 8, a := slice w 36 8, imm := slice w 12 24,
      k := bit w 11, ty := ty, fn := slice w 0 6 }

/-- Format S (02 R43); PS and PN must be zero (R38). -/
def fmtS (w : DWord) : Option FmtS :=
  if slice w 52 4 == 0 then
    some { sd := slice w 45 7, sa := slice w 38 7, sb := slice w 31 7, i := bit w 30, imm := slice w 0 30 }
  else none

/-- Format M (02 R44). -/
def fmtM (w : DWord) : Option FmtM :=
  some { pn := bit w 55, ps := slice w 52 3, d := slice w 44 8, a := slice w 36 8, t := slice w 33 3,
         sz := slice w 30 3, fe := slice w 28 2, as := slice w 26 2, ss := slice w 24 2,
         br := slice w 18 6, sc := slice w 16 2, k := bit w 15, imm := slice w 0 15 }

/-- Format A (02 R45); bits [6:0] are reserved. -/
def fmtA (w : DWord) : Option FmtA :=
  if slice w 0 7 == 0 then
    (Ty.ofCode (slice w 7 5)).map fun ty =>
      { pn := bit w 55, ps := slice w 52 3, d := slice w 44 8, a := slice w 36 8, b := slice w 28 8,
        c := slice w 20 8, t := slice w 17 3, as := slice w 15 2, ss := slice w 13 2, sq := bit w 12,
        ty := ty }
  else none

/-- Format B (02 R46). -/
def fmtB (w : DWord) : Option FmtB :=
  some { pn := bit w 55, ps := slice w 52 3, bk := slice w 48 4, join := slice w 32 16, off := slice w 0 32 }

/-- Format X (02 R47). -/
def fmtX (w : DWord) : Option FmtX :=
  some { pn := bit w 55, ps := slice w 52 3, d := slice w 44 8, a := slice w 36 8, vb := slice w 24 12,
         fmt := slice w 20 4, s := slice w 13 7, rsel := slice w 8 5, fn := slice w 0 8 }

/-- Format C (02 R48); PS and PN must be zero (11 R299). -/
def fmtC (w : DWord) : Option FmtC :=
  if slice w 52 4 == 0 then
    some { sa := slice w 45 7, qn := slice w 40 5, cnt := slice w 32 8, imm := slice w 0 32 }
  else none

/-- Format Y (02 R49). -/
def fmtY (w : DWord) : Option FmtY :=
  some { pn := bit w 55, ps := slice w 52 3, d := slice w 44 8, a := slice w 36 8, b := slice w 28 8,
         idx := slice w 20 8, s := slice w 13 7, imm := slice w 0 13 }

/-- The form that a selector of value 0 or 1 picks. -/
def byImm2 (sel : BitVec 13) (i0 i1 : Instr) : Option Instr :=
  match sel.toNat with
  | 0 => some i0 | 1 => some i1 | _ => none

/-- The form that a selector of value 0 to 3 picks. -/
def byImm4 (sel : BitVec 13) (i0 i1 i2 i3 : Instr) : Option Instr :=
  match sel.toNat with
  | 0 => some i0 | 1 => some i1 | 2 => some i2 | 3 => some i3 | _ => none

/-- Opcodes the map assigns (02 R54, R56). -/
def assigned (op : Nat) : Bool :=
  op ≤ 0x0E || (0x10 ≤ op && op ≤ 0x3E) || (0x40 ≤ op && op ≤ 0x58) || (0x60 ≤ op && op ≤ 0x65) ||
    (0x68 ≤ op && op ≤ 0x71) || (0x80 ≤ op && op ≤ 0x8A) || (0x90 ≤ op && op ≤ 0x99) ||
    (0xA0 ≤ op && op ≤ 0xA5) || (0xB0 ≤ op && op ≤ 0xB5) || (0xC0 ≤ op && op ≤ 0xC9)

/-- The instruction a word names, before its field checks (02 R54). -/
def rawDecode (w : DWord) : Option Instr :=
  match (slice w 56 8).toNat with
  | 0x00 => (fmtY w).map .nop
  | 0x01 => (fmtB w).map .bra
  | 0x02 => (fmtB w).bind fun f => if f.bk.toNat == 2 then some (.brxRegroup f) else some (.brx f)
  | 0x03 => (fmtY w).map .join
  | 0x04 => (fmtB w).map .call
  | 0x05 => (fmtY w).map .ret
  | 0x06 => (fmtS w).map .jmpi
  | 0x07 => (fmtY w).map .exit
  | 0x08 => (fmtY w).map .yield
  | 0x09 => (fmtS w).map .loop
  | 0x0A => (fmtY w).bind fun f => byImm4 f.imm (.emovGet f) (.emovSet f) (.emovPred f) (.emovLive f)
  | 0x0B => (fmtY w).map .trap
  | 0x0C => (fmtY w).map .brk
  | 0x0D => (fmtY w).map .tret
  | 0x0E => (fmtY w).map .mpt
  | 0x10 => (fmtS w).map .sadd
  | 0x11 => (fmtS w).map .ssub
  | 0x12 => (fmtS w).map .smul
  | 0x13 => (fmtS w).map .sand
  | 0x14 => (fmtS w).map .sor
  | 0x15 => (fmtS w).map .sxor
  | 0x16 => (fmtS w).map .sshl
  | 0x17 => (fmtS w).map .sshr
  | 0x18 => (fmtS w).map .scmp
  | 0x19 => (fmtS w).map .smov
  | 0x1A => (fmtS w).map .smovi
  | 0x1B => (fmtS w).map .sld
  | 0x1C => (fmtS w).map .sst
  | 0x1D => (fmtS w).map .sbfe
  | 0x1E => (fmtS w).map .ssel
  | 0x1F => (fmtS w).map .slea
  | 0x20 => (fmtV w).map .iadd
  | 0x21 => (fmtV w).map .isub
  | 0x22 => (fmtV w).map .imul
  | 0x23 => (fmtV w).map .imad
  | 0x24 => (fmtV w).map .imulh
  | 0x25 => (fmtV w).map .idiv
  | 0x26 => (fmtV w).map .ineg
  | 0x27 => (fmtV w).map .iabs
  | 0x28 => (fmtV w).map .imin
  | 0x29 => (fmtV w).map .imax
  | 0x2A => (fmtV w).map .and
  | 0x2B => (fmtV w).map .or
  | 0x2C => (fmtV w).map .xor
  | 0x2D => (fmtV w).map .not
  | 0x2E => (fmtV w).map .shl
  | 0x2F => (fmtV w).map .shr
  | 0x30 => (fmtV w).map .sar
  | 0x31 => (fmtV w).map .rot
  | 0x32 => (fmtV w).map .bfe
  | 0x33 => (fmtV w).map .bfi
  | 0x34 => (fmtV w).map .popc
  | 0x35 => (fmtV w).map .clz
  | 0x36 => (fmtV w).map .ctz
  | 0x37 => (fmtV w).map .brev
  | 0x38 => (fmtV w).map .icmp
  | 0x39 => (fmtV w).map .sel
  | 0x3A => (fmtV w).map .mov
  | 0x3B => (fmtVI w).map .movi
  | 0x3C => (fmtVI w).map .movh
  | 0x3D => (fmtV w).map .lea
  | 0x3E => (fmtV w).map .plog
  | 0x40 => (fmtV w).map .lmul
  | 0x41 => (fmtV w).map .ldiv
  | 0x42 => (fmtV w).map .lrcp
  | 0x43 => (fmtV w).map .lsqr
  | 0x44 => (fmtV w).map .lsqrt
  | 0x45 => (fmtVI w).map .lpow
  | 0x46 => (fmtV w).map .lscl
  | 0x47 => (fmtV w).map .lneg
  | 0x48 => (fmtV w).map .labs
  | 0x49 => (fmtV w).map .ladd
  | 0x4A => (fmtV w).map .lsub
  | 0x4B => (fmtV w).map .lmad
  | 0x4C => (fmtV w).map .lmin
  | 0x4D => (fmtV w).map .lmax
  | 0x4E => (fmtV w).map .lcmp
  | 0x4F => (fmtV w).map .lcls
  | 0x50 => (fmtV w).map .lcvt
  | 0x51 => (fmtV w).map .lfi
  | 0x52 => (fmtV w).map .lti
  | 0x53 => (fmtV w).map .lxf
  | 0x54 => (fmtV w).map .lfx
  | 0x55 => (fmtV w).map .lexp2
  | 0x56 => (fmtV w).map .llg2
  | 0x57 => (fmtV w).map .lpk
  | 0x58 => (fmtV w).map .lupk
  | 0x60 => (fmtV w).map .shfl
  | 0x61 => (fmtV w).map .matchV
  | 0x62 => (fmtV w).map .vote
  | 0x63 => (fmtV w).map .scan
  | 0x64 => (fmtV w).map .redux
  | 0x65 => (fmtV w).map .bcast
  | 0x68 => (fmtM w).map .ld
  | 0x69 => (fmtM w).map .st
  | 0x6A => (fmtM w).map .ldc
  | 0x6B => (fmtM w).map .stc
  | 0x6C => (fmtM w).bind fun f => if f.fe.toNat == 3 then some (.festFull f) else if f.fe.toNat == 2 then some (.festEmpty f) else none
  | 0x6D => (fmtM w).map .feq
  | 0x6E => (fmtM w).map .pf
  | 0x6F => (fmtM w).map .dsc
  | 0x70 => (fmtM w).map .wbk
  | 0x71 => (fmtM w).map .linv
  | 0x80 => (fmtA w).map .aadd
  | 0x81 => (fmtA w).map .amin
  | 0x82 => (fmtA w).map .amax
  | 0x83 => (fmtA w).map .aand
  | 0x84 => (fmtA w).map .aor
  | 0x85 => (fmtA w).map .axor
  | 0x86 => (fmtA w).map .axchg
  | 0x87 => (fmtA w).map .acas
  | 0x88 => (fmtA w).map .adecp
  | 0x89 => (fmtA w).map .afmax
  | 0x8A => (fmtA w).map .ladda
  | 0x90 => (fmtY w).bind fun f => if f.imm.toNat / 16 % 2 == 1 then some (.fenceSc f) else some (.fence f)
  | 0x91 => (fmtY w).bind fun f => byImm4 (f.imm.setWidth 2 |>.setWidth 13) (.baraArr f) (.baraDrop f) (.baraInit f) (.baraFree f)
  | 0x92 => (fmtY w).map .barw
  | 0x93 => (fmtY w).bind fun f => byImm2 f.imm (.bartArr f) (.bartTest f)
  | 0x94 => (fmtY w).bind fun f => byImm4 f.imm (.gbarArr f) (.gbarWait f) (.gbarNtf f) (.gbarInit f)
  | 0x95 => (fmtY w).map .waitv
  | 0x96 => (fmtY w).bind fun f => if f.imm.toNat / 16 % 2 == 1 then some (.wakeAll f) else some (.wakeOne f)
  | 0x97 => (fmtY w).map .tdec
  | 0x98 => (fmtY w).map .tspn
  | 0x99 => (fmtY w).bind fun f => byImm2 f.imm (.tendClu f) (.tendDev f)
  | 0xA0 => (fmtX w).map .mmla
  | 0xA1 => (fmtX w).map .mmls
  | 0xA2 => (fmtX w).map .mldb
  | 0xA3 => (fmtX w).map .mclr
  | 0xA4 => (fmtX w).map .mscl
  | 0xA5 => (fmtX w).bind fun f => byImm4 (f.fn.setWidth 13) (.mstatFlags f) (.mstatClr f) (.mstatTile f) (.mstatEu f)
  | 0xB0 => (fmtC w).map .cpq
  | 0xB1 => (fmtC w).map .cpi
  | 0xB2 => (fmtC w).map .cpl
  | 0xB3 => (fmtC w).map .cpc
  | 0xB4 => (fmtC w).map .cps
  | 0xB5 => (fmtC w).map .cpf
  | 0xC0 => (fmtY w).map .tlr
  | 0xC1 => (fmtY w).map .tlc
  | 0xC2 => (fmtY w).map .feat
  | 0xC3 => (fmtY w).map .rdc
  | 0xC4 => (fmtY w).map .srd
  | 0xC5 => (fmtY w).map .swr
  | 0xC6 => (fmtY w).map .lease
  | 0xC7 => (fmtY w).map .lrel
  | 0xC8 => (fmtY w).map .msg
  | 0xC9 => (fmtY w).bind fun f => byImm2 f.imm (.slpIv f) (.slpNtc f)
  | _ => none

def encV (f : FmtV) : BitVec 56 :=
  ofBool f.pn ++ f.ps ++ f.d ++ f.a ++ f.b ++ f.c ++ f.s ++ ofBool f.u ++ ofBool f.k ++ f.ty.code ++ f.fn

def encVI (f : FmtVI) : BitVec 56 :=
  ofBool f.pn ++ f.ps ++ f.d ++ f.a ++ f.imm ++ ofBool f.k ++ f.ty.code ++ f.fn

def encS (f : FmtS) : BitVec 56 := 0#4 ++ f.sd ++ f.sa ++ f.sb ++ ofBool f.i ++ f.imm

def encM (f : FmtM) : BitVec 56 :=
  ofBool f.pn ++ f.ps ++ f.d ++ f.a ++ f.t ++ f.sz ++ f.fe ++ f.as ++ f.ss ++ f.br ++ f.sc ++
    ofBool f.k ++ f.imm

def encA (f : FmtA) : BitVec 56 :=
  ofBool f.pn ++ f.ps ++ f.d ++ f.a ++ f.b ++ f.c ++ f.t ++ f.as ++ f.ss ++ ofBool f.sq ++
    f.ty.code ++ 0#7

def encB (f : FmtB) : BitVec 56 := ofBool f.pn ++ f.ps ++ f.bk ++ f.join ++ f.off

def encX (f : FmtX) : BitVec 56 :=
  ofBool f.pn ++ f.ps ++ f.d ++ f.a ++ f.vb ++ f.fmt ++ f.s ++ f.rsel ++ f.fn

def encC (f : FmtC) : BitVec 56 := 0#4 ++ f.sa ++ f.qn ++ f.cnt ++ f.imm

def encY (f : FmtY) : BitVec 56 :=
  ofBool f.pn ++ f.ps ++ f.d ++ f.a ++ f.b ++ f.idx ++ f.s ++ f.imm

/-- The opcode of an instruction and the bits below it; an event of the part has none. -/
def parts : Instr → Option (BitVec 8 × BitVec 56)
  | .nop f => some (0x00#8, encY f)
  | .bra f => some (0x01#8, encB f)
  | .brx f => some (0x02#8, encB f)
  | .brxRegroup f => some (0x02#8, encB f)
  | .join f => some (0x03#8, encY f)
  | .call f => some (0x04#8, encB f)
  | .ret f => some (0x05#8, encY f)
  | .jmpi f => some (0x06#8, encS f)
  | .loop f => some (0x09#8, encS f)
  | .exit f => some (0x07#8, encY f)
  | .yield f => some (0x08#8, encY f)
  | .emovGet f => some (0x0A#8, encY f)
  | .emovSet f => some (0x0A#8, encY f)
  | .emovPred f => some (0x0A#8, encY f)
  | .emovLive f => some (0x0A#8, encY f)
  | .trap f => some (0x0B#8, encY f)
  | .brk f => some (0x0C#8, encY f)
  | .tret f => some (0x0D#8, encY f)
  | .mpt f => some (0x0E#8, encY f)
  | .sadd f => some (0x10#8, encS f)
  | .ssub f => some (0x11#8, encS f)
  | .smul f => some (0x12#8, encS f)
  | .sand f => some (0x13#8, encS f)
  | .sor f => some (0x14#8, encS f)
  | .sxor f => some (0x15#8, encS f)
  | .sshl f => some (0x16#8, encS f)
  | .sshr f => some (0x17#8, encS f)
  | .scmp f => some (0x18#8, encS f)
  | .smov f => some (0x19#8, encS f)
  | .smovi f => some (0x1A#8, encS f)
  | .sld f => some (0x1B#8, encS f)
  | .sst f => some (0x1C#8, encS f)
  | .sbfe f => some (0x1D#8, encS f)
  | .ssel f => some (0x1E#8, encS f)
  | .slea f => some (0x1F#8, encS f)
  | .iadd f => some (0x20#8, encV f)
  | .isub f => some (0x21#8, encV f)
  | .imul f => some (0x22#8, encV f)
  | .imad f => some (0x23#8, encV f)
  | .imulh f => some (0x24#8, encV f)
  | .idiv f => some (0x25#8, encV f)
  | .ineg f => some (0x26#8, encV f)
  | .iabs f => some (0x27#8, encV f)
  | .imin f => some (0x28#8, encV f)
  | .imax f => some (0x29#8, encV f)
  | .and f => some (0x2A#8, encV f)
  | .or f => some (0x2B#8, encV f)
  | .xor f => some (0x2C#8, encV f)
  | .not f => some (0x2D#8, encV f)
  | .shl f => some (0x2E#8, encV f)
  | .shr f => some (0x2F#8, encV f)
  | .sar f => some (0x30#8, encV f)
  | .rot f => some (0x31#8, encV f)
  | .bfe f => some (0x32#8, encV f)
  | .bfi f => some (0x33#8, encV f)
  | .popc f => some (0x34#8, encV f)
  | .clz f => some (0x35#8, encV f)
  | .ctz f => some (0x36#8, encV f)
  | .brev f => some (0x37#8, encV f)
  | .icmp f => some (0x38#8, encV f)
  | .sel f => some (0x39#8, encV f)
  | .mov f => some (0x3A#8, encV f)
  | .movi f => some (0x3B#8, encVI f)
  | .movh f => some (0x3C#8, encVI f)
  | .lea f => some (0x3D#8, encV f)
  | .plog f => some (0x3E#8, encV f)
  | .shfl f => some (0x60#8, encV f)
  | .matchV f => some (0x61#8, encV f)
  | .vote f => some (0x62#8, encV f)
  | .scan f => some (0x63#8, encV f)
  | .redux f => some (0x64#8, encV f)
  | .bcast f => some (0x65#8, encV f)
  | .lmul f => some (0x40#8, encV f)
  | .ldiv f => some (0x41#8, encV f)
  | .lrcp f => some (0x42#8, encV f)
  | .lsqr f => some (0x43#8, encV f)
  | .lsqrt f => some (0x44#8, encV f)
  | .lpow f => some (0x45#8, encVI f)
  | .lscl f => some (0x46#8, encV f)
  | .lneg f => some (0x47#8, encV f)
  | .labs f => some (0x48#8, encV f)
  | .ladd f => some (0x49#8, encV f)
  | .lsub f => some (0x4A#8, encV f)
  | .lmad f => some (0x4B#8, encV f)
  | .lmin f => some (0x4C#8, encV f)
  | .lmax f => some (0x4D#8, encV f)
  | .lcmp f => some (0x4E#8, encV f)
  | .lcls f => some (0x4F#8, encV f)
  | .lcvt f => some (0x50#8, encV f)
  | .lfi f => some (0x51#8, encV f)
  | .lti f => some (0x52#8, encV f)
  | .lxf f => some (0x53#8, encV f)
  | .lfx f => some (0x54#8, encV f)
  | .lexp2 f => some (0x55#8, encV f)
  | .llg2 f => some (0x56#8, encV f)
  | .lpk f => some (0x57#8, encV f)
  | .lupk f => some (0x58#8, encV f)
  | .ld f => some (0x68#8, encM f)
  | .st f => some (0x69#8, encM f)
  | .ldc f => some (0x6A#8, encM f)
  | .stc f => some (0x6B#8, encM f)
  | .festFull f => some (0x6C#8, encM f)
  | .festEmpty f => some (0x6C#8, encM f)
  | .feq f => some (0x6D#8, encM f)
  | .pf f => some (0x6E#8, encM f)
  | .dsc f => some (0x6F#8, encM f)
  | .wbk f => some (0x70#8, encM f)
  | .linv f => some (0x71#8, encM f)
  | .aadd f => some (0x80#8, encA f)
  | .amin f => some (0x81#8, encA f)
  | .amax f => some (0x82#8, encA f)
  | .aand f => some (0x83#8, encA f)
  | .aor f => some (0x84#8, encA f)
  | .axor f => some (0x85#8, encA f)
  | .axchg f => some (0x86#8, encA f)
  | .acas f => some (0x87#8, encA f)
  | .adecp f => some (0x88#8, encA f)
  | .afmax f => some (0x89#8, encA f)
  | .ladda f => some (0x8A#8, encA f)
  | .fence f => some (0x90#8, encY f)
  | .fenceSc f => some (0x90#8, encY f)
  | .baraInit f => some (0x91#8, encY f)
  | .baraFree f => some (0x91#8, encY f)
  | .baraArr f => some (0x91#8, encY f)
  | .baraDrop f => some (0x91#8, encY f)
  | .barw f => some (0x92#8, encY f)
  | .bartArr f => some (0x93#8, encY f)
  | .bartTest f => some (0x93#8, encY f)
  | .gbarInit f => some (0x94#8, encY f)
  | .gbarArr f => some (0x94#8, encY f)
  | .gbarNtf f => some (0x94#8, encY f)
  | .gbarWait f => some (0x94#8, encY f)
  | .waitv f => some (0x95#8, encY f)
  | .wakeOne f => some (0x96#8, encY f)
  | .wakeAll f => some (0x96#8, encY f)
  | .tdec f => some (0x97#8, encY f)
  | .tspn f => some (0x98#8, encY f)
  | .tendClu f => some (0x99#8, encY f)
  | .tendDev f => some (0x99#8, encY f)
  | .mmla f => some (0xA0#8, encX f)
  | .mmls f => some (0xA1#8, encX f)
  | .mldb f => some (0xA2#8, encX f)
  | .mclr f => some (0xA3#8, encX f)
  | .mscl f => some (0xA4#8, encX f)
  | .mstatFlags f => some (0xA5#8, encX f)
  | .mstatClr f => some (0xA5#8, encX f)
  | .mstatTile f => some (0xA5#8, encX f)
  | .mstatEu f => some (0xA5#8, encX f)
  | .cpq f => some (0xB0#8, encC f)
  | .cpi f => some (0xB1#8, encC f)
  | .cpl f => some (0xB2#8, encC f)
  | .cpc f => some (0xB3#8, encC f)
  | .cps f => some (0xB4#8, encC f)
  | .cpf f => some (0xB5#8, encC f)
  | .tlr f => some (0xC0#8, encY f)
  | .tlc f => some (0xC1#8, encY f)
  | .srd f => some (0xC4#8, encY f)
  | .swr f => some (0xC5#8, encY f)
  | .feat f => some (0xC2#8, encY f)
  | .msg f => some (0xC8#8, encY f)
  | .rdc f => some (0xC3#8, encY f)
  | .lease f => some (0xC6#8, encY f)
  | .lrel f => some (0xC7#8, encY f)
  | .slpIv f => some (0xC9#8, encY f)
  | .slpNtc f => some (0xC9#8, encY f)
  | .groupExit _ _ => none | .atomicReturn _ _ _ => none | .monitorFire _ => none
  | .mldbComplete _ _ _ => none | .matrixWriteBack _ => none | .pushedCommand _ => none
  | .commandAccept _ => none | .copy _ _ => none | .convert _ _ => none | .quantise _ _ => none
  | .tileTranspose _ _ => none | .gather _ _ => none | .scatter _ _ => none | .foldMax _ _ => none
  | .chainNextBlock _ _ => none | .commandEnd _ _ => none | .engineCompletionFill _ _ => none
  | .sleepWake _ _ => none | .groupSelect _ => none | .loadDataReturn _ _ _ => none
  | .storeAck _ _ _ => none | .continuationAdmit _ => none | .feBudget _ _ => none
  | .regroupRendezvous _ => none | .regroupRejoin _ => none | .pageFaultReport => none
  | .taskDecrement => none | .launchAdmit => none | .teamPlace _ => none | .gangPlace => none
  | .phaseAdmit _ => none | .furrowAgeing _ => none | .teamRetire _ => none
  | .producerTeamFinish _ => none | .launchEnd _ => none | .arrive _ _ => none
  | .cctlPreempt _ => none | .groupSave _ _ => none | .cctlRestore _ => none | .cctlKill _ => none
  | .ctxcfgCreate _ _ => none | .ctxcfgDelete _ => none | .fresolveResolved _ _ => none
  | .fresolveUnresolvable _ _ => none | .shoot _ _ => none | .shootdownComplete _ => none
  | .shootRead _ => none | .msgin _ => none | .q15Outgoing _ _ => none
  | .gbarCounterWrite _ _ _ => none | .xlgo _ => none | .translationComplete _ => none
  | .provgo => none | .lostCountClear _ _ => none | .registerWrite _ _ _ _ => none
  | .getMeasurements _ => none | .deviceReset => none | .hostMemoryWindowAccess _ _ _ _ _ => none
  | .peerMemoryRead _ _ _ => none | .peerPostedWrite _ _ _ => none
  | .peerAtomicop _ _ _ _ _ _ => none | .peerFeAccess _ _ _ _ _ => none
  | .peerCompressedLine _ _ _ _ => none | .peerProxyWake _ _ => none | .peerStoreAck _ _ => none
  | .peerDrainRequest _ => none | .peerAckTimeout _ _ => none | .drainSend _ => none
  | .controlIntervalStart _ _ _ => none | .packageIntervalEnd _ _ => none | .leaseExpire _ _ => none
  | .teamThrottle _ => none | .railStopEnd _ => none | .teamMigrate _ => none
  | .linkTraining _ _ => none | .portDown _ => none | .queueTailRead _ _ _ => none
  | .provisioningWritten => none | .gridBarrierRequest => none | .queuePopDelivery _ _ _ => none

end Dec

open Dec

/-- The instruction word of a legal instruction. -/
def encode (i : Instr) : Option DWord := (parts i).map fun p => p.1 ++ p.2

/-- The opcode, 256 for an event. -/
def Instr.opc (i : Instr) : Nat := match parts i with | some p => p.1.toNat | none => 256

/-- Decode one instruction word, total, rejecting by name (02 R54, R56, R57). -/
def decodeWord (w : DWord) : Except Reject Instr :=
  let op := (slice w 56 8).toNat
  if 0xF0 ≤ op then .error .tagSpace
  else if !assigned op then .error .unassigned
  else match rawDecode w with
    | none => .error .field
    | some i => match i.encFault with
      | none => .ok i
      | some e => .error (.enc e)

/-- A little-endian word from the bytes at its lowest address on (02 R31). -/
def wordOfBytes : List Byte → Nat
  | [] => 0
  | b :: rest => b.toNat + 256 * wordOfBytes rest

/-- The bytes of a little-endian word, lowest address first (02 R31). -/
def bytesOfWord : Nat → Nat → List Byte
  | 0, _ => []
  | n + 1, w => BitVec.ofNat 8 w :: bytesOfWord n (w / 256)

/-- Decode the first instruction of a byte sequence; fewer than 8 bytes hold none. -/
def decodeBytes (bs : List Byte) : Option (Instr × List Byte) :=
  if bs.length < 8 then none
  else match decodeWord (BitVec.ofNat 64 (wordOfBytes (bs.take 8))) with
    | .ok i => some (i, bs.drop 8)
    | .error _ => none

/-- The decoder on an instruction whose bits the opcode table numbers: the word is laid out in bytes,
little-endian, the bits above nbits zero. -/
def decodeTableWord (nbits w : Nat) : Option Instr :=
  if nbits ≤ 64 then (decodeBytes (bytesOfWord 8 (w % 2 ^ nbits))).map Prod.fst else none

/-- The timing class of an instruction (02 R54); an event has none, 0. -/
def Instr.tc (i : Instr) : Nat :=
  let op := i.opc
  match i with
  | .scan f => if f.ty.isLog then 3 else 1
  | .redux f => if f.ty.isLog then 3 else 1
  | _ =>
    if 0x22 ≤ op && op ≤ 0x25 then 2
    else if 0x49 ≤ op && op ≤ 0x4B then 3
    else if 0x50 ≤ op && op ≤ 0x54 then 1
    else if op == 0x55 || op == 0x56 then 2
    else if op == 0x61 then 1
    else if 0x68 ≤ op && op ≤ 0xC9 then 1
    else 0

/-- The engine class an instruction needs; 0 may stand in any clause (02 R34, R54). -/
def Instr.ec (i : Instr) : Nat :=
  let op := i.opc
  if 0xA0 ≤ op && op ≤ 0xA5 then 1
  else if 0xB0 ≤ op && op ≤ 0xB5 then 2
  else if 0xC0 ≤ op && op ≤ 0xC9 then 3
  else 0

/-- Instructions that stand only as the last of their clause (02 R55). -/
def Instr.endsClause (i : Instr) : Bool :=
  [0x01, 0x02, 0x04, 0x05, 0x06, 0x07, 0x08, 0x09, 0x0D].contains i.opc

def Instr.isJoin (i : Instr) : Bool := i.opc == 0x03

def Instr.isRegroup (i : Instr) : Bool :=
  match i with
  | .brxRegroup _ => true
  | _ => false

/-- Instructions that need DS = 1 in deterministic mode (02 R37). -/
def Instr.dsSensitive (i : Instr) : Bool :=
  let op := i.opc
  match i with
  | .scan f => f.ty.isLog
  | .redux f => f.ty.isLog
  | .ld f => f.fe != 0 | .st f => f.fe != 0 | .ldc f => f.fe != 0 | .stc f => f.fe != 0
  | .festFull _ => true | .festEmpty _ => true
  | _ => op == 0xC3 || (0x80 ≤ op && op ≤ 0x8A) || op == 0x95

/-- A clause header (02 R33). -/
structure Header where
  ec : Nat
  /-- Instructions of the clause, 1 to 16. -/
  n : Nat
  tcx : Nat
  /-- WAIT bits [47:40]: WV is bit 0 and WL bit 7 (02 R35). -/
  wait : BitVec 8
  /-- Bit j parks after instruction j. -/
  swm : BitVec 16
  rg : Bool
  jn : Bool
  th : Bool
  ds : Bool
  sq : Bool
  deriving DecidableEq, Repr

/-- A word is a clause header exactly when its bits [63:60] are 0xF (02 R56). -/
def isHeader (w : DWord) : Bool := slice w 60 4 == 15#4

/-- The fields of a header word. -/
def headerOf (w : DWord) : Header :=
  { ec := (slice w 56 4).toNat, n := (slice w 52 4).toNat + 1, tcx := (slice w 50 2).toNat,
    wait := slice w 40 8, swm := slice w 16 16, rg := bit w 15, jn := bit w 14, th := bit w 13,
    ds := bit w 12, sq := bit w 11 }

/-- The header's own checks, but for TH (02 R33, R35 to R37, R57 part 1). -/
def headerLegal (w : DWord) : Bool :=
  isHeader w && slice w 48 2 == 0 && slice w 0 8 == 0 && (slice w 56 4).toNat ≤ 3 &&
    slice w 32 8 == 0 && (slice w 16 16).toNat < 2 ^ ((slice w 52 4).toNat + 1) && slice w 8 3 == 0

end Sys2Proof
end

