-- ==== Sys2Proof/Config.lean ====
section
/-! DEFINITION. What one Aurok 4 part fixes, and the free values the manual leaves open.
An opaque constant has no body: no proof can see its value (log entry 7). -/

namespace Sys2Proof.Config

/-- Physical cores, clusters and cores of a cluster (00 R2). -/
def numCores : Nat := 352
def numClusters : Nat := 22
def coresPerCluster : Nat := 16
/-- Group slots of a core (00 R6). -/
def numSlots : Nat := 32
/-- Bytes of the unified store, bytes of a stripe, and stripes (04 R93). -/
def storeBytes : Nat := 1048576
def stripeBytes : Nat := 512
def numStripes : Nat := 2048
/-- Veneer tiles of a core and their bytes (07 R175). -/
def numTiles : Nat := 128
def tileBytes : Nat := 4096
/-- Copy command entries of a core (11 R272). -/
def numEntries : Nat := 48
/-- Monitor entries of a core (12 R334). -/
def numMonitors : Nat := 64
/-- Scoreboard entries of a group (03 R75). -/
def scoreboard : Nat := 16
/-- Control-stack entries of a group (03 R84). -/
def stackDepth : Nat := 32
/-- Entries of the open-fault table (13 R347). -/
def openFaults : Nat := 1024
/-- Bytes of device memory, 384 GiB (09 R221). -/
def hbmBytes : Nat := 412316860416
/-- Bits of a device virtual address and of a physical address (13, opening). -/
def vaLimit : Nat := 2 ^ 57
def paLimit : Nat := 2 ^ 52

/-- Ticks of a cycle of class 0 to 3 on the high and the low rail (00 R7). -/
def ticks (hi : Bool) (cls : Nat) : Nat :=
  match hi, cls with
  | true, 0 => 30 | true, 1 => 40 | true, 2 => 50 | true, _ => 66
  | false, 0 => 42 | false, 1 => 56 | false, 2 => 70 | false, _ => 92

/-- Ticks of the clock stop at a rail change (03 R71). -/
def railStopTicks : Nat := 750

/-- Free value: a word that comes from outside the device (a peer's or the host's memory),
one for each reading of State.freeCtr (log entry 7). -/
opaque outsideWord : Nat → BitVec 64

/-- Free value: a value the manual leaves open inside the device, one for each reading of
State.freeCtr (log entry 7). -/
opaque freeWord : Nat → BitVec 64

/-- Free value: the bytes of a part of a save area whose layout belongs to the device, one sequence for each
reading of State.freeCtr (13 R366; log entry 7). -/
opaque saveBytes : Nat → List (BitVec 8)

/-- SHA-384 of a byte sequence (16 R419, R421); the manual names the function, not its text (log entry 8). -/
opaque sha384 : List (BitVec 8) → BitVec 384

/-- The two signature checks and the security version of a firmware image (16 R420; log entry 8). -/
opaque rsaVerifies : List (BitVec 8) → Bool
opaque slhVerifies : List (BitVec 8) → Bool
opaque securityVersion : List (BitVec 8) → Nat
opaque fusedMinimum : Nat

/-- The attestation signature over the measurement registers and a nonce (16 R421; log entry 8). -/
opaque attest : List (BitVec 384) → Nat → Nat

/-- The firmware image the host places at a host physical address (16 R407, R420; log entry 8). -/
opaque hostImage : Nat → Nat → List (BitVec 8)

/-- The components of a firmware image, in the order they run, at most 8 (16 R421; log entry 8). -/
opaque components : List (BitVec 8) → List (List (BitVec 8))

/-- The translator: a fixed function of the Berdy bytes and feature word 2 (16 R419).
`none` is a malformed form or one of an unknown version (log entry 8). -/
opaque translate : List (BitVec 8) → Nat → Option (List (BitVec 8))

end Sys2Proof.Config
end

