-- ==== Sys2Proof/Machine/State.lean ====
section
/-! DEFINITION. Everything the manual gives the machine, as plain data, and the machine after reset.
Each field cites the rule that names it; INVENTORY.md lists widths and reset values. -/

namespace Sys2Proof.Machine

/-- Why a step can stop with a fault. -/
inductive Fault where
  /-- Raised by any agent's access to a physical address at or beyond 384 GiB that names neither a peer
  nor the host (09 R221 ends device memory there and gives no effect beyond). Safe: the model stops. -/
  | noMemory (pa : Nat)
  deriving DecidableEq, Repr

/-- Why a step can be refused. -/
inductive Refusal where
  /-- An instruction without a meaning yet. Raised by exec's arms. Safe: the model stops. -/
  | notModelled (mnemonic : String)
  deriving DecidableEq, Repr

/-- States of a group (01 R19). -/
inductive GState where
  | free | eligible | held | parked | saved | exited
  deriving DecidableEq, Repr

/-- Control-stack entries (03 R84). -/
inductive StackEntry where
  | diverge (join : Nat) (saved pending : Mask) (fall : Nat)
  | ret (addr : Nat) (saved : Mask)
  | regroup (join : Nat)
  deriving DecidableEq, Repr

/-- A translation register (13 R339); ATTR is pr, peer, fek, hb. -/
structure TReg where
  val : Bool := false
  vbase : Nat := 0
  pbase : Nat := 0
  limit : Nat := 0
  wr : Bool := false
  pr : Bool := false
  peer : Nat := 0
  fek : Bool := false
  hb : Bool := false
  deriving DecidableEq, Repr

/-- A vector result: register, lane, value. -/
structure VRes where
  reg : Nat
  lane : Nat
  val : Word
  deriving DecidableEq, Repr

/-- One instruction's results in the forwarding window (04 R103). -/
structure WinEntry where
  seq : Nat
  k : Bool
  vals : List VRes
  deriving DecidableEq, Repr

/-- What an outstanding piece of work of a group is, for WAIT and the scoreboard (02 R35, 03 R75). -/
inductive PKind where
  | load | store | atomic | sync | cpf | matrix | copySub | pop | mldb | peerStore | fence
  /-- A q4 entry of written matrix work that waits for the entries before it (07 R188). -/
  | entry
  deriving DecidableEq, Repr

/-- Outstanding work of a group: the results it delivers when it completes. -/
structure Pend where
  kind : PKind
  /-- The instruction's number in its group. -/
  seq : Nat := 0
  k : Bool := false
  /-- Registers held by the scoreboard even when no lane is written. -/
  regs : List Nat := []
  vregs : List VRes := []
  sregs : List (Nat × DWord) := []
  /-- Predicate number, lanes written, values. -/
  preds : List (Nat × Mask × Mask) := []
  flags : BitVec 4 := 0
  /-- The unit that produces the result has produced it. -/
  ready : Bool := true
  /-- Its completion retires the instruction (03 R81). -/
  retires : Bool := true
  /-- Matrix: tile, opcode and per-row flags of its q4 entry (07 R188). -/
  cq : Option (List Word) := none
  /-- AtomicOps the host refused, each with its address and lanes, and the instruction with its header (09 R244). -/
  fail : Option (List (Nat × Mask) × Nat × Nat) := none
  /-- cpf: queue and failures; fence: scopes; matrix: D; mldb: first tile and count. -/
  aux : Nat := 0
  aux2 : Nat := 0
  deriving DecidableEq, Repr

/-- What a parked group waits for (01 R20, 08 R202, 12, 13 R347, 15 R401). -/
inductive Cause where
  /-- A full/empty state of the word of a store: core and offset. -/
  | feStore (core off fe : Nat)
  /-- A full/empty state of a word of device memory. -/
  | feMem (pa fe : Nat)
  /-- A full/empty state of a peer's word, held there by a proxy. -/
  | fePeer (peer pa fe : Nat)
  /-- Page faults: pages still open. -/
  | pages (ctx : Nat) (open_ : List Nat)
  /-- A team barrier's phase, or room for an arrival: team and store-local address. -/
  | barWait (team off : Nat)
  | barArrive (team off : Nat)
  | gbarWait (ctx k : Nat)
  | gbarArrive (ctx k : Nat)
  | monitor
  | wide (device : Bool)
  | regroup
  | rejoin
  | marker
  | sleep (left : Nat) (notice : Bool)
  | queue
  /-- A copy, command-processor or port reply. -/
  | reply
  deriving DecidableEq, Repr

/-- The park record of a slot (08 R202). -/
structure ParkRec where
  cause : Cause
  mask : Mask
  pc : Nat
  futile : Nat := 0
  counter : Nat := 1
  /-- A wake that arrived (01 R22). -/
  woken : Bool := false
  /-- Address of the lead word, and the arrival of the entry on its list, where a re-park returns to its place
  (08 R205, R206). -/
  lead : Nat := 0
  arr : Nat := 0
  /-- Core and slot that the proxy at a peer names (08 R210). -/
  proxy : Option (Nat × Nat) := none
  /-- Faulting lanes with their addresses, and the pages declared unresolvable (13 R351). -/
  addrs : List (Nat × Nat) := []
  badPages : List Nat := []
  /-- The group waits for the page of a clause it is to fetch (13 R345). -/
  fetch : Bool := false
  /-- A lane of the instruction has been performed (10 R265). -/
  begun : Bool := false
  deriving DecidableEq, Repr

/-- Trap registers and watchpoints (13 R353, R360). -/
structure TrapRegs where
  tcause : DWord := 0
  tpc : DWord := 0
  thdr : DWord := 0
  taddr : DWord := 0
  tlmask : DWord := 0
  tem : DWord := 0
  hmode : Bool := false
  wpa0 : DWord := 0
  wpa1 : DWord := 0
  wpc : DWord := 0
  deriving DecidableEq, Repr

/-- One queue entry: the words of positions 0 on; positions beyond the list are zero (04 R107). -/
abbrev QEntry := List Word

/-- The queue registers of a group (04 R107). -/
structure Queues where
  q4 : List QEntry := []
  /-- Places of q4 reserved by matrix work in flight (07 R188). -/
  q4res : Nat := 0
  q5 : List QEntry := []
  q5lost : Bool := false
  q6 : List QEntry := []
  q6lost : Bool := false
  q15in : List QEntry := []
  q15out : List QEntry := []
  /-- Messages owed while q15 is full (12 R333). -/
  owed : List QEntry := []
  deriving DecidableEq, Repr

/-- A resource whose fixed-latency result is not readable before a cycle (03 R69, R75). -/
inductive Res where
  | v (n : Nat) | s (n : Nat) | p (n : Nat) | t (n : Nat)
  deriving DecidableEq, Repr

/-- A transfer of control, and what it changed: it is taken back when its target cannot be read at once and turns out
to be no clause header (02 R58, 13 R345). -/
structure Came where
  pc : Nat
  hdr : Nat
  em : Mask
  stack : List StackEntry
  /-- The lanes its trap names. -/
  lanes : Mask
  /-- LIVE before: an `exit` may have taken lanes out. -/
  live : Mask := 0
  /-- The scalar a `loop` counted down, and its value before. -/
  sreg : Option (Nat × DWord) := none
  /-- The forwarding window, and the outstanding results of K = 1 instructions: its trap writes them to the banks
  (02 R59). -/
  window : List WinEntry := []
  pend : List Pend := []
  /-- A return from a trap, to TPC and THDR, and the lanes that replay after FE_BUDGET (13 R357). -/
  tret : Bool := false
  again : Option Mask := none
  deriving DecidableEq, Repr

/-- A group slot (01 R13). -/
structure Group where
  st : GState := .free
  /-- The state a Saved group held (01 R20). -/
  was : GState := .eligible
  running : Bool := false
  rows : BitVec 4 := 0
  pc : Nat := 0
  /-- Header address of the clause in progress, and its words, header first; empty at a clause boundary. -/
  hdr : Nat := 0
  clause : List DWord := []
  team : Nat := 0
  member : Nat := 0
  /-- The number `vgrp` reads (01 R23, 04 R99). -/
  vgrp : Nat := 0
  gw : Nat := 16
  nregs : Nat := 0
  nhregs : Nat := 0
  em : Mask := 0
  live : Mask := 0
  stack : List StackEntry := []
  sregs : Tab DWord := []
  preds : Tab Mask := []
  tregs : Tab TReg := []
  window : List WinEntry := []
  /-- The reuse latch: the register, and the words of its positions when it was latched; it is valid while the register
  still holds them (04 R105). -/
  reuse : Option (Nat × List Word) := none
  pend : List Pend := []
  seq : Nat := 0
  /-- Fixed-latency results in flight: cycle of retirement and flags (05 R139). -/
  inflight : List (Nat × BitVec 4) := []
  lat : List (Res × Nat) := []
  /-- Held on a load, an atomic or the memory port (15 R387). -/
  memHeld : Bool := false
  /-- First cycle in which the group may issue again (03 R69). -/
  issueAt : Nat := 0
  /-- Rows of a clause whose last instruction is still passing through them, and the first cycle in which they are free
  (03 R69). -/
  tail : Option (BitVec 4 × Nat) := none
  /-- The park record while the group is a continuation (08 R202). -/
  park : Option ParkRec := none
  /-- The park record of the instruction that replays now, with the lanes it still has to perform (08 R205). -/
  redo : Option ParkRec := none
  /-- Rounds of selection a yielded group still stands aside, and slots selected since (03 R91). -/
  yielded : Option (Nat × List Nat) := none
  lstat : BitVec 4 := 0
  mxst : BitVec 4 := 0
  cqst : Tab (BitVec 7) := []
  /-- Ended commands of each queue that did not end with ST = 3 (11 R305). -/
  cpFail : Tab Nat := []
  charge : DWord := 0
  retc : DWord := 0
  trap : TrapRegs := {}
  q : Queues := {}
  /-- Regroup: target each lane takes, and the origin group of the thread in each lane (03 R92). -/
  target : Tab Nat := []
  origin : Tab Nat := []
  /-- A team-scope fence not yet followed by a device-scope one (10 R260). -/
  teamFence : Bool := false
  /-- Stop after `mpt` or at the next boundary for a pending pre-emption or migration (15 R400). -/
  stopReq : Bool := false
  /-- The barrier waiter's replay (12 R329). -/
  replay : Bool := false
  /-- Draining after its last lane exited (03 R91). -/
  exiting : Bool := false
  /-- The transfer that brought the group to its present pc, until the clause there begins (02 R58). -/
  came : Option Came := none
  deriving DecidableEq, Repr

/-- An L1 line of 64 bytes (09 R223). -/
structure L1Line where
  line : Nat
  data : BitVec 512
  valid : BitVec 64
  dirty : BitVec 64
  deriving DecidableEq, Repr

/-- The sharer field of an L2 line: one core exactly, or a set of clusters once a second core has taken the line
(09 R222). -/
inductive Sharers where
  | none
  | core (c : Nat)
  | clusters (ks : List Nat)
  deriving DecidableEq, Repr

/-- An L2 line of 256 bytes (09 R222, 10 R260). -/
structure L2Line where
  line : Nat
  data : BitVec 2048
  /-- Sectors. -/
  valid : BitVec 8
  /-- Bytes. -/
  dirty : BitVec 256
  code : Nat
  sharers : Sharers
  promo : Option Nat
  keep : Bool
  ctx : Nat
  deriving DecidableEq, Repr

/-- A TLB entry: the leaf found for a 64-KiB page of a context (13 R340, R344). -/
structure TlbE where
  ctx : Nat
  page : Nat
  leaf : DWord
  /-- The entry's physical address, and whether it is a 2-MiB leaf. -/
  entry : Nat
  big : Bool
  dirty : Bool
  deriving DecidableEq, Repr

/-- States of a veneer tile (07 R177). -/
inductive TileSt where
  | ready | loading | engine
  deriving DecidableEq, Repr

/-- The accumulator latch and the chain it serves (07 R172). -/
structure Latch where
  slot : Nat
  d : Nat
  /-- Row, column and value of the accumulators the chain updated. -/
  vals : List (Nat × Nat × Word)
  /-- The D run as the chain found it: its bytes by store offset, and its offsets with an uncorrectable error. -/
  base : Mem := []
  bad : List Nat := []
  /-- The chain has ended and its write-back is due. -/
  closed : Bool := false
  deriving DecidableEq, Repr

/-- A word a headland list belongs to. -/
inductive WObj where
  | store (core off : Nat)
  | mem (pa : Nat)
  deriving DecidableEq, Repr

/-- A copy command in its entry (11 R272 to R292). -/
structure Cmd where
  q : Nat
  ctx : Nat
  launch : Nat
  team : Nat
  slot : Nat
  seq : Nat
  /-- Block address; none for a pushed command. -/
  addr : Option Nat
  block : List DWord
  /-- Records the command names, copied at acceptance (11 R296). -/
  recs : List (Nat × List DWord) := []
  started : Bool := false
  /-- Payload finished or stopped; the ending of R286 has begun. -/
  ending : Bool := false
  /-- Step of the ending: 1 peer acknowledgements, checks and status, 2 a peer has to acknowledge the status, 3 the
  completion word is to be filled, 4 a peer has to acknowledge the fill, 5 the next block of the chain is to be read. -/
  stage : Nat := 1
  prog : Nat := 0
  st : Nat := 0
  fc : Nat := 0
  faddr : Nat := 0
  flg : BitVec 4 := 0
  /-- OR of the flags of every block of the chain; some block did not end with ST = 3. -/
  chainFlg : BitVec 4 := 0
  bad : Bool := false
  links : Nat := 1
  region : Option (Nat × Nat) := none
  /-- Page of an open fault the command waits for. -/
  wait : Option Nat := none
  badPages : List Nat := []
  cancel : Bool := false
  /-- Peer lines not acknowledged. -/
  peerOut : Nat := 0
  /-- The word its completion fill waits at, and its arrival there (08 R203, R208). -/
  fillAt : Option WObj := none
  fillArr : Nat := 0
  /-- The peer and the word at which its completion fill waits by a proxy (08 R208, R210). -/
  fillPeer : Option (Nat × Nat) := none
  /-- Tags whose cancellation came before the block was read (11 R304). -/
  ctags : List Nat := []
  /-- Scale words read, by address (11 R298). -/
  scales : Tab Nat := []
  /-- Submitted on the upper core of a pair. -/
  upper : Bool := false
  /-- k of `cpi` (11 R301). -/
  k : Nat := 0
  /-- The block is not run: its chain ended before it (11 R286). -/
  skip : Bool := false
  /-- The entry of its core's pool that the command holds (11 R272). -/
  entry : Nat := 0
  deriving DecidableEq, Repr

/-- A core (00 R6). -/
structure Core where
  slots : Tab Group := []
  cyc : DWord := 0
  elt : DWord := 0
  ptr : Nat := 0
  /-- Slots still to issue in this cycle, as core * 32 + slot. -/
  turn : List Nat := []
  /-- Execute-stage occupancy: class and cycles left (03 R68, R69). -/
  pipe : List (Nat × Nat) := []
  /-- Grants left in this cycle: scalar pipe, memory port, matrix port (03 R73). -/
  grants : Nat × Nat × Nat := (1, 2, 1)
  /-- A cycle is in progress (log entry 1). -/
  cycling : Bool := false
  /-- A rail stop is due: the rail before it (03 R71). -/
  railStop : Option Bool := none
  store : Mem := []
  /-- Word offsets of the store whose full/empty bit is empty, rising (08 R194). -/
  storeEmpty : List Nat := []
  l1 : List L1Line := []
  tlb : List TlbE := []
  /-- Clause cache: context, header address, words (10 R267). -/
  ccache : List (Nat × Nat × List DWord) := []
  veneer : Mem := []
  tileSt : Tab TileSt := []
  latch : Option Latch := none
  /-- Busy cycles of the matrix array left (03 R70). -/
  matBusy : Nat := 0
  credit : Option Nat := none
  creditFirst : List Nat := []
  /-- Contexts whose exemption from throttling was used in this interval (15 R393). -/
  exempt : List Nat := []
  /-- Groups that wait for copy entries, in the order of their submissions (11 R273). -/
  subs : List Nat := []
  /-- Context registers that `swr` wrote in this cycle: context, index, value (13 R363). -/
  ctxSets : List (Nat × Nat × DWord) := []
  cmds : List Cmd := []
  chainBuf : Mem := []
  trp : Bool := false
  temp : Nat := 25
  trip : Nat := 95
  halfDuty : Bool := false
  ce : DWord := 0
  /-- Store words with an uncorrectable error (13 R361), and those with a correctable one (09 R231). -/
  badStore : List Nat := []
  softStore : List Nat := []
  deriving DecidableEq, Repr

/-- Where a team stands. -/
inductive TeamSt where
  | none | waiting | queued | resident | retired | saved
  deriving DecidableEq, Repr

/-- A team (01 R14, 04 R95, 12 R321). -/
structure Team where
  st : TeamSt := .none
  launch : Nat := 0
  ctx : Nat := 0
  number : Nat := 0
  /-- Producer teams it still waits for; the counter of the team task is their number (12 R317). -/
  needs : List Nat := []
  cluster : Nat := 0
  core : Nat := 0
  pair : Bool := false
  /-- Slots in the numbering of 04 R99, rising. -/
  slots : List Nat := []
  frame : Nat := 0
  size : Nat := 0
  gw : Nat := 16
  /-- Store bytes of the scratchpad and of the team registers, rounded, and of one register window. -/
  scr : Nat := 0
  hr : Nat := 0
  win : Nat := 0
  /-- Physical tile of each team tile, on the lower and the upper core. -/
  tiles : List Nat := []
  tilesUpper : List Nat := []
  pri : Nat := 0
  /-- Team-register writes in flight: due cycle, slot order, register, position, value (04 R106). -/
  hpend : List (Nat × Nat × Nat × Nat × Word) := []
  /-- Sync-held barrier objects of the scratchpad (12 R326), and the team members that wait at them in park
  order: object, member, whether it is a refused arrival. -/
  barriers : List Nat := []
  barQ : List (Nat × Nat × Bool) := []
  meter : Nat := 0
  throttled : Bool := false
  /-- A migration is requested; the target chosen for it, or that none was found (15 R399). -/
  migrate : Bool := false
  target : Option Nat := none
  stuck : Bool := false
  /-- Scope fixed by the first `tend` of the phase (12 R332). -/
  wide : Option Bool := none
  /-- Holds its reservation (15 R389). -/
  reserved : Bool := false
  /-- Regroup (03 R92): threads still to form into groups, as target, origin and lane; the groups that
  arrived, as they stood; the highest RETC of them and of the new groups; the join address. -/
  rgThreads : List (Nat × Nat × Nat) := []
  rgOrigins : List (Nat × Group) := []
  rgMaxRetc : DWord := 0
  rgTopRetc : DWord := 0
  rgJoin : Nat := 0
  /-- Registers of the threads, by (origin × 256 + register) × 64 + lane, and their predicate bits, by
  origin × 64 + lane. -/
  rgRegs : Tab Word := []
  rgPreds : Tab (BitVec 8) := []
  /-- LSTAT, MXST and CQST gathered for each origin, and its surviving lanes. -/
  rgFlags : List (Nat × BitVec 4 × BitVec 4 × Tab (BitVec 7)) := []
  rgSurv : Tab Mask := []
  /-- Groups have retired but commands hold the window (01 R25). -/
  windowHeld : Bool := false
  finished : Bool := false
  /-- Copy commands not ended and peer stores not acknowledged (12 R317, 01 R25). -/
  cmdsOut : Nat := 0
  peerOut : Nat := 0
  deriving DecidableEq, Repr

/-- A launch (12 R307 to R313). -/
structure Launch where
  rec_ : Nat := 0
  ctx : Nat := 0
  /-- DW0 to DW7 as armed (12 R309). -/
  dw : List DWord := []
  det : Bool := false
  /-- ST of 12 R310 as the device knows it. -/
  st : Nat := 0
  lcn : Nat := 0
  /-- Output ranges: base, owner, encoding, length (14 R383). -/
  outs : List (Nat × Nat × Nat × Nat) := []
  records : List (List DWord) := []
  nret : Nat := 0
  nflt : Nat := 0
  faulted : Bool := false
  aborted : Bool := false
  killed : Bool := false
  refused : Bool := false
  peerOut : Nat := 0
  lack : Nat := 0
  /-- Copy commands issued and not ended (01 R15). -/
  cmdsOut : Nat := 0
  phaseDev : BitVec 16 := 0
  phaseClu : Tab (BitVec 16) := []
  /-- Unit (lower core) of each logical core, and reserved units (14 R373, R375). -/
  units : List (Nat × Nat) := []
  reserved : List Nat := []
  ended : Bool := false
  /-- The DONE field has still to be written (12 R307). -/
  doneOwed : Bool := false
  /-- Admitted, its teams waiting to be placed at once (12 R322), and its place among the admissions. -/
  gangWait : Bool := false
  order : Nat := 0
  /-- Step of the ending (12 R313), and its digest (14 R384). -/
  endStage : Nat := 0
  digest : DWord := 0
  /-- Page the command processor waits for, and the pages declared unresolvable (12 R446). -/
  waitPage : Option Nat := none
  badPages : List Nat := []
  deriving DecidableEq, Repr

/-- A grid-barrier counter (12 R333). -/
structure GCtr where
  ph : BitVec 16 := 0
  exp : Nat := 0
  arr : Nat := 0
  obs : Nat := 0
  waiters : List Nat := []
  refused : List Nat := []
  owed : List Nat := []
  deriving DecidableEq, Repr

/-- A context (01 R17, 16 R406). -/
structure Ctx where
  en : Bool := false
  bar : Bool := false
  bound : Bool := false
  fn : Nat := 0
  part : Nat := 0
  batchpol : Nat := 0
  /-- The POL that system software wrote, which creation keeps; a group's goes (03 R76, 16 R406). -/
  polHost : Nat := 0
  detMode : Nat := 0
  feretry : Nat := 1024
  monquota : Nat := 16
  leaseLim : Nat := 16
  tvec : Nat := 0
  mastat : BitVec 4 := 0
  ptroot : Nat := 0
  savebase : Nat := 0
  fqsize : Nat := 0
  fqbase : Nat := 0
  fqhead : Nat := 0
  fqtail : Nat := 0
  fqlost : Nat := 0
  fqseq : Nat := 1
  eqsize : Nat := 0
  eqbase : Nat := 0
  eqhead : Nat := 0
  eqtail : Nat := 0
  eqlost : Nat := 0
  eqseq : Nat := 1
  /-- A vector was raised for the queue and its tail has not been read since (16 R404). -/
  fqPend : Bool := false
  eqPend : Bool := false
  /-- CCTL.STATE (13 R364). -/
  state : Nat := 0
  arrivals : Nat := 0
  shoots : List DWord := []
  shootDone : Bool := false
  shootDrop : Bool := false
  msgtgt : DWord := 0
  msgd0 : DWord := 0
  msgd1 : DWord := 0
  msgRefused : Bool := false
  gctrs : Tab GCtr := []
  lfill : DWord := 0
  lwback : DWord := 0
  lsaved : DWord := 0
  lastCluster : Option Nat := none
  /-- Leases given up at pre-emption: cluster and remaining count (15 R397). -/
  savedLeases : List (Nat × Nat) := []
  /-- CRC-32 of the parts written to the save area: address, length, check (13 R366). -/
  savedParts : List (Nat × Nat × Nat) := []
  deriving DecidableEq, Repr

/-- A task on a cluster furrow (12 R318). -/
inductive Task where
  | team (t : Nat)
  | cont (core slot : Nat)
  | phase (core slot : Nat)
  deriving DecidableEq, Repr

/-- A furrow entry with its ageing count (12 R320). -/
structure FEntry where
  level : Nat
  task : Task
  age : Nat
  deriving DecidableEq, Repr

/-- A lease on a cluster (15 R395). -/
structure Lease where
  ctx : Nat
  left : Nat
  applied : Bool
  deriving DecidableEq, Repr

/-- A cluster (15). -/
structure Cluster where
  hi : Bool := false
  pol : Nat := 0
  interval : Nat := 0
  allot : Nat := 4000
  nextAllot : Nat := 4000
  throttled : Bool := false
  /-- Work of the interval that has no team (15 R386). -/
  meter : Nat := 0
  leases : List Lease := []
  furrow : List FEntry := []
  deriving DecidableEq, Repr

/-- Who waits on a headland list (08 R202, R203, R210). -/
inductive Who where
  | group (core slot : Nat)
  | engine (core q : Nat)
  | peer (dev core slot : Nat)
  deriving DecidableEq, Repr

/-- An entry of the headland lists, in arrival order (08 R203). -/
structure Waiter where
  obj : WObj
  who : Who
  fe : Nat
  /-- Its arrival, which an entry that returns to its word keeps (08 R205). -/
  arr : Nat := 0
  deriving DecidableEq, Repr

/-- An armed monitor (12 R334). -/
structure Monitor where
  core : Nat
  slot : Nat
  ctx : Nat
  obj : WObj
  x : Word
  pred : Nat
  fired : Bool
  /-- Agent scope of the `wake` that fired it (10 R254). -/
  scope : Nat := 0
  deriving DecidableEq, Repr

/-- A waiter on an open page fault (13 R347). -/
inductive FWaiter where
  | group (core slot : Nat)
  | cmd (core q : Nat)
  /-- The command processor with the decrements and spawns that wait for the page (12 R446). -/
  | decs
  | launch (l : Nat)
  | team (t : Nat)
  deriving DecidableEq, Repr

/-- An open page fault, or a report waiting for room (13 R347, R348). -/
structure OpenFault where
  ctx : Nat
  page : Nat
  acc : BitVec 4
  seq : Nat
  core : Nat
  slot : Nat
  eng : Bool
  /-- The launch of the waiter; 0 for none. -/
  launch : Nat
  waiters : List FWaiter
  /-- 0, or the trap code of a malformed entry, whose report opens no fault (13 R344, R350). -/
  code : Nat := 0
  deriving DecidableEq, Repr

/-- A decrement or a spawn on its way to the command processor (12 R309, R314, R338). -/
structure CpReq where
  spawn : Bool := false
  ctx : Nat
  rec_ : Nat
  n : Nat := 0
  /-- The launch that issued it; none for a host arrival. -/
  src : Option Nat := none
  /-- The group that issued it, by its team and member. -/
  grp : Option (Nat × Nat) := none
  host : Bool := false
  /-- Its context was killed after it had been accepted (12 R310). -/
  stale : Bool := false
  /-- Page it waits for, and pages declared unresolvable for it (12 R446). -/
  wait : Option Nat := none
  bad : List Nat := []
  deriving DecidableEq, Repr

/-- A request of `gbar` on its way to the command processor (12 R333). -/
structure GReq where
  core : Nat
  slot : Nat
  ctx : Nat
  k : Nat
  /-- 0 arr, 1 wait, 2 ntf, 3 init. -/
  form : Nat
  val : DWord
  sd : Nat
  seq : Nat
  deriving DecidableEq, Repr

/-- A translator request as submitted (16 R418). -/
structure XlReq where
  ctx : Nat
  src : Nat
  len : Nat
  dst : Nat
  dlen : Nat
  deriving DecidableEq, Repr

/-- A function's translator registers, MSI-X table and pending bits (16 R404, R405). -/
structure Fn where
  xlctx : Nat := 0
  xlsrc : Nat := 0
  xllen : Nat := 0
  xldst : Nat := 0
  xldlen : Nat := 0
  status : Nat := 0
  /-- The request in flight: BUSY. -/
  req : Option XlReq := none
  bytes : Nat := 0
  tkey : BitVec 128 := 0
  quota : Nat := 0
  /-- Message address and data of each vector, the mask bits of the table and the pending-bit array (log entry 65). -/
  vaddr : Tab DWord := []
  vdata : Tab Word := []
  vmask : BitVec 4 := 15
  pba : BitVec 4 := 0
  deriving DecidableEq, Repr

/-- A translator-cache entry, most recent first (16 R419). -/
structure XlEntry where
  key : BitVec 128
  digest : BitVec 384
  feat2 : DWord
  native : List Byte
  deriving DecidableEq, Repr

/-- An item on its way to a peer: whose it is (16 R411); launch and team 0 for the command processor's. -/
structure PItem where
  launch : Nat
  team : Nat
  /-- The group and the number of its store. -/
  grp : Option (Nat × Nat) := none
  /-- The core and the copy queue. -/
  eng : Option (Nat × Nat) := none
  /-- A system-scope release has asked the peer for its acknowledgement. -/
  asked : Bool := false
  deriving DecidableEq, Repr

/-- A message or packet the device sent to a peer or to the host (16 R404, R411). -/
inductive OutMsg where
  | read (peer pa size : Nat)
  | write (peer pa : Nat) (data : List Byte)
  /-- An AtomicOp with the operand and comparand of each lane it combines (09 R241, R244). -/
  | atomicOp (peer pa : Nat) (wide : Bool) (op : PeerOp) (lanes : List (DWord × DWord))
  | feMsg (peer core slot pa : Nat) (acc : PeerAccess)
  | line (peer pa code : Nat) (data : List Byte)
  /-- Bytes of a line that an engine writes, or a whole line in a form, with the states its words take (08 R207). -/
  | feLine (peer pa code : Nat) (data : List Byte) (states : List (Nat × Bool))
  | proxyWake (peer core slot : Nat)
  | ack (peer n : Nat)
  | drain (peer : Nat)
  | reply (peer : Nat) (data : List Byte)
  | hostWrite (pa : Nat) (data : List Byte)
  | hostLine (pa code : Nat) (data : List Byte)
  | hostAtomic (pa : Nat) (wide : Bool) (op : PeerOp) (lanes : List (DWord × DWord))
  /-- An atomic that travels to a peer as a message, combined alike (09 R244). -/
  | atomicMsg (peer core slot pa opc : Nat) (ty : Ty) (c : Nat) (lanes : List (DWord × DWord))
  | msix (fn vector : Nat)
  /-- The measurement registers and their signature (16 R421). -/
  | measurements (regs : List (BitVec 384)) (sig : Nat)
  deriving DecidableEq, Repr

/-- Device registers and firmware state (16 R407, R420, R421). -/
structure Device where
  /-- 0 A4336, 1 A4320. -/
  bin : Nat
  rev : Nat
  enabled : BitVec 352
  /-- Lower core of the translator pair. -/
  xlPair : Nat
  hmax : Nat := 22
  plim : Nat := 1800
  peerself : Nat := 0
  peermap : DWord := BitVec.allOnes 64
  parts : Tab Nat := []
  hostcap : Bool := false
  /-- Ports trained, up, and peers' advertisements (09 R236). -/
  trained : BitVec 8 := 0
  up : BitVec 8 := 0
  dcap : BitVec 8 := 0
  provbase : Nat := 0
  provlen : Nat := 0
  provst : Nat := 0
  l2ce : DWord := 0
  recovery : Bool := false
  measured : List (BitVec 384) := List.replicate 8 0
  image : List Byte := []
  pkgInterval : Nat := 0
  mShare : Nat := 0
  cShare : Nat := 0
  /-- What the memory and fabric island has metered in the package interval (15 R386). -/
  island : Nat := 0
  /-- Occupancy counts of the package interval (15 R387). -/
  occO : Nat := 0
  occH : Nat := 0
  deriving DecidableEq, Repr

/-- Who moves next (log entry 1). -/
inductive Turn where
  | core (c : Nat)
  | event (i : Instr)
  deriving DecidableEq, Repr

/-- The machine. -/
structure State where
  cores : Tab Core
  /-- CYC and ELT, by cluster, of its cores that nothing has touched since device reset: they count idle cycles alike
  (03 R80). -/
  idle : Tab (DWord × DWord)
  teams : Tab Team
  launches : Tab Launch
  ctxs : Tab Ctx
  clusters : Tab Cluster
  fns : Tab Fn
  dev : Device
  /-- Device memory (09 R221) and the words of it that are empty, rising (08 R194). -/
  hbm : Mem
  empties : List Nat
  /-- Lines whose HBM copy is compressed, and their codes (09 R232). -/
  hbmCode : Tab Nat
  /-- L2 lines, most recently used first (09 R222). -/
  l2 : List L2Line
  /-- Words of device memory with an uncorrectable error (13 R361), and those with a correctable one (09 R231). -/
  badMem : List Nat
  softMem : List Nat
  headland : List Waiter
  /-- Arrivals on headland lists so far, and the arrivals of proxy entries that were woken: device, core and slot, word,
  arrival (08 R205, R210). -/
  arrivals : Nat
  proxies : List (Nat × Nat × Nat × Nat × Nat)
  monitors : List Monitor
  /-- Tickets the SC sequencer has issued (10 R265). -/
  tickets : Nat
  faults : List OpenFault
  faultWait : List OpenFault
  decs : List CpReq
  /-- Launches on the launch furrow: level, launch, age (12 R318). -/
  launchQ : List (Nat × Nat × Nat)
  greqs : List GReq
  /-- Items sent to each peer and not acknowledged, in order (16 R411). -/
  items : Tab (List PItem)
  /-- Items received from each peer since the last acknowledgement. -/
  recvd : Tab Nat
  xlcache : List XlEntry
  outbox : List OutMsg
  hostReply : DWord
  nextTeam : Nat
  nextLaunch : Nat
  agenda : List Turn
  curCore : Nat
  curSlot : Nat
  freeCtr : Nat
  /-- A physical address beyond device memory that the present step reached; always none between steps. -/
  noMem : Option Nat
  deriving DecidableEq, Repr

/-- Cores 16k + 15 for k = 0 to 15 are the disabled ones of this part (log entry 5). -/
def resetEnabled : BitVec 352 :=
  BitVec.ofNat 352 (2 ^ 352 - 1 - (List.range 16).foldl (fun a k => a + 2 ^ (16 * k + 15)) 0)

/-- The pair that firmware reserves for the translator, by its lower core: the highest-numbered one whose two members are
both enabled (16 R418). -/
def reservedPair (enabled : BitVec 352) : Nat :=
  2 * ((List.range 176).reverse.find? fun j => enabled.getLsbD (2 * j) && enabled.getLsbD (2 * j + 1)).getD 176

/-- The device registers after reset (log entries 5, 6). -/
def Device.reset : Device := { bin := 0, rev := 0, enabled := resetEnabled, xlPair := reservedPair resetEnabled }

/-- The machine right after reset: every register at its reset value, nothing placed. -/
def State.reset : State where
  cores := []
  idle := []
  teams := []
  launches := []
  ctxs := []
  clusters := []
  fns := []
  dev := Device.reset
  hbm := []
  empties := []
  hbmCode := []
  l2 := []
  badMem := []
  softMem := []
  headland := []
  arrivals := 0
  proxies := []
  monitors := []
  tickets := 0
  faults := []
  faultWait := []
  decs := []
  launchQ := []
  greqs := []
  items := []
  recvd := []
  xlcache := []
  outbox := []
  hostReply := 0
  nextTeam := 1
  nextLaunch := 1
  agenda := []
  curCore := 0
  curSlot := 0
  freeCtr := 0
  noMem := none

end Sys2Proof.Machine
end

