-- ==== Sys2Proof/Machine/Mem.lean ====
section
/-! DEFINITION. Tables, sparse bytes and the accessors of the state's parts. -/

namespace Sys2Proof.Machine

/-- The entry of a key, the default when unlisted. -/
def tget {α : Type} : Tab α → α → Nat → α
  | [], d, _ => d
  | (j, w) :: r, d, k => if j = k then w else tget r d k

/-- Set the entry of a key, in rising order. -/
def tset {α : Type} : Tab α → Nat → α → Tab α
  | [], k, v => [(k, v)]
  | (j, w) :: r, k, v =>
    if k < j then (k, v) :: (j, w) :: r else if j = k then (k, v) :: r else (j, w) :: tset r k v

/-- Remove a key. -/
def tdel {α : Type} (t : Tab α) (k : Nat) : Tab α := t.filter fun p => p.1 != k

/-- A byte; unlisted bytes are zero (log entry 3). -/
def mget (m : Mem) (a : Nat) : Byte := tget m 0 a

/-- Write a byte, keeping the canonical form. -/
def mset (m : Mem) (a : Nat) (b : Byte) : Mem := if b = 0 then tdel m a else tset m a b

/-- Canonical sparse bytes: strictly rising addresses, no zero byte listed. -/
def Mem.wf : Mem → Bool
  | [] => true
  | [(_, b)] => b != 0
  | (a, b) :: (c, d) :: r => a < c && b != 0 && Mem.wf ((c, d) :: r)

/-- n bytes from address a, little-endian (02 R31). -/
def mread (m : Mem) (a : Nat) : Nat → Nat
  | 0 => 0
  | n + 1 => (mget m a).toNat + 256 * mread m (a + 1) n

/-- Write n bytes from address a, little-endian. -/
def mwrite (m : Mem) (a : Nat) : Nat → Nat → Mem
  | 0, _ => m
  | n + 1, v => mwrite (mset m a (BitVec.ofNat 8 v)) (a + 1) n (v / 256)

/-- Write a byte sequence from address a. -/
def mwriteBytes (m : Mem) (a : Nat) : List Byte → Mem
  | [] => m
  | b :: r => mwriteBytes (mset m a b) (a + 1) r

def mreadBytes (m : Mem) (a : Nat) : Nat → List Byte
  | 0 => []
  | n + 1 => mget m a :: mreadBytes m (a + 1) n

/-- Zero the n bytes from address a. -/
def mclear (m : Mem) (a n : Nat) : Mem := m.filter fun p => p.1 < a || a + n ≤ p.1

/-- Insert into a rising list without repeats. -/
def sins : List Nat → Nat → List Nat
  | [], k => [k]
  | j :: r, k => if k < j then k :: j :: r else if j = k then j :: r else j :: sins r k

def sdel (l : List Nat) (k : Nat) : List Nat := l.filter (· != k)

/-- Insert before the first element that is not below it. -/
def insertBy {α : Type} (le : α → α → Bool) (a : α) : List α → List α
  | [] => [a]
  | b :: r => if le a b then a :: b :: r else b :: insertBy le a r

/-- Sort a list; equal elements keep their order. -/
def sortBy {α : Type} (le : α → α → Bool) (l : List α) : List α := l.foldr (insertBy le) []

/-- Bit i of a mask. -/
def mbit (m : Mask) (i : Nat) : Bool := m.getLsbD i

/-- The mask of one lane. -/
def laneBit (i : Nat) : Mask := BitVec.ofNat 64 (2 ^ i)

/-- The mask of a list of lanes. -/
def maskOf (l : List Nat) : Mask := l.foldl (fun m i => m ||| laneBit i) 0

/-- The mask of the lanes below n. -/
def lowMask (n : Nat) : Mask := BitVec.ofNat 64 (2 ^ n - 1)

/-- The lanes of a mask below n, rising. -/
def lanesOf (m : Mask) (n : Nat) : List Nat := (List.range n).filter (mbit m)

/-- Bits [lo + n − 1 : lo] of a doubleword. -/
def fld (w : DWord) (lo n : Nat) : Nat := w.toNat / 2 ^ lo % 2 ^ n

namespace State

/-- A core that nothing has touched since device reset: it has counted idle cycles (03 R80). -/
def idleCore (s : State) (c : Nat) : Core :=
  { cyc := (tget s.idle (0, 0) (c / 16)).1, elt := (tget s.idle (0, 0) (c / 16)).2 }

def core (s : State) (c : Nat) : Core := tget s.cores (s.idleCore c) c
def setCore (s : State) (c : Nat) (k : Core) : State := { s with cores := tset s.cores c k }
def modCore (s : State) (c : Nat) (f : Core → Core) : State := s.setCore c (f (s.core c))

/-- A group by its number: core × 32 + slot. -/
def grp (s : State) (g : Nat) : Group := tget (s.core (g / 32)).slots {} (g % 32)
def setGrp (s : State) (g : Nat) (x : Group) : State :=
  s.modCore (g / 32) fun k => { k with slots := tset k.slots (g % 32) x }
def modGrp (s : State) (g : Nat) (f : Group → Group) : State := s.setGrp g (f (s.grp g))

def team (s : State) (t : Nat) : Team := tget s.teams {} t
def setTeam (s : State) (t : Nat) (x : Team) : State := { s with teams := tset s.teams t x }
def modTeam (s : State) (t : Nat) (f : Team → Team) : State := s.setTeam t (f (s.team t))

def launch (s : State) (l : Nat) : Launch := tget s.launches {} l
def setLaunch (s : State) (l : Nat) (x : Launch) : State := { s with launches := tset s.launches l x }
def modLaunch (s : State) (l : Nat) (f : Launch → Launch) : State := s.setLaunch l (f (s.launch l))

def ctx (s : State) (c : Nat) : Ctx := tget s.ctxs {} c
def setCtx (s : State) (c : Nat) (x : Ctx) : State := { s with ctxs := tset s.ctxs c x }
def modCtx (s : State) (c : Nat) (f : Ctx → Ctx) : State := s.setCtx c (f (s.ctx c))

def cluster (s : State) (k : Nat) : Cluster := tget s.clusters {} k
def setCluster (s : State) (k : Nat) (x : Cluster) : State := { s with clusters := tset s.clusters k x }
def modCluster (s : State) (k : Nat) (f : Cluster → Cluster) : State := s.setCluster k (f (s.cluster k))

def fn (s : State) (f : Nat) : Fn := tget s.fns {} f
def modFn (s : State) (k : Nat) (f : Fn → Fn) : State := { s with fns := tset s.fns k (f (s.fn k)) }

def modDev (s : State) (f : Device → Device) : State := { s with dev := f s.dev }

/-- The group that issues. -/
def cur (s : State) : Nat := s.curCore * 32 + s.curSlot
def g (s : State) : Group := s.grp s.cur
def modG (s : State) (f : Group → Group) : State := s.modGrp s.cur f

/-- An event for an agent of the part, after those already due (log entry 1). -/
def post (s : State) (i : Instr) : State := { s with agenda := s.agenda ++ [.event i] }

def send (s : State) (m : OutMsg) : State := { s with outbox := s.outbox ++ [m] }

/-- The next free value and the state after it is taken (log entry 7). -/
def fresh (s : State) : State := { s with freeCtr := s.freeCtr + 1 }

/-- Team, launch and context of a group. -/
def teamOf (s : State) (g : Nat) : Team := s.team (s.grp g).team
def launchOf (s : State) (g : Nat) : Launch := s.launch (s.teamOf g).launch
def ctxOf (s : State) (g : Nat) : Nat := (s.teamOf g).ctx

/-- The cluster of a core. -/
def enabled (s : State) (c : Nat) : Bool := s.dev.enabled.getLsbD c

end State

/-- Apply a function to each element of a list, in order. -/
def eachDo {α σ : Type} (l : List α) (s : σ) (f : σ → α → σ) : σ := l.foldl f s

end Sys2Proof.Machine
end

