-- ==== Sys2Proof/Machine/Home.lean ====
section
/-! DEFINITION. Homes: full/empty bits, headland lists and monitors, the unified store's bytes, and the
L2 with its compressed lines over HBM (08 R194 to R204, 09 R221 to R237, 10 R260, R261). -/

namespace Sys2Proof.Machine

open State

/-- A meaning that reached memory ends here: a fault when an address lay beyond device memory. -/
def done (s : State) : Host.Outcome State Fault Refusal :=
  match s.noMem with
  | some pa => .fault (.noMemory pa)
  | none => .next s

/-- Put a task at the tail of its level of a cluster's furrow (12 R318). -/
def furrowPut (s : State) (k level : Nat) (t : Task) : State :=
  s.modCluster k fun x => { x with furrow := x.furrow ++ [⟨level, t, 0⟩] }

/-- Tell the cluster that a continuation is ready: the group enters its furrow (01 R20, 12 R319). -/
def enterFurrow (s : State) (g : Nat) : State :=
  let k := g / 32 / 16
  (furrowPut s k (s.teamOf g).pri (.cont (g / 32) (g % 32))).post (.continuationAdmit k)

/-- Wake a parked group: its counter falls to zero; a Saved group, and one whose context does not run, keeps the
wake (01 R22, 08 R204, 13 R365). -/
def wakeGroup (s : State) (g : Nat) : State :=
  let x := s.grp g
  match x.park with
  | none => s
  | some r =>
    let s := s.setGrp g { x with park := some { r with woken := true, counter := 0 } }
    if x.st == .parked && (s.ctx (s.ctxOf g)).state == 0 then enterFurrow s g else s

/-- Wake one entry of a headland list. -/
def wakeWho (s : State) (w : Waiter) : State :=
  match w.who with
  | .group c k => wakeGroup s (c * 32 + k)
  | .engine c q => s.post (.engineCompletionFill c q)
  | .peer d c k =>
    let pa : Nat := match w.obj with | .mem pa => pa | .store _ off => off
    { s with proxies := (d, c, k, pa, w.arr) :: s.proxies.filter fun p => !(p.1 == d && p.2.1 == c && p.2.2.1 == k) }.send
      (.proxyWake d c k)

/-- Link an entry in its place by arrival (08 R203, R205). -/
def linkWaiter (s : State) (w : Waiter) : State :=
  { s with headland := insertBy (fun a b => a.arr ≤ b.arr) w s.headland }

/-- The next arrival. -/
def nextArrival (s : State) : State × Nat := ({ s with arrivals := s.arrivals + 1 }, s.arrivals)

/-- The entries a change of a word's state wakes, and those that stay (08 R204). `seen` tells that the
oldest entry of a form has been taken. -/
def splitWoken (o : WObj) (full : Bool) : Bool → List Waiter → List Waiter × List Waiter
  | _, [] => ([], [])
  | seen, w :: r =>
    let oldest := if full then 2 else 3
    if w.obj = o ∧ full ∧ w.fe = 1 then
      let p := splitWoken o full seen r
      (w :: p.1, p.2)
    else if w.obj = o ∧ w.fe = oldest ∧ !seen then
      let p := splitWoken o full true r
      (w :: p.1, p.2)
    else
      let p := splitWoken o full seen r
      (p.1, w :: p.2)

/-- A word changed its full/empty state. -/
def wakeWord (s : State) (o : WObj) (full : Bool) : State :=
  let p := splitWoken o full false s.headland
  eachDo p.1 { s with headland := p.2 } wakeWho

/-- Full/empty state of a word; `a` is any byte address in it. -/
def isFull (s : State) : WObj → Bool
  | .store c off => !(s.core c).storeEmpty.contains (off / 4 * 4)
  | .mem pa => !s.empties.contains (pa / 4 * 4)

def wordOf : WObj → WObj
  | .store c off => .store c (off / 4 * 4)
  | .mem pa => .mem (pa / 4 * 4)

def putFE (s : State) (o : WObj) (full : Bool) : State :=
  match wordOf o with
  | .store c off =>
    s.modCore c fun k => { k with storeEmpty := if full then sdel k.storeEmpty off else sins k.storeEmpty off }
  | .mem pa => { s with empties := if full then sdel s.empties pa else sins s.empties pa }

/-- Set a word's state; a change wakes entries (08 R204). -/
def setFE (s : State) (o : WObj) (full : Bool) : State :=
  if isFull s o = full then s else wakeWord (putFE s o full) (wordOf o) full

/-- Fire an armed monitor, by a write or by a `wake` of an agent scope (10 R254, 12 R335). -/
def fireMonitor (s : State) (m : Monitor) (scope : Nat := 0) : State :=
  let mark (x : Monitor) : Monitor := if x = m then { x with fired := true, scope := scope } else x
  ({ s with monitors := s.monitors.map mark }).post (.monitorFire (m.core * 32 + m.slot))

/-- Fire the monitors of a word that no longer holds the watched value. -/
def checkMonitors (s : State) (o : WObj) (v : Nat) : State :=
  eachDo (s.monitors.filter fun m => m.obj = wordOf o && !m.fired && m.x.toNat != v) s fun s m => fireMonitor s m

/-- Bytes of a core's store. -/
def storeRead (s : State) (c off n : Nat) : Nat := mread (s.core c).store off n

/-- Check the monitors of the words that n bytes from `off` touch. -/
def checkStoreMonitors (s : State) (c off n : Nat) : State :=
  if s.monitors.isEmpty then s
  else eachDo (List.range ((off % 4 + n + 3) / 4)) s fun s j =>
    let w := off / 4 * 4 + 4 * j
    checkMonitors s (.store c w) (storeRead s c w 4)

/-- Words written whole have new check bits (09 R231). -/
def dropWords (a n : Nat) (l : List Nat) : List Nat := l.filter fun w => !(a ≤ w && w + 4 ≤ a + n)

/-- Write bytes of a core's store; the register number's reuse latches follow by definition (04 R105). -/
def storeWrite (s : State) (c off n v : Nat) : State :=
  checkStoreMonitors (s.modCore c fun k =>
    { k with store := mwrite k.store off n v, badStore := dropWords off n k.badStore,
             softStore := dropWords off n k.softStore }) c off n

/-- The home slice of a physical address (09 R221). -/
def sliceOf (pa : Nat) : Nat :=
  let f (k : Nat) : Nat := pa / 2 ^ k % 64
  [f 14, f 20, f 26, f 32, f 38, f 44, pa / 2 ^ 50 % 4].foldl Nat.xor (f 8)

/-- Where HBM holds a physical address: its stack, and the byte address local to the stack (09 R221). -/
def hbmStack (pa : Nat) : Nat := sliceOf pa / 8
def hbmLocal (pa : Nat) : Nat := (pa / 2 ^ 14 % 2 ^ 38 * 8 + sliceOf pa % 8) * 256 + pa % 256

/-- The set of a line within its slice. -/
def setOf (pa : Nat) : Nat := pa / 2 ^ 14 % 384

/-- Element e of a line of `w`-bit elements. -/
def elemOf (d e w : Nat) : Nat := d / 2 ^ (w * e) % 2 ^ w

/-- The signed difference of two L codes of `lb` bits. -/
def deltaOf (lb a b : Nat) : Int :=
  let sg (x : Nat) : Int := if x < 2 ^ (lb - 1) then (x : Int) else (x : Int) - (2 ^ lb : Nat)
  sg a - sg b

/-- Does a line fit a log-delta form of element size eb and width w (09 R233)? -/
def fitsDelta (eb w d : Nat) : Bool :=
  let lb := eb - 2
  let e0 := elemOf d 0 eb
  (List.range (2048 / eb)).all fun i =>
    let e := elemOf d i eb
    let x := deltaOf lb (e % 2 ^ lb) (e0 % 2 ^ lb)
    e / 2 ^ lb % 2 == 0 && e / 2 ^ (eb - 1) == e0 / 2 ^ (eb - 1) &&
      -(2 ^ (w - 1) : Nat) ≤ x && x < (2 ^ (w - 1) : Nat)

/-- The content of a log-delta line: the header, then the deltas from bit 32 (09 R233). -/
def packDelta (eb w d : Nat) : Nat :=
  let lb := eb - 2
  let e0 := elemOf d 0 eb
  e0 + (List.range (2048 / eb)).foldl (fun acc i =>
    let x := deltaOf lb (elemOf d i eb % 2 ^ lb) (e0 % 2 ^ lb)
    acc + (x % (2 ^ w : Nat)).toNat * 2 ^ (32 + w * i)) 0

/-- Expansion of a log-delta line (09 R233). -/
def unpackDelta (eb w c : Nat) : Nat :=
  let lb := eb - 2
  let h := c % 2 ^ eb
  (List.range (2048 / eb)).foldl (fun acc i =>
    let dl := c / 2 ^ (32 + w * i) % 2 ^ w
    let x : Int := if dl < 2 ^ (w - 1) then (dl : Int) else (dl : Int) - (2 ^ w : Nat)
    let l := (((h % 2 ^ lb : Nat) : Int) + x) % (2 ^ lb : Nat)
    acc + (h / 2 ^ (eb - 1) * 2 ^ (eb - 1) + l.toNat) * 2 ^ (eb * i)) 0

/-- Repeat a 32-bit word over a line. -/
def repeatWord (w : Nat) : Nat := (List.range 64).foldl (fun acc i => acc + w * 2 ^ (32 * i)) 0

/-- The form chosen for a line: code, sectors, content (09 R232, R234). -/
def compressLine (d : Nat) : Nat × Nat × Nat :=
  if d = 0 then (1, 1, 0)
  else if d = repeatWord (d % 2 ^ 32) then (2, 1, d % 2 ^ 32)
  else if fitsDelta 16 3 d then (3, 2, packDelta 16 3 d)
  else if fitsDelta 32 7 d then (5, 2, packDelta 32 7 d)
  else if fitsDelta 16 7 d then (4, 4, packDelta 16 7 d)
  else if fitsDelta 32 15 d then (6, 4, packDelta 32 15 d)
  else (0, 8, d)

/-- The bytes of a line held in form `code` (09 R232, R233). -/
def expandLine (code c : Nat) : Nat :=
  match code with
  | 1 => 0
  | 2 => repeatWord (c % 2 ^ 32)
  | 3 => unpackDelta 16 3 c
  | 4 => unpackDelta 16 7 c
  | 5 => unpackDelta 32 7 c
  | 6 => unpackDelta 32 15 c
  | _ => c

/-- Sectors a form occupies (09 R232). -/
def codeSectors (code : Nat) : Nat :=
  match code with
  | 1 => 1 | 2 => 1 | 3 => 2 | 4 => 4 | 5 => 2 | 6 => 4 | _ => 8

/-- The memory and fabric island meters work: 24 for 32 bytes of L2 access, 197 for 32 bytes of HBM transfer, 459 for
32 bytes that cross a port, in 2^−12 EU (15 R386). -/
def islandWork (s : State) (n : Nat) : State := s.modDev fun d => { d with island := d.island + n }

/-- Sectors of a mask. -/
def sectorCount (m : BitVec 8) : Nat := ((List.range 8).filter m.getLsbD).length

/-- The expanded content of a line as HBM holds it. -/
def hbmLine (s : State) (line : Nat) : Nat :=
  expandLine (tget s.hbmCode 0 line) (mread s.hbm (line * 256) (32 * codeSectors (tget s.hbmCode 0 line)))

/-- Write a line's place in HBM in a form; sectors beyond the form are not written. -/
def hbmPut (s : State) (line code n content : Nat) : State :=
  { islandWork s (197 * n) with
           hbm := mwrite s.hbm (line * 256) (32 * n) content,
           hbmCode := if code = 0 then tdel s.hbmCode line else tset s.hbmCode line code }

/-- Byte o of a line. -/
def lineByte (d : BitVec 2048) (o : Nat) : Byte := d.extractLsb' (8 * o) 8

/-- A line with byte o replaced. -/
def lineSet (d : BitVec 2048) (o : Nat) (b : Byte) : BitVec 2048 :=
  (d &&& ~~~(0xFF#2048 <<< (8 * o))) ||| (b.setWidth 2048 <<< (8 * o))

/-- A byte of device memory as its home holds it, without touching the caches. -/
def peekByte (s : State) (pa : Nat) : Nat :=
  match s.l2.find? (·.line == pa / 256) with
  | some l =>
    if l.valid.getLsbD (pa % 256 / 32) || l.dirty.getLsbD (pa % 256) then (lineByte l.data (pa % 256)).toNat
    else hbmLine s (pa / 256) / 2 ^ (8 * (pa % 256)) % 256
  | none =>
    if tget s.hbmCode 0 (pa / 256) = 0 then (mget s.hbm pa).toNat
    else hbmLine s (pa / 256) / 2 ^ (8 * (pa % 256)) % 256

/-- n bytes of device memory as their homes hold them. -/
def peek (s : State) (pa : Nat) : Nat → Nat
  | 0 => 0
  | n + 1 => peekByte s pa + 256 * peek s (pa + 1) n

/-- The sectors of an L2 line whose every byte it holds: valid ones, and those its dirty bytes cover (09 R222, R234). -/
def sectorsHeld (l : L2Line) : BitVec 8 :=
  (List.range 8).foldl (fun m j =>
    if l.valid.getLsbD j || l.dirty.extractLsb' (32 * j) 32 == BitVec.allOnes 32 then m ||| BitVec.ofNat 8 (2 ^ j) else m) 0

/-- Write a line's dirty bytes to HBM: compressed when the whole line is known, raw otherwise (09 R225, R234). The
context that allocated the line counts it (DESIGN CHOICE, log entry 59). -/
def writeBack (s : State) (l : L2Line) : State :=
  if l.dirty = 0 then s
  else
    -- written back with corrected check bits (09 R231)
    let s := { s with badMem := dropWords (l.line * 256) 256 s.badMem, softMem := dropWords (l.line * 256) 256 s.softMem }
    let s := s.modCtx l.ctx fun x => { x with lwback := x.lwback + 1 }
    if sectorsHeld l = 0xFF#8 then
      let c := compressLine l.data.toNat
      let s := s.modCtx l.ctx fun x => { x with lsaved := x.lsaved + BitVec.ofNat 64 (8 - c.2.1) }
      hbmPut s l.line c.1 c.2.1 c.2.2
    else
      let old := BitVec.ofNat 2048 (hbmLine s l.line)
      let new := (List.range 256).foldl
        (fun d o => if l.dirty.getLsbD o then lineSet d o (lineByte l.data o) else d) old
      hbmPut s l.line 0 8 new.toNat

/-- The dirty bytes of an L1 line as offsets in its L2 line. -/
def l1Dirty (x : L1Line) : List (Nat × Byte) :=
  (List.range 64).filterMap fun i =>
    if x.dirty.getLsbD i then some (x.line % 4 * 64 + i, x.data.extractLsb' (8 * i) 8) else none

/-- Merge bytes into an L2 line. -/
def mergeBytes (l : L2Line) (ws : List (Nat × Byte)) : L2Line :=
  ws.foldl (fun l w => { l with data := lineSet l.data w.1 w.2,
                                 dirty := l.dirty ||| BitVec.ofNat 256 (2 ^ w.1), code := 0 }) l

/-- Write an L1 line's dirty bytes to the home (09 R225); L2 includes every L1 line (R226). -/
def l1Flush (s : State) (x : L1Line) : State :=
  if x.dirty = 0 then s
  else
    let ln := x.line / 4
    let ws := l1Dirty x
    -- words written whole have new check bits (09 R231)
    let whole := (List.range 16).filter fun j => x.dirty.extractLsb' (4 * j) 4 == BitVec.allOnes 4
    let old (w : Nat) : Bool := !(whole.any fun j => w == x.line * 64 + 4 * j)
    let s := { s with badMem := s.badMem.filter old, softMem := s.softMem.filter old }
    let s :=
      if s.l2.any (·.line == ln) then
        { s with l2 := s.l2.map fun l => if l.line = ln then mergeBytes l ws else l }
      else
        hbmPut s ln 0 8 (ws.foldl (fun d w => lineSet d w.1 w.2) (BitVec.ofNat 2048 (hbmLine s ln))).toNat
    if s.monitors.isEmpty then s
    else eachDo (List.range 16) s fun s j =>
      if x.dirty.extractLsb' (4 * j) 4 = 0 then s
      else
        let pa := x.line * 64 + 4 * j
        checkMonitors s (.mem pa) (peek s pa 4)

/-- Write back every dirty line of a core's L1: the release half at device scope (10 R259). -/
def l1WriteAll (s : State) (c : Nat) : State :=
  if (s.core c).l1.isEmpty then s
  else
    let s := eachDo (s.core c).l1 s l1Flush
    s.modCore c fun k => { k with l1 := k.l1.map fun x => { x with dirty := 0 } }

/-- Write back and drop the L1 lines of a core that a predicate selects. -/
def l1Drop (s : State) (c : Nat) (p : L1Line → Bool) : State :=
  if !(s.core c).l1.any p then s
  else
    let s := eachDo ((s.core c).l1.filter p) s l1Flush
    s.modCore c fun k => { k with l1 := k.l1.filter fun x => !p x }

/-- A core takes an L1 copy of a line: its sharer field names the core, or the clusters of every core that took it
(09 R222). -/
def Sharers.take (x : Sharers) (c : Nat) : Sharers :=
  match x with
  | .none => .core c
  | .core d => if d = c then .core d else .clusters (sins [d / 16] (c / 16))
  | .clusters ks => .clusters (sins ks (c / 16))

/-- The cores whose L1 a sharer field says may hold the line. -/
def Sharers.cores (x : Sharers) : List Nat :=
  match x with
  | .none => []
  | .core c => [c]
  | .clusters ks => ks.flatMap fun k => (List.range 16).map (16 * k + ·)

/-- Recall an L2 line from the L1s that may hold it (09 R226). -/
def recallLine (s : State) (line : Nat) (sharers : Sharers) : State :=
  eachDo sharers.cores s fun s c => l1Drop s c (·.line / 4 == line)

/-- Promotion: both cores of the tagged pair perform the release of device scope for global accesses: their groups'
stores have reached the L1, which is written back (10 R259, R261; log entry 56). -/
def promote (s : State) (pair : Nat) : State := l1WriteAll (l1WriteAll s (2 * pair)) (2 * pair + 1)

/-- The line an allocation evicts from a full set: least recently used, sparing Keep (09 R222, R230). -/
def victim (s : State) (pa : Nat) : Option L2Line :=
  let same := s.l2.filter fun l => sliceOf (l.line * 256) == sliceOf pa && setOf (l.line * 256) == setOf pa
  if same.length < 16 then none
  else match (same.filter fun l => !l.keep).getLast? with
    | some l => some l
    | none => same.getLast?

/-- Evict a line: recall, promotion, write-back (09 R226, 10 R261). -/
def evict (s : State) (l : L2Line) : State :=
  let s := match l.promo with | some p => promote s p | none => s
  let s := recallLine s l.line l.sharers
  let s := match s.l2.find? (·.line == l.line) with | some l => writeBack s l | none => s
  { s with l2 := s.l2.filter fun x => x.line != l.line }

/-- An access that reaches a physical address: past device memory there is none (09 R221). -/
def reach (s : State) (pa : Nat) : State := if Config.hbmBytes ≤ pa then { s with noMem := some pa } else s

/-- The line in L2 with the sectors of `need` valid, filled from HBM; allocated when absent
(09 R222, R224). DESIGN CHOICE (log entry 59): a line is a Keep line when it was allocated under Keep, and every
allocation counts as a line filled for the context that makes it. -/
def l2Get (s : State) (ctx line : Nat) (need : BitVec 8) (pol : Nat) : State × L2Line :=
  let pa := line * 256
  let s := reach s pa
  let present := s.l2.any (·.line == line)
  let (s, l) := match s.l2.find? (·.line == line) with
    | some l => (s, l)
    | none =>
      let s := match victim s pa with | some v => evict s v | none => s
      let s := s.modCtx ctx fun x => { x with lfill := x.lfill + 1 }
      (s, { line := line, data := 0, valid := 0, dirty := 0, code := tget s.hbmCode 0 line,
            sharers := .none, promo := none, keep := decide (pol = 2), ctx := ctx })
  let miss := need &&& ~~~l.valid
  let s := islandWork s (24 * sectorCount need + 197 * sectorCount miss)
  let l := if miss = 0 then l else
    -- the bytes written since the sector was last filled stay
    let h := (List.range 256).foldl (fun h o => if l.dirty.getLsbD o then lineSet h o (lineByte l.data o) else h)
      (BitVec.ofNat 2048 (hbmLine s line))
    let data := (List.range 8).foldl (fun d j =>
        if miss.getLsbD j then
          (d &&& ~~~(BitVec.ofNat 2048 (2 ^ 256 - 1) <<< (256 * j))) |||
            (h &&& (BitVec.ofNat 2048 (2 ^ 256 - 1) <<< (256 * j)))
        else d) l.data
    { l with data := data, valid := l.valid ||| miss }
  let rest := s.l2.filter fun x => x.line != line
  ({ s with l2 := if pol = 1 ∧ !present then rest ++ [l] else l :: rest }, l)

/-- Replace a line of L2. -/
def l2Put (s : State) (l : L2Line) : State :=
  { s with l2 := s.l2.map fun x => if x.line = l.line then l else x }

/-- The sectors that n bytes from pa touch in pa's line. -/
def sectorsOf (pa n : Nat) : BitVec 8 :=
  (List.range 8).foldl (fun m j =>
    if pa % 256 < 32 * j + 32 ∧ 32 * j < pa % 256 + n then m ||| BitVec.ofNat 8 (2 ^ j) else m) 0

/-- Does an access of policy No-allocate miss the L2, and so go to HBM without a line (09 R230)? -/
def passesL2 (s : State) (pa pol : Nat) : Bool := pol == 3 && !(s.l2.any (·.line == pa / 256))

/-- The words with a correctable error that an access of n bytes meets are corrected in place and counted (09 R231). -/
def correctMem (s : State) (pa n : Nat) : State :=
  if s.softMem.isEmpty then s
  else
    let hit (w : Nat) : Bool := w < pa + n && pa < w + 4
    { s with softMem := s.softMem.filter fun w => !hit w }.modDev fun d =>
      { d with l2ce := d.l2ce + BitVec.ofNat 64 (s.softMem.filter hit).length }

/-- The same for words of a core's store (09 R231, 16 R408). -/
def correctStore (s : State) (c : Nat) : State :=
  if (s.core c).softStore.isEmpty then s
  else s.modCore c fun k => { k with ce := k.ce + BitVec.ofNat 64 k.softStore.length, softStore := [] }

/-- Read n bytes at the home; they lie in one line. -/
def homeRead (s : State) (ctx pa n : Nat) (pol : Nat := 0) : State × Nat :=
  let s := correctMem s pa n
  if passesL2 s pa pol then
    (islandWork (reach s (pa / 256 * 256)) (197 * sectorCount (sectorsOf pa n)),
     hbmLine s (pa / 256) / 2 ^ (8 * (pa % 256)) % 2 ^ (8 * n))
  else
    let r := l2Get s ctx (pa / 256) (sectorsOf pa n) pol
    (r.1, r.2.data.toNat / 2 ^ (8 * (pa % 256)) % 2 ^ (8 * n))

/-- Check the monitors of the words that n bytes from pa touch. -/
def checkMemMonitors (s : State) (pa n : Nat) : State :=
  if s.monitors.isEmpty then s
  else eachDo (List.range ((pa % 4 + n + 3) / 4)) s fun s j =>
    let w := pa / 4 * 4 + 4 * j
    checkMonitors s (.mem w) (peek s w 4)

/-- Bytes as offsets in the line of their address. -/
def lineBytes (pa n v : Nat) : List (Nat × Byte) :=
  (List.range n).map fun i => (pa % 256 + i, BitVec.ofNat 8 (v / 2 ^ (8 * i)))

/-- A line that follows a write of its bytes to HBM: these bytes are not dirty in it (09 R230). -/
def followBytes (l : L2Line) (ws : List (Nat × Byte)) : L2Line :=
  { mergeBytes l ws with dirty := ws.foldl (fun d w => d &&& ~~~BitVec.ofNat 256 (2 ^ w.1)) l.dirty }

/-- Write n bytes at the home; they lie in one line (09 R225, R237). Under No-allocate they go to HBM, and a line that
the L2 holds already follows (09 R230). -/
def homeWrite (s : State) (ctx pa n v : Nat) (pol : Nat := 0) : State :=
  if pol = 3 then
    let line := pa / 256
    let ws := lineBytes pa n v
    let new := ws.foldl (fun d w => lineSet d w.1 w.2) (BitVec.ofNat 2048 (hbmLine s line))
    let s := { reach s (line * 256) with
      badMem := dropWords pa n s.badMem, softMem := dropWords pa n s.softMem
      l2 := s.l2.map fun l => if l.line = line then followBytes l ws else l }
    checkMemMonitors (hbmPut s line 0 8 new.toNat) pa n
  else
    let r := l2Get s ctx (pa / 256) (sectorsOf pa n) pol
    let l := mergeBytes r.2 (lineBytes pa n v)
    let s := { r.1 with badMem := dropWords pa n r.1.badMem, softMem := dropWords pa n r.1.softMem }
    checkMemMonitors (l2Put s l) pa n

/-- A bus read of a span that may cross lines: recalled first from every L1 (plain system-scope read). -/
def sysRead (s : State) (ctx pa : Nat) : Nat → State × Nat
  | 0 => (s, 0)
  | n + 1 =>
    let r := homeRead s ctx pa 1
    let q := sysRead r.1 ctx (pa + 1) n
    (q.1, r.2 + 256 * q.2)

/-- A bus write of a span that may cross lines. -/
def sysWrite (s : State) (ctx pa : Nat) : Nat → Nat → State
  | 0, _ => s
  | n + 1, v => sysWrite (homeWrite s ctx pa 1 (v % 256)) ctx (pa + 1) n (v / 256)

/-- An uncorrectable word among n bytes from pa (09 R231). -/
def memBad (s : State) (pa n : Nat) : Bool :=
  s.badMem.any fun w => w < pa + n && pa < w + 4

def storeBad (s : State) (c off n : Nat) : Bool :=
  (s.core c).badStore.any fun w => w < off + n && off < w + 4

/-- Set the promotion tag of a line, or clear it (10 R260). A line that the L2 does not keep is as one evicted at once:
its tag is promoted (10 R261). -/
def setPromo (s : State) (line : Nat) (p : Option Nat) : State :=
  if s.l2.any (·.line == line) then
    { s with l2 := s.l2.map fun l => if l.line = line then { l with promo := p } else l }
  else match p with
    | some k => promote s k
    | none => s

/-- A device-scope strong read of an agent reaches a tagged line: promotion, unless it comes from the tagged pair
(10 R261). -/
def promoteFrom (s : State) (pair : Option Nat) (line : Nat) : State :=
  match s.l2.find? (·.line == line) with
  | none => s
  | some l => match l.promo with
    | none => s
    | some p => if some p = pair then s else setPromo (promote s p) line none

/-- The same read from core c. -/
def promoteRead (s : State) (c line : Nat) : State := promoteFrom s (some (c / 2)) line

/-- Record the form a line of the L2 is held in. -/
def codeLine (s : State) (line code : Nat) : State :=
  { s with l2 := s.l2.map fun l => if l.line = line then { l with code := code } else l }

/-- An atomic or a full/empty access has reached a line at its home: the line is held raw from then on (09 R237). -/
def rawLine (s : State) (line : Nat) : State := codeLine s line 0

end Sys2Proof.Machine
end

