-- ==== Sys2Proof/Machine/Translate.lean ====
section
/-! DEFINITION. Address translation: the page walk, the TLBs, translation registers and the addresses of
lanes (08 R196, 13 R339 to R344). -/

namespace Sys2Proof.Machine

open State

/-- The outcome of a page walk (13 R343, R344). -/
inductive Walk where
  | absent
  | malformed
  /-- A leaf, its physical address, and whether it is a 2-MiB leaf. -/
  | leaf (e : DWord) (at_ : Nat) (big : Bool)
  deriving DecidableEq, Repr

/-- Index shift and bits of a level (13 R343). -/
def levelShift : Nat → Nat
  | 3 => 45 | 2 => 33 | 1 => 21 | _ => 16

def levelBits : Nat → Nat
  | 0 => 5 | _ => 12

/-- Reserved bits of a leaf and its own rules (13 R344). -/
def leafOk (e : DWord) (big : Bool) : Bool :=
  fld e 55 2 == 0 && fld e 6 10 == 0 && fld e 3 1 == 0 && fld e 1 1 == 0 &&
    !(fld e 57 1 == 1 && (fld e 58 1 == 1 || fld e 59 1 == 1)) && (!big || fld e 16 5 == 0)

/-- A pointer entry has P, LEAF = 0 and the table's address, every other bit zero (13 R343). -/
def pointerOk (e : DWord) : Bool := fld e 52 12 == 0 && fld e 1 7 == 0

/-- The walk below a table at one level. -/
def walkFrom (s : State) (v : Nat) : Nat → Nat → Walk
  | level, table =>
    let at_ := table + 8 * (v / 2 ^ levelShift level % 2 ^ levelBits level)
    let e := BitVec.ofNat 64 (peek s at_ 8)
    if fld e 0 1 = 0 then .absent
    else match level with
      | 0 => if fld e 2 1 = 1 && leafOk e false then .leaf e at_ false else .malformed
      | l + 1 =>
        if fld e 2 1 = 1 then (if l = 0 && leafOk e true then .leaf e at_ true else .malformed)
        else if pointerOk e then walkFrom s v l (fld e 8 44 * 256) else .malformed

/-- Walk the page tables of a context for a 57-bit address. -/
def walk (s : State) (c v : Nat) : Walk := walkFrom s v 3 (s.ctx c).ptroot

/-- A physical address with the attributes of its page (13 R339, R343). -/
structure Phys where
  pa : Nat
  r : Bool
  w : Bool
  x : Bool
  pr : Bool
  peer : Nat
  fek : Bool
  hb : Bool
  deriving DecidableEq, Repr

/-- The physical address of v under a leaf. -/
def leafPhys (e : DWord) (big : Bool) (v : Nat) : Phys :=
  let size := if big then 2 ^ 21 else 2 ^ 16
  { pa := fld e 16 36 * 65536 / size * size + v % size,
    r := fld e 52 1 == 1, w := fld e 53 1 == 1, x := fld e 54 1 == 1, pr := fld e 59 1 == 1,
    peer := fld e 60 4, fek := fld e 58 1 == 1, hb := fld e 57 1 == 1 }

/-- Set A, and D for a write, in a page entry: a system-scope atomic OR at its home (13 R344). -/
def setAD (s : State) (c at_ : Nat) (write : Bool) : State :=
  let old := peekByte s at_
  let new := Nat.lor old (if write then 0x30 else 0x20)
  if old = new then s else homeWrite s c at_ 1 new

/-- The outcome of a translation. -/
inductive Xl where
  | absent
  | malformed
  | ok (p : Phys)
  deriving DecidableEq, Repr

/-- The group of a headland entry, and its record, when it waits at a word of a page of a context (08 R209). -/
def waitsOn (s : State) (c page : Nat) (w : Waiter) : Option (Nat × ParkRec × Nat) :=
  match w.who, w.obj with
  | .group k n, .mem _ =>
    let g := k * 32 + n
    match (s.grp g).park with
    | some r => match r.cause with
      | .feMem _ fe => if s.ctxOf g = c ∧ r.lead / 65536 = page then some (g, r, fe) else none
      | _ => none
    | none => none
  | _, _ => none

/-- The entries of groups that wait at words of a page stand at the words of its new frame, once it is translated again
after it was restored (08 R209; log entry 13). -/
def followPage (s : State) (c page : Nat) (leaf : DWord) (big : Bool) : State :=
  let word (r : ParkRec) : Nat := (leafPhys leaf big r.lead).pa / 4 * 4
  let here := s.headland.filterMap (waitsOn s c page)
  if here.isEmpty || (leafPhys leaf big 0).pr || (leafPhys leaf big 0).hb then s
  else
    let move (w : Waiter) : Waiter := match waitsOn s c page w with
      | some (_, r, _) => { w with obj := .mem (word r) }
      | none => w
    let s := { s with headland := s.headland.map move }
    eachDo here s fun s h => s.modGrp h.1 fun x => { x with park := some { h.2.1 with cause := .feMem (word h.2.1) h.2.2 } }

/-- Translate through the TLB of a core (13 R340, R344): an entry holds until a shoot-down. -/
def translate (s : State) (core c v : Nat) : State × Xl :=
  let page := v / 65536
  match (s.core core).tlb.find? fun t => t.ctx == c && t.page == page with
  | some t => (s, .ok (leafPhys t.leaf t.big v))
  | none =>
    match walk s c v with
    | .absent => (s, .absent)
    | .malformed => (s, .malformed)
    | .leaf e at_ big =>
      let s := followPage (setAD s c at_ false) c page e big
      (s.modCore core fun k => { k with tlb :=
        { ctx := c, page := page, leaf := e, entry := at_, big := big, dirty := false } :: k.tlb },
       .ok (leafPhys e big v))

/-- A write through the TLB of a core: the first one of an entry sets D (13 R344). -/
def dirty (s : State) (core c v : Nat) : State :=
  let page := v / 65536
  match (s.core core).tlb.find? fun t => t.ctx == c && t.page == page with
  | some t =>
    if t.dirty then s
    else setAD (s.modCore core fun k => { k with tlb := k.tlb.map fun u =>
      if u.ctx = c ∧ u.page = page then { u with dirty := true } else u }) c t.entry true
  | none => s

/-- Is a peer reachable: named by PEERMAP, its port up (16 R410)? -/
def peerUp (s : State) (p : Nat) : Bool :=
  let port := fld s.dev.peermap (4 * p) 4
  port < 8 && s.dev.up.getLsbD port

/-- Where a lane's access goes: the team window, one place of at most 32 bytes, or the pieces of a
memory span with their lengths. -/
inductive Place where
  | store (off : Nat)
  | mem (p : Phys)
  | span (ps : List (Nat × Phys))
  deriving DecidableEq, Repr

/-- What a lane's address comes to before it is performed (08 R196, R197). -/
inductive LaneX where
  | misalign (a : Nat)
  | prot (a : Nat)
  | malformed (a : Nat)
  | absent (a : Nat)
  | ok (a : Nat) (p : Place)
  deriving DecidableEq, Repr

/-- How an access uses its page (08 R209, 13 R340, R344). -/
structure Use where
  write : Bool
  /-- A form other than plain and `.wait`, which needs FEK = 1. -/
  state : Bool
  /-- A full/empty form other than `.wait`, or a write: beyond LIMIT when WR = 0. -/
  needWr : Bool
  /-- A `.wait` form, which needs R whatever else the access needs. -/
  wait : Bool := false
  deriving DecidableEq, Repr

/-- Check permissions of a page for a use (08 R209, 13 R344, 16 R410). -/
def pageOk (s : State) (u : Use) (p : Phys) : Bool :=
  (if u.write || u.state then p.w else p.r) && (!u.wait || p.r) && (!u.state || p.fek) && (!p.pr || peerUp s p.peer)

/-- The core whose store holds a store-local address of a team (04 R99). -/
def storeCore (t : Team) (core off : Nat) : Nat :=
  if !t.pair || off < t.scr then t.core
  else if off < t.scr + t.hr then core
  else if 32 ≤ (t.slots[(off - t.scr - t.hr) / (max t.win 1)]?).getD 0 then t.core + 1 else t.core

/-- Resolve a lane's address: offset o through translation register n, `bytes` wide, aligned to `align`
(08 R196, R197, 13 R340). -/
def resolve (s : State) (g : Nat) (n : Nat) (o : Int) (bytes align : Nat) (u : Use) : State × LaneX :=
  let x := s.grp g
  let t := tget x.tregs {} n
  let a : Int := (t.vbase : Int) + o
  if a % (align : Int) ≠ 0 then (s, .misalign (a % 2 ^ 64).toNat)
  else if !t.val then (s, .prot (a % 2 ^ 64).toNat)
  else if n = 0 then
    if 0 ≤ o ∧ o + bytes ≤ t.limit then (s, .ok o.toNat (.store o.toNat)) else (s, .prot (o % 2 ^ 64).toNat)
  else if 0 ≤ o ∧ o + bytes ≤ t.limit ∧ (!u.needWr || t.wr) then
    let p : Phys := { pa := t.pbase + o.toNat, r := true, w := t.wr, x := false, pr := t.pr, peer := t.peer,
                      fek := t.fek, hb := t.hb }
    (s, if pageOk s u p then .ok a.toNat (.mem p) else .prot a.toNat)
  else if a < 0 ∨ (2 ^ 57 : Int) < a + bytes then (s, .prot (a % 2 ^ 64).toNat)
  else
    let r := translate s (g / 32) (s.ctxOf g) a.toNat
    match r.2 with
    | .absent => (r.1, .absent a.toNat)
    | .malformed => (r.1, .malformed a.toNat)
    | .ok p => (r.1, if pageOk s u p then .ok a.toNat (.mem p) else .prot a.toNat)

/-- Lengths of the pieces of a span, cut at multiples of 32 bytes. -/
def pieces (a n : Nat) : List Nat :=
  let first := min n (32 - a % 32)
  if n = 0 then []
  else first :: ((List.range ((n - first + 31) / 32)).map fun j => min 32 (n - first - 32 * j))

/-- Resolve the pieces of a span in address order: the first that fails decides. -/
def resolvePieces (s : State) (g n : Nat) (u : Use) : List Nat → Int → List (Nat × Phys) → State × LaneX
  | [], o, acc => (s, .ok (((tget (s.grp g).tregs {} n).vbase : Int) + o).toNat (.span acc))
  | l :: r, o, acc =>
    let q := resolve s g n o l 1 u
    match q.2 with
    | .ok _ (.mem p) => resolvePieces q.1 g n u r (o + l) (acc ++ [(l, p)])
    | x => (q.1, x)

/-- Resolve a lane whose memory span may cross lines and pages (11 R297). -/
def resolveSpan (s : State) (g n : Nat) (o : Int) (bytes align : Nat) (u : Use) : State × LaneX :=
  let a := ((tget (s.grp g).tregs {} n).vbase : Int) + o
  if a % (align : Int) ≠ 0 then (s, .misalign (a % 2 ^ 64).toNat)
  else
    let r := resolvePieces s g n u (pieces (a % 32).toNat bytes) o []
    (r.1, match r.2 with | .ok _ p => .ok a.toNat p | x => x)

/-- Translate for an agent without a TLB of its own on a core: the command processor, the host window. -/
def xlateVia (s : State) (c v : Nat) : Xl :=
  if 2 ^ 57 ≤ v then .malformed
  else match walk s c v with
    | .absent => .absent
    | .malformed => .malformed
    | .leaf e _ big => .ok (leafPhys e big v)

end Sys2Proof.Machine
end

