-- ==== Sys2Proof/Machine/Records.lean ====
section
/-! DEFINITION. Fault and event records, the notices of q5 and q6, and MSI-X (13 R349 to R352,
15 R392, 16 R404, R409). -/

namespace Sys2Proof.Machine

open State

/-- A vector of a function is raised: its message leaves, or its pending bit is set while it is masked (16 R404, R405;
log entry 65). -/
def raiseVector (s : State) (fn v : Nat) : State :=
  if (s.fn fn).vmask.getLsbD v then s.modFn fn fun x => { x with pba := x.pba ||| BitVec.ofNat 4 (2 ^ v) }
  else s.send (.msix fn v)

/-- Raise vector 0 or 1 of a context's function, once until the host reads the queue's tail (16 R404). -/
def raiseFq (s : State) (c : Nat) : State :=
  if (s.ctx c).fqPend then s else raiseVector (s.modCtx c fun x => { x with fqPend := true }) (s.ctx c).fn 0

def raiseEq (s : State) (c : Nat) : State :=
  if (s.ctx c).eqPend then s else raiseVector (s.modCtx c fun x => { x with eqPend := true }) (s.ctx c).fn 1

/-- A device error raises vector 3 of the physical function (16 R404). DESIGN CHOICE (log entry 57): the device errors are
the uncorrectable memory errors that a group, an engine or the command processor meets. -/
def deviceError (s : State) : State := raiseVector s 0 3

/-- The fields of a fault record (13 R349). -/
structure FRec where
  kind : Nat
  code : Nat := 0
  addr : Nat := 0
  wait : Nat := 0
  acc : Nat := 0
  core : Nat := 0
  slot : Nat := 0
  eng : Bool := false
  psh : Bool := false
  /-- The launch concerned, by its number. -/
  launch : Option Nat := none
  /-- The group that gets the notice of R352. -/
  notice : Option Nat := none
  deriving DecidableEq, Repr

def b2n (b : Bool) : Nat := if b then 1 else 0

/-- The slot of a group as records name it: 32 more on the upper core of its team's pair (04 R99, 13 R349). -/
def slotNum (s : State) (g : Nat) : Nat :=
  g % 32 + if (s.teamOf g).pair && g / 32 != (s.teamOf g).core then 32 else 0

/-- Write doublewords to physical memory. -/
def writeDws (s : State) (c pa : Nat) : List Nat → State
  | [] => s
  | d :: r => writeDws (sysWrite s c pa 8 d) c (pa + 8) r

/-- Push an entry to q5, or mark the next one (13 R352). -/
def pushQ5 (s : State) (g : Nat) (e : QEntry) : State :=
  s.modGrp g fun x =>
    if 8 ≤ x.q.q5.length then { x with q := { x.q with q5lost := true } }
    else
      let e := if x.q.q5lost then e.take 2 ++ [0x80000000#32] else e
      { x with q := { x.q with q5 := x.q.q5 ++ [e], q5lost := false } }

/-- Is the group of a slot resident? -/
def resident (x : Group) : Bool :=
  match x.st with
  | .eligible => true
  | .held => true
  | .parked => true
  | _ => false

/-- Is the fault ring of a context full (13 R350, 16 R406)? -/
def fqFull (x : Ctx) : Bool := (x.fqtail + 1) % 2 ^ (x.fqsize + 6) == x.fqhead % 2 ^ (x.fqsize + 6)

/-- Write a fault record, or count it lost (13 R349, R350). The launch it names is counted faulted. -/
def faultRecord (s : State) (c : Nat) (f : FRec) : State :=
  let x := s.ctx c
  let s := match f.launch with
    | none => s
    | some l => s.modLaunch l fun y => { y with nflt := min 65535 (y.nflt + 1), faulted := true }
  let rec_ := match f.launch with | none => 0 | some l => (s.launch l).rec_
  if fqFull x then s.setCtx c { x with fqlost := (x.fqlost + 1) % 2 ^ 32, fqseq := (x.fqseq + 1) % 2 ^ 32 }
  else
    let n := 2 ^ (x.fqsize + 6)
    let dw0 := f.kind * 2 ^ 56 + f.code % 256 * 2 ^ 48 + c * 2 ^ 42 + x.fqseq
    let dw2 := min f.wait 65535 * 2 ^ 48 + f.acc * 2 ^ 44 + f.core * 2 ^ 32 +
      (if f.eng then 0 else f.slot) * 2 ^ 26 + b2n f.eng * 2 ^ 25 + b2n f.psh * 2 ^ 24
    let s := writeDws s c (x.fqbase / (32 * n) * (32 * n) + 32 * (x.fqtail % n))
      [dw0, f.addr % 2 ^ 57, dw2, rec_]
    let s := s.modCtx c fun y => { y with fqtail := (y.fqtail + 1) % n, fqseq := (y.fqseq + 1) % 2 ^ 32 }
    let s := raiseFq s c
    match f.notice with
    | none => s
    | some g =>
      if resident (s.grp g) then
        pushQ5 s g [BitVec.ofNat 32 (f.kind * 2 ^ 24 + x.fqseq % 2 ^ 24), BitVec.ofNat 32 f.addr]
      else s

def eqFull (x : Ctx) : Bool := (x.eqtail + 1) % 2 ^ (x.eqsize + 6) == x.eqhead % 2 ^ (x.eqsize + 6)

/-- Write an event record; the answer is its SEQ, 0 when the ring is full (16 R409, R414). -/
def eventRecord (s : State) (c kind cl p0 p1 p2 p3 data : Nat) : State × Nat :=
  let x := s.ctx c
  if eqFull x then
    (s.setCtx c { x with eqlost := (x.eqlost + 1) % 2 ^ 32, eqseq := (x.eqseq + 1) % 2 ^ 32 }, 0)
  else
    let n := 2 ^ (x.eqsize + 6)
    let s := writeDws s c (x.eqbase / (32 * n) * (32 * n) + 32 * (x.eqtail % n))
      [kind * 2 ^ 56 + cl * 2 ^ 48 + c * 2 ^ 42 + x.eqseq, p0 % 2 ^ 32 * 2 ^ 32 + p1 % 2 ^ 32,
       p2 % 2 ^ 32 * 2 ^ 32 + p3 % 2 ^ 32, data]
    let s := s.modCtx c fun y => { y with eqtail := (y.eqtail + 1) % n, eqseq := (y.eqseq + 1) % 2 ^ 32 }
    (raiseEq s c, x.eqseq)

/-- Push a notice to q6 of a group, or mark the next one; wake a group that sleeps for it (15 R392, R401). -/
def pushQ6 (s : State) (g : Nat) (e : QEntry) : State :=
  let s := s.modGrp g fun x =>
    if 8 ≤ x.q.q6.length then { x with q := { x.q with q6lost := true } }
    else
      let e := if x.q.q6lost then e ++ [0x80000000#32] else e
      { x with q := { x.q with q6 := x.q.q6 ++ [e], q6lost := false } }
  match (s.grp g).park with
  | some r => match r.cause with
    | .sleep _ true => s.post (.sleepWake (g / 32) (g % 32))
    | _ => s
  | none => s

/-- The groups of a team that hold slots. -/
def teamGroups (t : Team) : List Nat := t.slots.map fun k => (t.core + k / 32) * 32 + k % 32

/-- The groups of a team. A slot that a member has left may hold a group of another team (01 R20). -/
def membersOf (s : State) (t : Nat) : List Nat :=
  (teamGroups (s.team t)).filter fun g => (s.grp g).st != .free && (s.grp g).team == t

/-- A notice of kind 1 to 6 to every group of a team and to the event queue (15 R392). -/
def notice (s : State) (t kind : Nat) : State :=
  let x := s.team t
  let k := x.cluster
  let cl := s.cluster k
  let eu := min (x.meter / 4096) (2 ^ 32 - 1)
  let e : QEntry := [BitVec.ofNat 32 (kind * 2 ^ 24 + k * 2 ^ 16 + cl.interval % 2 ^ 16), BitVec.ofNat 32 eu,
    BitVec.ofNat 32 cl.allot]
  let here (y : Group) : Bool := resident y || (y.st == .saved && x.st == .resident)
  let s := eachDo (membersOf s t) s fun s g => if here (s.grp g) then pushQ6 s g e else s
  (eventRecord s x.ctx kind k cl.interval eu cl.allot 0 (s.launch x.launch).rec_).1

/-- The group a report names, which gets the notice of its record (13 R352). -/
def reportGroup (f : OpenFault) : Option Nat :=
  match f.waiters with
  | .group c k :: _ => some (c * 32 + k)
  | _ => none

/-- Write the record of a report (13 R349). -/
def writeReport (s : State) (f : OpenFault) : State :=
  faultRecord s f.ctx {
    kind := 1, code := f.code, addr := f.page * 65536, wait := if f.code = 0 then f.waiters.length else 0,
    acc := f.acc.toNat, core := f.core, slot := f.slot, eng := f.eng,
    launch := if f.code = 0 ∨ f.launch = 0 then none else some f.launch, notice := reportGroup f }

/-- A report without room waits in the cluster stage, where reports of one context and page are merged (13 R347,
R348). -/
def holdReport (s : State) (f : OpenFault) : State :=
  let same (o : OpenFault) : Bool := o.ctx == f.ctx && o.page == f.page && o.code == 0 && f.code == 0
  if s.faultWait.any same then
    { s with faultWait := s.faultWait.map fun o =>
        if same o then { o with acc := o.acc ||| f.acc, waiters := o.waiters ++ f.waiters } else o }
  else { s with faultWait := s.faultWait ++ [f] }

/-- A report of one page by one waiter (13 R347, R348, R350): join the open entry, open one with its record, or wait for
room behind the reports of its context that wait already. A malformed entry has a record and no open fault. -/
def reportPage (s : State) (f : OpenFault) : State :=
  if f.code = 0 ∧ s.faults.any (fun o => o.ctx == f.ctx && o.page == f.page) then
    { s with faults := s.faults.map (fun o =>
        if o.ctx = f.ctx ∧ o.page = f.page then
          { o with acc := o.acc ||| f.acc, waiters := o.waiters ++ f.waiters } else o) }
  else if (f.code = 0 ∧ Config.openFaults ≤ s.faults.length) ∨ fqFull (s.ctx f.ctx) ∨ s.faultWait.any (·.ctx == f.ctx) then
    holdReport s f
  else if f.code ≠ 0 then writeReport s f
  else
    let seq := (s.ctx f.ctx).fqseq
    let s := writeReport s f
    { s with faults := s.faults ++ [{ f with seq := seq }] }

/-- The record of a malformed entry that a group's access to a page met (13 R344). -/
def malformedRecord (s : State) (g page : Nat) (acc : BitVec 4) : State :=
  reportPage s {
    ctx := s.ctxOf g, page := page / 65536, acc := acc, seq := 0, core := g / 32, slot := slotNum s g, eng := false,
    launch := (s.teamOf g).launch, waiters := [.group (g / 32) (g % 32)], code := 0x06 }

end Sys2Proof.Machine
end

