-- ==== Sys2Proof/Machine/Ops.lean ====
section
/-! DEFINITION. The named operations of a group: registers, the forwarding window, holding, advancing,
parking, delivering results, taking a trap and returning from one (02 R59, 03 R74 to R81, 04 R103,
13 R353 to R358). -/

namespace Sys2Proof.Machine

open State

/-- Store offset of register `reg`, lane i, of a group (04 R95, R100). -/
def regOff (t : Team) (x : Group) (reg i : Nat) : Nat :=
  t.frame + t.scr + t.hr + x.member * t.win + reg * x.gw * 4 + i * 4

/-- Store offset of team register k, position i (04 R95). -/
def hregOff (t : Team) (gw k i : Nat) : Nat := t.frame + t.scr + k * gw * 4 + i * 4

/-- The newest window result for a register and lane (02 R59, 04 R103). -/
def winFind (reg i : Nat) : List WinEntry → Option Word
  | [] => none
  | e :: r =>
    match e.vals.find? fun v => v.reg == reg && v.lane == i with
    | some v => some v.val
    | none => winFind reg i r

/-- `vlc` of a team: LCB and the team number, modulo 4,096 outside deterministic launches (12 R307, 14 R372). -/
def logicalCore (l : Launch) (number : Nat) : Word :=
  let v := fld (l.dw.getD 3 0) 32 12 + number
  BitVec.ofNat 32 (if l.det then v else v % 4096)

/-- ReadV (02 R59); `qe` is the entry the instruction popped. -/
def readV (s : State) (g : Nat) (qe : QEntry) (reg i : Nat) : Word :=
  let x := s.grp g
  let t := s.team x.team
  if reg ≤ 191 then
    match winFind reg i x.window with
    | some v => v
    | none => BitVec.ofNat 32 (storeRead s (g / 32) (regOff t x reg i) 4)
  else if reg ≤ 223 then BitVec.ofNat 32 (storeRead s (g / 32) (hregOff t x.gw (reg - 192) i) 4)
  else if reg ≤ 239 then qe.getD i 0
  else match reg with
    | 241 => BitVec.ofNat 32 i
    | 242 => BitVec.ofNat 32 x.vgrp
    | 243 => BitVec.ofNat 32 t.number
    | 244 => logicalCore (s.launch t.launch) t.number
    | 245 => BitVec.ofNat 32 x.gw
    | _ => 0

/-- ReadS and WriteS: s127 reads zero and discards (02 R59). -/
def readS (s : State) (g n : Nat) : DWord := if n = 127 then 0 else tget (s.grp g).sregs 0 n
def writeS (s : State) (g n : Nat) (v : DWord) : State :=
  if n = 127 then s else s.modGrp g fun x => { x with sregs := tset x.sregs n v }

/-- Pred: p0 reads true (02 R59). -/
def predOf (x : Group) (n : Nat) : Mask := if n = 0 then BitVec.allOnes 64 else tget x.preds 0 n

/-- Write the lanes of `lanes` of predicate n. -/
def writeP (s : State) (g n : Nat) (lanes v : Mask) : State :=
  s.modGrp g fun x => { x with preds := tset x.preds n ((predOf x n &&& ~~~lanes) ||| (v &&& lanes)) }

/-- A uniform predicate result: all of the lanes below GW alike, zero above (12 R324). -/
def writePU (s : State) (g n : Nat) (v : Bool) : State :=
  writeP s g n (BitVec.allOnes 64) (if v then lowMask (s.grp g).gw else 0)

/-- ActiveMask (02 R59). -/
def activeMask (x : Group) (ps : BitVec 3) (pn : Bool) : Mask :=
  let p := predOf x ps.toNat
  x.em &&& lowMask x.gw &&& (if pn then ~~~p else p)

/-- Write one 32-bit word of a register window's bank. -/
def bankWrite (s : State) (g reg i : Nat) (v : Word) : State :=
  let x := s.grp g
  storeWrite s (g / 32) (regOff (s.team x.team) x reg i) 4 v.toNat

/-- Write a team register in every core that holds the team (04 R99, R106). -/
def hregWrite (s : State) (t : Team) (gw k i : Nat) (v : Word) : State :=
  let s := storeWrite s t.core (hregOff t gw k i) 4 v.toNat
  if t.pair then storeWrite s (t.core + 1) (hregOff t gw k i) 4 v.toNat else s

/-- The CYC that times a group's team-register writes: the lower core's, for a team that spans a pair, whose clocks act
as one (04 R99, R106). -/
def teamCyc (s : State) (g : Nat) : Nat :=
  let t := s.teamOf g
  (s.core (if t.pair then t.core else g / 32)).cyc.toNat

/-- Put team-register results in flight: they take effect at the end of cycle `due` (04 R106). -/
def teamWrites (s : State) (g due : Nat) (vs : List VRes) : State :=
  if vs.isEmpty then s
  else
    let new := vs.map fun v => (due, g, v.reg - 192, v.lane, v.val)
    s.modTeam (s.grp g).team fun t => { t with hpend := t.hpend ++ new }

/-- The team-register results among some. -/
def teamPart (vs : List VRes) : List VRes := vs.filter fun v => 192 ≤ v.reg && v.reg ≤ 223

/-- Place the results of one instruction: window, bank unless K = 1, team registers at the end of cycle
`due` (02 R59, 04 R103, R104, R106). `dest` tells that the destination is one of v0 to v191. -/
def writeVs (s : State) (g : Nat) (k dest : Bool) (due : Nat) (vs : List VRes) : State :=
  let own := vs.filter fun v => v.reg ≤ 191
  let s := if k then s else eachDo own s fun s v => bankWrite s g v.reg v.lane v.val
  let s := teamWrites s g due (teamPart vs)
  if dest then s.modGrp g fun x => { x with window := (⟨x.seq, k, own⟩ :: x.window).take 8 } else s

/-- Is a kind of outstanding work a variable-latency result (02 R36, 03 R75)? -/
def isResult : PKind → Bool
  | .load => true | .atomic => true | .sync => true | .cpf => true | .matrix => true | .pop => true
  | .store => false | .copySub => false | .mldb => false | .peerStore => false | .fence => false | .entry => false

/-- Hold the group at its instruction (01 R19, R20). -/
def hold (s : State) (g : Nat) : State := s.modGrp g fun x => { x with st := .held }

/-- End the matrix chain of a group: its write-back is due (07 R173). -/
def endChain (s : State) (g : Nat) : State :=
  match (s.core (g / 32)).latch with
  | some l =>
    if l.slot = g ∧ !l.closed then
      (s.modCore (g / 32) fun k => { k with latch := some { l with closed := true } }).post
        (.matrixWriteBack (g / 32))
    else s
  | none => s

/-- Empty the forwarding window in the middle of a clause: K results go to the bank (04 R103). -/
def midEmpty (s : State) (g : Nat) : State :=
  let ks := ((s.grp g).window.filter (·.k)).reverse
  let s := eachDo ks s fun s e => eachDo e.vals s fun s v => bankWrite s g v.reg v.lane v.val
  s.modGrp g fun x => { x with window := [], reuse := none, pend := x.pend.map fun p => { p with k := false } }

/-- The rows of a group that stops running while its last instruction still passes through them (03 R69). -/
def tailOf (x : Group) : Option (BitVec 4 × Nat) := if x.rows = 0 then x.tail else some (x.rows, x.issueAt)

/-- Stop running in the middle of a clause (03 R74, 04 R103, 07 R173). -/
def stopMid (s : State) (g : Nat) : State :=
  (endChain (midEmpty s g) g).modGrp g fun x => { x with running := false, rows := 0, tail := tailOf x }

/-- Outstanding work whose K results end with their clause: its registers stay held until it completes, and its results
in v0 to v191 never reach the bank (04 R103, R104). -/
def dropK (p : Pend) : Pend :=
  if p.k then
    { p with k := false, regs := p.regs ++ (p.vregs.filter (·.reg ≤ 191)).map (·.reg),
             vregs := p.vregs.filter fun v => !(v.reg ≤ 191) }
  else p

/-- End the clause: K results are discarded and the group stops running (03 R74, 04 R103, 07 R173). -/
def endClause (s : State) (g pc : Nat) : State :=
  (endChain s g).modGrp g fun x =>
    { x with running := false, rows := 0, tail := tailOf x, window := [], reuse := none, pend := x.pend.map dropK,
             hdr := 0, clause := [], pc := pc % 2 ^ 57, came := none }

/-- Park (02 R59): the K results are in the bank, the record is linked by the caller. -/
def park (s : State) (g : Nat) (r : ParkRec) : State :=
  (stopMid s g).modGrp g fun x => { x with st := .parked, park := some r, redo := none, replay := false }

/-- Hold at an empty or full queue register; a group whose context is being pre-empted parks there, and has
reached a pre-emption point (04 R107). -/
def holdQueueAt (s : State) (g : Nat) : State :=
  if (s.ctx (s.ctxOf g)).state = 1 then
    park s g { cause := .queue, mask := (s.grp g).em, pc := (s.grp g).pc, woken := true }
  else hold s g

/-- Address after the last instruction of the clause in progress (03 R84). -/
def fallOf (x : Group) : Nat := x.hdr + 8 * x.clause.length

/-- The number of the instruction at the pc in its clause. -/
def slotNo (x : Group) : Nat := (x.pc - x.hdr) / 8 - 1

/-- Is the switch marker of instruction j set (02 R36)? -/
def marked (x : Group) (j : Nat) : Bool :=
  match x.clause with
  | [] => false
  | h :: _ => (headerOf h).swm.getLsbD j

/-- The switch marker of the instruction that the group x has issued: with results outstanding, the group parks at the
pc it has reached, before its next clause when the instruction was the last one (02 R36). -/
def atMarker (s : State) (g : Nat) (x : Group) : State :=
  if marked x (slotNo x) && x.pend.any (fun p => isResult p.kind) then
    park s g { cause := .marker, mask := (s.grp g).em, pc := (s.grp g).pc }
  else s

/-- Go past the present instruction: the next slot, the clause end, the switch marker (02 R32, R36). -/
def advance (s : State) (g : Nat) : State :=
  let x := s.grp g
  let last := x.clause.length ≤ slotNo x + 2
  let s := if last then endClause s g (fallOf x) else s.modGrp g fun x => { x with pc := x.pc + 8 }
  atMarker (s.modGrp g fun x => { x with redo := none, replay := false, st := .eligible }) g x

/-- Move to another clause (03 R86 to R91, 02 R36). -/
def jump (s : State) (g pc : Nat) : State :=
  let x := s.grp g
  let s := endClause s g pc
  atMarker (s.modGrp g fun x => { x with redo := none, replay := false, st := .eligible }) g x

/-- Retire a fixed-latency instruction at the end of cycle c + L − 1 with its flags (05 R139). -/
def retireFixed (s : State) (g l : Nat) (fl : BitVec 4) : State :=
  let due := (s.core (g / 32)).cyc.toNat + l - 1
  s.modGrp g fun x => { x with inflight := x.inflight ++ [(due, fl)] }

/-- Retire at once: an instruction of variable latency that writes no register (05 R139). -/
def retireNow (s : State) (g : Nat) : State := s.modGrp g fun x => { x with retc := x.retc + 1 }

/-- Add outstanding work to a group. -/
def addPend (s : State) (g : Nat) (p : Pend) : State :=
  s.modGrp g fun x => { x with pend := x.pend ++ [{ p with seq := x.seq }] }

/-- Scoreboard entries in use (03 R75). -/
def scoreUsed (x : Group) : Nat := (x.pend.filter fun p => isResult p.kind).length

/-- Team-register results of a reply take effect at the end of the cycle in which it arrives; the group reads them from
the next cycle on (04 R106). -/
def deliverTeam (s : State) (g : Nat) (vs : List VRes) : State :=
  if vs.isEmpty then s
  else
    let rs := (vs.map (·.reg)).eraseDups
    (teamWrites s g (teamCyc s g) vs).modGrp g fun x =>
      { x with lat := x.lat ++ rs.map fun r => (Res.v r, (s.core (g / 32)).cyc.toNat + 1) }

/-- The q4 entry of a group whose turn has come: no earlier one is outstanding (07 R188). -/
def entryDue (x : Group) : Option Pend :=
  x.pend.find? fun p => p.kind == .entry && !(x.pend.any fun q => q.cq.isSome && q.seq < p.seq)

/-- Push a group's q4 entry whose turn has come. -/
def entryPush (x : Group) : Group :=
  match entryDue x with
  | none => x
  | some p =>
    { x with pend := x.pend.erase p, q := { x.q with q4 := x.q.q4 ++ p.cq.toList, q4res := x.q.q4res - 1 } }

/-- Push the q4 entries whose turn has come, in issue order; q4 has eight places (04 R107, 07 R188). -/
def entriesPush (x : Group) : Group := (List.range 8).foldl (fun y _ => entryPush y) x

/-- Write the results of outstanding work and retire it (03 R75, R81, 05 R139, 07 R183). -/
def deliver (s : State) (g : Nat) (p : Pend) : State :=
  let s := s.modGrp g fun x => { x with pend := x.pend.erase p }
  let own := p.vregs.filter fun v => v.reg ≤ 191
  let s := if p.k then s else eachDo own s fun s v => bankWrite s g v.reg v.lane v.val
  let add (e : WinEntry) : WinEntry := if e.seq = p.seq then { e with vals := e.vals ++ own } else e
  let s := s.modGrp g fun x => { x with window := x.window.map add }
  let s := deliverTeam s g (teamPart p.vregs)
  let s := eachDo p.sregs s fun s r => writeS s g r.1 r.2
  let s := eachDo p.preds s fun s r => writeP s g r.1 r.2.1 r.2.2
  let s := s.modGrp g fun x =>
    { x with lstat := if p.kind = .matrix then x.lstat else x.lstat ||| p.flags,
             mxst := if p.kind = .matrix then x.mxst ||| p.flags else x.mxst,
             retc := if p.retires then x.retc + 1 else x.retc }
  let s := match p.cq with
    | none => s
    | some e => s.modGrp g fun x =>
        let late : Pend := { kind := .entry, seq := p.seq, retires := false, cq := some e }
        entriesPush { x with pend := x.pend ++ [late] }
  let x := s.grp g
  let s := match x.park with
    | some r => if r.cause = .marker ∧ !(x.pend.any (fun q => isResult q.kind)) then wakeGroup s g else s
    | none => s
  if x.exiting && !(x.pend.any (fun q => isResult q.kind || q.kind == .store)) then
    s.post (.groupExit (g / 32) (g % 32))
  else s

/-- A message about the proxy of a group that waits at a peer's word (08 R203, R210; log entry 44). -/
def tellProxy (s : State) (g : Nat) (m : PeerAccess) : State :=
  match (s.grp g).park with
  | none => s
  | some r => match r.cause, r.proxy with
    | .fePeer peer pa _, some (c, k) => if r.woken then s else s.send (.feMsg peer c k pa m)
    | _, _ => s

/-- Remove a group from every list it waits on (01 R28, 13 R358). -/
def unlinkGroup (s : State) (g : Nat) : State :=
  let s := tellProxy s g .unlink
  let c := g / 32
  let k := g % 32
  let gctr (q : GCtr) : GCtr :=
    { q with waiters := q.waiters.filter (· != g), refused := q.refused.filter (· != g),
             owed := q.owed.filter (· != g) }
  let ctx (x : Ctx) : Ctx := { x with gctrs := x.gctrs.map fun q => (q.1, gctr q.2) }
  let clu (x : Cluster) : Cluster :=
    { x with furrow := x.furrow.filter fun f => f.task != .cont c k && f.task != .phase c k }
  { s with
    headland := s.headland.filter fun w => w.who != .group c k
    monitors := s.monitors.filter fun m => m.core * 32 + m.slot != g
    faults := s.faults.map fun f => { f with waiters := f.waiters.filter (· != .group c k) }
    faultWait := s.faultWait.map fun f => { f with waiters := f.waiters.filter (· != .group c k) }
    greqs := s.greqs.filter fun r => r.core * 32 + r.slot != g
    ctxs := s.ctxs.map fun e => (e.1, ctx e.2)
    clusters := s.clusters.map fun e => (e.1, clu e.2) }

/-- Empty a slot. -/
def freeSlot (s : State) (g : Nat) : State :=
  let s := unlinkGroup s g
  let s := s.modCore (g / 32) fun k =>
    { k with latch := k.latch.filter fun l => l.slot != g,
             creditFirst := sdel k.creditFirst (g % 32),
             subs := k.subs.filter (· != g), turn := k.turn.filter (· != g) }
  s.setGrp g {}

/-- Cancel the copy commands that a predicate selects; a chain whose present block is ending runs no further one
(11 R290). -/
def cancelCmds (s : State) (p : Cmd → Bool) : State :=
  eachDo ((s.cores.map Prod.fst)) s fun s c =>
    let hit := (s.core c).cmds.filter p
    let mark (d : Cmd) : Cmd := if p d then { d with cancel := true } else d
    let s := s.modCore c fun k => { k with cmds := k.cmds.map mark }
    eachDo hit s fun s d => s.post (.commandEnd c d.q)

/-- Ask again whether a context that is being saved is at rest (01 R29, 13 R365). -/
def savePoke (s : State) (core slot : Nat) : State :=
  if s.ctxs.any fun e => e.2.state == 1 then s.post (.groupSave core slot) else s

/-- Abort a launch (13 R358): its groups stop, its commands are cancelled, its peer stores are drained, and it ends.
`eng`: the command processor found the fault (13 R349). -/
def abortLaunch (s : State) (l code core slot : Nat) (eng : Bool := false) : State :=
  let x := s.launch l
  if x.aborted || x.ended then s
  else
    let s := s.modLaunch l fun y => { y with aborted := true }
    let mine := (s.teams.filter fun e => e.2.launch == l && e.2.st != .none).map Prod.fst
    let s := eachDo mine s fun s t =>
      let tm := s.team t
      match tm.st with
      | .resident => (eachDo (membersOf s t) s freeSlot).post (.teamRetire t)
      | .retired => s
      | _ =>
        let s := s.setTeam t { tm with st := .none }
        let drop (k : Cluster) : Cluster := { k with furrow := k.furrow.filter fun f => f.task != .team t }
        { s with clusters := s.clusters.map fun e => (e.1, drop e.2) }
    let s := cancelCmds s fun d => d.launch == l
    let s := faultRecord s x.ctx {
      kind := 5, code := code, addr := x.rec_, core := core, slot := slot, eng := eng, launch := some l }
    savePoke ((s.post (.drainSend l)).post (.launchEnd l)) core slot

/-- TRAP ENTRY (02 R59, 13 R355): the window goes to the banks; TCAUSE, TPC, TADDR, TLMASK, THDR and TEM
are saved; H is set, em becomes LIVE and the group continues at TVEC. Without a handler, or in handler
mode, the launch is aborted (13 R355, R356, R358). -/
def trapAt (s : State) (g code addr : Nat) (lanes : Mask) (tpc hdr : Nat) : State :=
  let x := s.grp g
  let c := s.ctxOf g
  let vec := (s.ctx c).tvec
  let s := stopMid s g
  let s := if code = 0x0E then
      faultRecord (deviceError s) c {
        kind := 3, code := code, addr := addr, core := g / 32, slot := slotNum s g, notice := some g,
        launch := some (s.teamOf g).launch }
    else s
  if x.trap.hmode || vec = 0 then abortLaunch s (s.teamOf g).launch code (g / 32) (slotNum s g)
  else
    s.modGrp g fun x =>
      { x with
        trap := { x.trap with tcause := BitVec.ofNat 64 code, tpc := BitVec.ofNat 64 tpc,
                              thdr := BitVec.ofNat 64 hdr, taddr := BitVec.ofNat 64 addr,
                              tlmask := lanes &&& lowMask x.gw, tem := x.em &&& lowMask x.gw, hmode := true }
        em := x.live, pc := vec, hdr := 0, clause := [], st := .eligible, redo := none, replay := false,
        park := none, came := none }

/-- A trap of the instruction at the pc (02 R59). -/
def trap (s : State) (g code addr : Nat) (lanes : Mask) : State :=
  trapAt s g code addr lanes (s.grp g).pc (s.grp g).hdr

/-- The clause of a context at an address in the core's clause cache (10 R267). -/
def cachedClause (s : State) (g a : Nat) : Option (List DWord) :=
  ((s.core (g / 32)).ccache.find? fun e => e.1 == s.ctxOf g && e.2.1 == a).map fun e => e.2.2

/-- The word at a virtual address as a fetch sees it: from the clause cache, or from its home; none when it cannot be
fetched, or lies outside the device. -/
def fetchWord (s : State) (g a : Nat) : Option DWord :=
  match cachedClause s g a with
  | some (h :: _) => some h
  | _ =>
    match xlateVia s (s.ctxOf g) a with
    | .ok p => if p.x && !p.pr && !p.hb && a % 8 == 0 then some (BitVec.ofNat 64 (peek s p.pa 8)) else none
    | .absent => none
    | .malformed => none

/-- What can be said of a word that control is to pass to, before it is fetched. -/
inductive CodeX where
  /-- A header, with its word. -/
  | header (h : DWord)
  | other
  /-- Its page is not present. -/
  | absent
  /-- It lies outside the device: only a fetch tells. -/
  | outside
  /-- Its page cannot be fetched from, or its entry is malformed: the fetch traps. -/
  | barred
  deriving DecidableEq, Repr

/-- The word at an address as a transfer of control finds it (02 R46, R58). -/
def codeAt (s : State) (g a : Nat) : CodeX :=
  if a % 8 ≠ 0 ∨ 2 ^ 57 ≤ a then .other
  else match fetchWord s g a with
    | some w => if isHeader w then .header w else .other
    | none => match xlateVia s (s.ctxOf g) a with
      | .ok p => if p.x then .outside else .barred
      | .absent => .absent
      | .malformed => .barred

/-- Does control pass to an address (02 R56, R58)? A word that is not to be had without a fetch is judged by the
fetch (log entry 46). -/
def headerAt (s : State) (g a : Nat) : Bool :=
  match codeAt s g a with
  | .other => false
  | .header _ => true
  | .absent => true
  | .outside => true
  | .barred => true

/-- Is an address one of a clause's slots (13 R357)? -/
def inClause (thdr tpc n : Nat) : Bool := thdr < tpc && tpc ≤ thdr + 8 * n && (tpc - thdr) % 8 == 0

/-- A group that returns from a trap goes where only a fetch tells what stands there (13 R357; log entry 46). -/
def tretUnread (s : State) (g thdr tpc : Nat) (redo : Option ParkRec) : State :=
  s.modGrp g fun y => { y with came := some {
    pc := tpc, hdr := thdr, em := y.em, stack := y.stack, lanes := 0, tret := true, again := redo.map (·.mask) } }

/-- The second case of 13 R357: a slot of the clause at THDR; else ILLEGAL_TARGET as a double trap. A THDR that only a
fetch can judge is judged by it (log entry 46). -/
def tretSlot (s : State) (g thdr tpc : Nat) (slot : State → State) : State :=
  let bad := abortLaunch (stopMid s g) (s.teamOf g).launch 0x02 (g / 32) (slotNum s g)
  let late (s : State) : State :=
    (slot s).modGrp g fun y => { y with came := some {
      pc := tpc, hdr := thdr, em := y.em, stack := y.stack, lanes := 0, tret := true } }
  match codeAt s g thdr with
  | .header h => if inClause thdr tpc (headerOf h).n then slot s else bad
  | .other => bad
  | _ => if inClause thdr tpc 16 then late s else bad

/-- RETURN FROM A TRAP (13 R357): H is cleared, em becomes TEM and LIVE, and the group continues at TPC:
at that clause's header, or at a slot of the clause at THDR without its WAIT check; that clause is fetched and checked
whole again (02 R32, R57). After FE_BUDGET the instruction replays for the lanes of TLMASK (08 R206). -/
def tretAt (s : State) (g : Nat) : State :=
  let x := s.grp g
  let tpc := x.trap.tpc.toNat
  let thdr := x.trap.thdr.toNat
  let s := endClause s g tpc
  let back (s : State) : State := s.modGrp g fun y =>
    { y with trap := { y.trap with hmode := false }, em := x.trap.tem &&& y.live, st := .eligible,
             redo := none, replay := false }
  let again : ParkRec := { cause := .marker, mask := x.trap.tlmask, pc := tpc }
  let redo := if x.trap.tcause = 0x07 then some again else none
  let slot (s : State) : State := atMarker ((back s).modGrp g fun y => { y with hdr := thdr, pc := tpc, redo := redo }) g x
  match codeAt s g tpc with
  | .header _ => atMarker (back s) g x
  | .other => tretSlot s g thdr tpc slot
  | _ => match codeAt s g thdr with
    | .header h =>
      if inClause thdr tpc (headerOf h).n then slot s else tretUnread (atMarker (back s) g x) g thdr tpc redo
    | _ => tretUnread (atMarker (back s) g x) g thdr tpc redo

/-- The limits of R51: the first register of a run at or beyond the launch's counts, if any. -/
def regLimit (x : Group) (r n : Nat) : Option Nat :=
  if r ≤ 191 then (if x.nregs < r + n then some (max r x.nregs) else none)
  else if r ≤ 223 then (if 192 + x.nhregs < r + n then some (max r (192 + x.nhregs)) else none)
  else none

/-- The first breach among runs of registers, in the order given (02 R51, R57). -/
def firstLimit (x : Group) : List (Nat × Nat) → Option Nat
  | [] => none
  | (r, n) :: rest => match regLimit x r n with | some k => some k | none => firstLimit x rest

/-- Occupy the execute stages for n cycles of a class and keep the group from issuing before the group's
rows are free (03 R68, R69). -/
def occupy (s : State) (g cls n rows : Nat) : State :=
  let c := g / 32
  let s := s.modCore c fun k => { k with pipe := k.pipe ++ [(cls, n)] }
  if rows ≤ 1 then s
  else s.modGrp g fun x => { x with issueAt := (s.core c).cyc.toNat + rows }

/-- Results of fixed latency: readable from cycle c + L on (03 R69). -/
def setLat (s : State) (g l : Nat) (rs : List Res) : State :=
  let due := (s.core (g / 32)).cyc.toNat + l
  s.modGrp g fun x => { x with lat := x.lat ++ rs.map fun r => (r, due) }

/-- Is a deterministic launch running (14 R371)? -/
def isDet (s : State) (g : Nat) : Bool := (s.launchOf g).det

/-- The energy declaration of a launch's teams, in EU (12 R307). -/
def energyOf (s : State) (l : Nat) : Nat := fld ((s.launch l).dw.getD 0 0) 6 16

/-- The resident teams of a cluster that hold their reservation (15 R389). -/
def clusterTeams (s : State) (k : Nat) : List Team :=
  (s.teams.map Prod.snd).filter fun t => t.st == .resident && t.cluster == k && t.reserved

/-- The sum of the reservations of a cluster, in EU (15 R389). -/
def reservedSum (s : State) (k : Nat) : Nat :=
  (clusterTeams s k).foldl (fun a t => a + energyOf s t.launch) 0

/-- L_t of a team for the present interval, in EU (15 R390). -/
def teamLimit (s : State) (t : Nat) : Nat :=
  let x := s.team t
  let a := (s.cluster x.cluster).allot
  let sum := reservedSum s x.cluster
  let e := energyOf s x.launch
  if e = 0 then
    (a - sum) / max 1 ((clusterTeams s x.cluster).filter fun y => energyOf s y.launch == 0).length
  else if a < sum then e * a / sum else e

/-- Is a cluster throttled: do its reservations exceed its allotment (15 R391)? -/
def overReserved (s : State) (k : Nat) : Bool := decide ((s.cluster k).allot < reservedSum s k)

/-- The reservations of a cluster have changed: it may be throttled from now on, or no longer (15 R391). -/
def throttlePoke (s : State) (k : Nat) : State :=
  if overReserved s k = (s.cluster k).throttled then s
  else match s.teams.find? fun e => e.2.st == .resident && e.2.cluster == k with
    | some e => s.post (.teamThrottle e.1)
    | none => s

/-- A team of a cluster takes its reservation, or gives it back (15 R389). -/
def setReserved (s : State) (tm k : Nat) (b : Bool) : State :=
  throttlePoke (s.modTeam tm fun t => { t with reserved := b }) k

/-- Has a team that is not throttled reached its limit (15 R390)? -/
def limitReached (s : State) (t : Nat) : Bool :=
  !(s.team t).throttled && decide (teamLimit s t * 4096 ≤ (s.team t).meter)

/-- Work of a core that has no team is charged to its cluster alone: 2 for each 16 bytes at the banks (15 R386). -/
def clusterWork (s : State) (core bytes : Nat) : State :=
  s.modCluster (core / 16) fun x => { x with meter := x.meter + 2 * ((bytes + 15) / 16) }

/-- A team that has reached its limit is throttled (15 R390). -/
def limitPoke (s : State) (t : Nat) : State := if limitReached s t then s.post (.teamThrottle t) else s

/-- A team has come to a cluster: its reservation, and its own limit (15 R389 to R391). -/
def settleIn (s : State) (t k : Nat) : State := limitPoke (throttlePoke s k) t

/-- Charge a group's team in units of 2^−12 EU; reaching L_t throttles it (15 R386, R390). -/
def charge (s : State) (g n : Nat) : State :=
  let t := (s.grp g).team
  limitPoke (s.modTeam t fun x => { x with meter := x.meter + n }) t

/-- Finish an instruction of fixed latency L: execute stages, interlock, retirement, charge, next slot. -/
def finish (s : State) (g l cls occ rows eu : Nat) (fl : BitVec 4) (rs : List Res) : State :=
  let s := setLat (occupy (retireFixed s g l fl) g cls occ rows) g l rs
  let s := charge s g eu
  let s := s.modGrp g fun x => { x with seq := x.seq + 1 }
  advance s g

/-- Finish an instruction whose result is variable-latency or that writes no register: it retires when its
outstanding work completes. It passes through its rows in `rows` cycles (03 R69). -/
def finishRows (s : State) (g cls occ rows eu : Nat) : State :=
  let s := charge (occupy s g cls occ rows) g eu
  let s := s.modGrp g fun x => { x with seq := x.seq + 1 }
  advance s g

/-- The same for an instruction of one pass. -/
def finishVar (s : State) (g cls occ eu : Nat) : State := finishRows s g cls occ 1 eu

/-- Finish an instruction whose control transfer goes to another clause. -/
def finishJump (s : State) (g pc : Nat) : State :=
  let s := charge (occupy (retireFixed s g 1 0) g 0 1 1) g 1
  let s := s.modGrp g fun x => { x with seq := x.seq + 1 }
  jump s g pc

end Sys2Proof.Machine
end

