-- ==== Sys2Proof/Machine/Operands.lean ====
section
/-! DEFINITION. The operand forms of the vector instructions: registers, pairs, scalars, predicates and
queue registers, and the frame that every V-format instruction runs in (02 R41, R51 to R53, R60,
04 R107, R113). -/

namespace Sys2Proof.Machine

open State

/-- Registers of an operand kind. -/
def opWidth : OpK → Nat
  | .r64 => 2 | .r32 => 1 | .unused => 0 | .predSrc => 0 | .predDst => 0

/-- The value of an operand field in lane i. -/
def operand (s : State) (g : Nat) (qe : QEntry) (k : OpK) (r i : Nat) : Nat :=
  match k with
  | .r32 => (readV s g qe r i).toNat
  | .r64 => (readV s g qe r i).toNat + 2 ^ 32 * (if r = 240 then 0 else (readV s g qe (r + 1) i).toNat)
  | .predSrc => if (predOf (s.grp g) r).getLsbD i then 1 else 0
  | .unused => 0
  | .predDst => 0

/-- Is the queue of a register empty for a read (04 R107)? -/
def queueEmpty (x : Group) (r : Nat) : Bool :=
  match r with
  | 228 => x.q.q4.isEmpty | 229 => x.q.q5.isEmpty | 230 => x.q.q6.isEmpty | 239 => x.q.q15in.isEmpty
  | _ => false

/-- Take the head entry of a queue. -/
def popQueue (x : Group) (r : Nat) : Group × QEntry :=
  let q := x.q
  match r with
  | 228 => ({ x with q := { q with q4 := q.q4.tail } }, q.q4.headD [])
  | 229 => ({ x with q := { q with q5 := q.q5.tail } }, q.q5.headD [])
  | 230 => ({ x with q := { q with q6 := q.q6.tail } }, q.q6.headD [])
  | 239 =>
    -- a message owed while the queue was full enters it now (12 R333)
    ({ x with q := { q with q15in := q.q15in.tail ++ q.owed.take 1, owed := q.owed.drop 1 } }, q.q15in.headD [])
  | _ => (x, [])

/-- May a group take n copy entries now? Submissions take entries in issue order (11 R272, R273). -/
def entriesFree (s : State) (g n : Nat) : Bool :=
  let k := s.core (g / 32)
  (k.subs.head?.all (· == g)) && k.cmds.length + n ≤ Config.numEntries

/-- A submission that finds too few entries waits in its place (11 R273). -/
def waitEntries (s : State) (g : Nat) : State :=
  hold (s.modCore (g / 32) fun k => { k with subs := if k.subs.contains g then k.subs else k.subs ++ [g] }) g

/-- The lowest free entry of a core's pool. -/
def freeEntryNo (k : Core) : Nat :=
  ((List.range (k.cmds.length + 1)).find? fun n => !(k.cmds.any fun d => d.entry == n)).getD 0

/-- Take one entry for a command of the group: the launch and the team count it (01 R15, 11 R272). What the
group wrote before is there for the engine to read (10 R254). -/
def takeEntry (s : State) (g : Nat) (c : Cmd) : State :=
  let t := (s.grp g).team
  let tm := s.team t
  let s := l1WriteAll s (g / 32)
  let c := { c with ctx := tm.ctx, launch := tm.launch, team := t, slot := g, seq := (s.grp g).seq,
                    upper := tm.pair && g / 32 != tm.core, entry := freeEntryNo (s.core (g / 32)) }
  let s := s.modCore (g / 32) fun k => { k with cmds := k.cmds ++ [c], subs := k.subs.filter (· != g) }
  let s := s.modTeam t fun x => { x with cmdsOut := x.cmdsOut + 1 }
  s.modLaunch tm.launch fun x => { x with cmdsOut := x.cmdsOut + 1 }

/-- Is the queue of a destination full (04 R107, 11 R278, 16 R415)? -/
def queueFull (s : State) (g r : Nat) : Bool :=
  if r = 239 then 4 ≤ (s.grp g).q.q15out.length else !entriesFree s g 1

/-- Hold at a full queue: a push to a copy queue keeps its place among the submissions. -/
def holdQueue (s : State) (g r : Nat) : State :=
  if r = 239 ∨ (s.ctx (s.ctxOf g)).state = 1 then
    holdQueueAt (s.modCore (g / 32) fun k => { k with subs := k.subs.filter (· != g) }) g
  else waitEntries s g

/-- Push an entry: a copy command for q0 to q3, a message for q15 (11 R278, 16 R415). -/
def pushQueue (s : State) (g r : Nat) (e : QEntry) : State :=
  if r = 239 then
    (s.modGrp g fun x => { x with q := { x.q with q15out := x.q.q15out ++ [e] } }).post
      (.q15Outgoing (g / 32) (g % 32))
  else
    let dw (j : Nat) : DWord := (e.getD (2 * j + 1) 0).setWidth 32 ++ (e.getD (2 * j) 0).setWidth 32
    let c : Cmd := { q := r - 224, ctx := 0, launch := 0, team := 0, slot := g, seq := 0, addr := none,
                     block := (List.range 16).map dw }
    let s := takeEntry s g c
    (addPend s g { kind := .copySub, ready := false, retires := false }).post (.pushedCommand (g / 32))

/-- An uncorrectable word among operand registers in the store, each with the lanes read of it, as a store-local address
(13 R361). -/
def operandBadAt (s : State) (g : Nat) (rs : List (Nat × List Nat)) : Option Nat :=
  if (s.core (g / 32)).badStore.isEmpty then none
  else
    let x := s.grp g
    let t := s.team x.team
    let own := (rs.filter fun r => r.1 ≤ 191).flatMap fun r =>
      (r.2.filter fun i => (winFind r.1 i x.window).isNone).map fun i => regOff t x r.1 i
    let shared := (rs.filter fun r => 192 ≤ r.1 && r.1 ≤ 223).flatMap fun r =>
      r.2.map fun i => hregOff t x.gw (r.1 - 192) i
    ((own ++ shared).find? fun o => storeBad s (g / 32) o 4).map fun o => o - t.frame

/-- The same for registers that are all read in the same lanes. -/
def operandBad (s : State) (g : Nat) (lanes : List Nat) (rs : List Nat) : Option Nat :=
  operandBadAt s g (rs.map fun r => (r, lanes))

/-- What an instruction computes: values of the active lanes, flags, and a scalar result. -/
structure VOut where
  vals : List (Nat × Nat)
  fl : BitVec 4 := 0
  scalar : Option Nat := none

/-- Latency, class, cycles in the execute stages, passes (03 R69), energy charge (15 R386). -/
structure VTime where
  l : Nat
  cls : Nat
  occ : Nat
  passes : Nat

def tc0 : VTime := ⟨1, 0, 1, 1⟩
def tc1 : VTime := ⟨2, 1, 2, 1⟩
def tc2 : VTime := ⟨4, 2, 4, 1⟩
def tc3 : VTime := ⟨4, 3, 4, 2⟩
def tcDiv (wide : Bool) : VTime := if wide then ⟨17, 2, 17, 17⟩ else ⟨9, 2, 9, 9⟩

/-- Rows a group holds (03 R72). -/
def rowsOf (gw : Nat) : Nat := gw / 16

/-- The registers an operand field names. -/
def fieldRegs (k : OpK) (r : Nat) : List (Nat × Nat) :=
  match k with
  | .r32 => [(r, 1)] | .r64 => [(r, 2)] | .unused => [] | .predSrc => [] | .predDst => []

/-- The registers of some runs. -/
def spreadRuns (rs : List (Nat × Nat)) : List Nat := rs.flatMap fun r => (List.range r.2).map (r.1 + ·)

/-- The results written, as 32-bit register words. -/
def resultWords (k : OpK) (d : Nat) (vals : List (Nat × Nat)) : List VRes :=
  match k with
  | .r32 => vals.map fun v => ⟨d, v.1, BitVec.ofNat 32 v.2⟩
  | .r64 => if d = 240 then [] else vals.flatMap fun v =>
      [⟨d, v.1, BitVec.ofNat 32 v.2⟩, ⟨d + 1, v.1, BitVec.ofNat 32 (v.2 / 2 ^ 32)⟩]
  | .unused => [] | .predSrc => [] | .predDst => []

/-- An entry whose active lanes hold their words and every other position zero (04 R107). -/
def entryOf (vals : List (Nat × Nat)) : QEntry :=
  (List.range 64).map fun i => match vals.find? fun v => v.1 == i with
    | some v => BitVec.ofNat 32 v.2
    | none => 0

/-- Write an instruction's results to its destination and scalar. -/
def writeResult (s : State) (g : Nat) (kd : OpK) (d : Nat) (k : Bool) (tm : VTime) (active : Mask)
    (sd : Option Nat) (o : VOut) : State :=
  let due := teamCyc s g + tm.l - 1
  let s := match kd with
    | .predDst => writeP s g d active (maskOf ((o.vals.filter fun v => v.2 != 0).map Prod.fst))
    | _ =>
      if 224 ≤ d ∧ d ≤ 239 then pushQueue s g d (entryOf o.vals)
      else writeVs s g k (d ≤ 191 && kd != .unused) due ((resultWords kd d o.vals).filter fun v => v.reg ≤ 223)
  match sd, o.scalar with
  | some n, some v => writeS s g n (BitVec.ofNat 64 v)
  | _, _ => s

/-- Resources a destination locks until its latency has passed. -/
def destRes (kd : OpK) (d : Nat) (sd : Option Nat) : List Res :=
  (match kd with
    | .r32 => [Res.v d] | .r64 => [Res.v d, Res.v (d + 1)] | .predDst => [Res.p d]
    | .unused => [] | .predSrc => []) ++
  (match sd with | some n => [Res.s n] | none => [])

/-- The result of an instruction that popped a queue is variable-latency (03 R75): it takes its place in
the window now and is delivered with the popped data. DESIGN CHOICE (log entry 60): the latency of 03 R69 is not added to
that delivery, also for a log instruction of a higher class. -/
def popResult (s : State) (g : Nat) (kd : OpK) (d : Nat) (k : Bool) (active : Mask) (sd : Option Nat)
    (o : VOut) : State :=
  let toQueue := 224 ≤ d && d ≤ 239
  let s := if toQueue then pushQueue s g d (entryOf o.vals) else s
  let s := if d ≤ 191 && (kd == .r32 || kd == .r64) then writeVs s g k true 0 [] else s
  let bits := maskOf ((o.vals.filter fun v => v.2 != 0).map Prod.fst)
  let s := addPend s g {
    kind := .pop, k := k, flags := o.fl,
    regs := spreadRuns (fieldRegs kd d),
    vregs := (resultWords kd d o.vals).filter fun v => v.reg ≤ 223,
    preds := if kd == .predDst then [(d, active, bits)] else [],
    sregs := match sd, o.scalar with | some n, some v => [(n, BitVec.ofNat 64 v)] | _, _ => [] }
  s.post (.queuePopDelivery (g / 32) (g % 32) (s.grp g).seq)

/-- The operand fields of a V-format word that name registers: D, A, B, C. -/
def vFields (f : FmtV) (u : VUse) : List (Nat × Nat) × List (Nat × Nat) × List (Nat × Nat) × List (Nat × Nat) :=
  let hasS := f.s != 127
  (fieldRegs u.d f.d.toNat,
   if u.s == .inA && hasS then [] else fieldRegs u.a f.a.toNat,
   if u.s == .inB && hasS then [] else fieldRegs u.b f.b.toNat,
   fieldRegs u.c f.c.toNat)

/-- The registers a V-format word reads. -/
def vSources (f : FmtV) (u : VUse) : List Nat :=
  let r := vFields f u
  (r.2.1 ++ r.2.2.1 ++ r.2.2.2).map Prod.fst

/-- The words of n registers from r on, position by position. -/
def regWords (s : State) (g r n : Nat) : List Word :=
  (List.range n).flatMap fun j => (List.range (s.grp g).gw).map fun i => readV s g [] (r + j) i

/-- Is operand A a register that the reuse latch can hold (04 R105)? -/
def reusable (f : FmtV) (u : VUse) : Bool := !(vFields f u).2.1.isEmpty && f.a.toNat ≤ 223

/-- Does a V-format instruction take operand A from the reuse latch: the register is the latched one, no result of it
stands in the window, and no agent has written it since (04 R105)? -/
def reuseHit (s : State) (g : Nat) (f : FmtV) (u : VUse) : Bool :=
  let x := s.grp g
  match x.reuse with
  | none => false
  | some (r, ws) =>
    reusable f u && r == f.a.toNat && ws == regWords s g r (opWidth u.a) &&
      !(x.window.any fun e => e.vals.any fun v => r ≤ v.reg && v.reg < r + opWidth u.a)

/-- The reuse latch after an instruction with operand A: U = 1 latches it, and the next reader of the latched register
has used it up (04 R105). -/
def reuseNext (s : State) (g : Nat) (f : FmtV) (u : VUse) : Option (Nat × List Word) :=
  if !reusable f u then (s.grp g).reuse
  else if f.u then some (f.a.toNat, regWords s g f.a.toNat (opWidth u.a))
  else (s.grp g).reuse.filter fun l => l.1 != f.a.toNat

/-- The queue register a V-format word reads, if any (04 R107). -/
def vQueue (f : FmtV) (u : VUse) : Option Nat := (vSources f u).find? fun r => 224 ≤ r && r ≤ 239

/-- The group and the entry of a V-format word's queue register, popped. -/
def vPop (x : Group) (f : FmtV) (u : VUse) : Group × QEntry :=
  match vQueue f u with | some r => popQueue x r | none => (x, [])

/-- The operands A, B and C of a V-format word in a lane. -/
def vOperands (s : State) (f : FmtV) (u : VUse) (i : Nat) : Nat × Nat × Nat :=
  let g := s.cur
  let hasS := f.s != 127
  let qe := (vPop (s.grp g) f u).2
  let sv := (readS s g f.s.toNat).toNat
  (if u.s == .inA && hasS then sv % 2 ^ (32 * opWidth u.a) else operand s g qe u.a f.a.toNat i,
   if u.s == .inB && hasS then sv % 2 ^ (32 * opWidth u.b) else operand s g qe u.b f.b.toNat i,
   operand s g qe u.c f.c.toNat i)

/-- The active lanes of a V-format word. -/
def vLanes (s : State) (f : FmtV) : List Nat := lanesOf (activeMask s.g f.ps f.pn) s.g.gw

/-- Source lane of `shfl` (04 R118). -/
def shflLane (mode gw i d : Nat) : Nat :=
  match mode with
  | 0 => d % gw
  | 1 => if i < d then i else i - d
  | 2 => if gw ≤ i + d then i else i + d
  | _ => Nat.xor i (d % gw)

/-- The source lane of `shfl` for a lane (04 R118). -/
def shflFrom (s : State) (f : FmtV) (u : VUse) (i : Nat) : Nat :=
  shflLane f.fn.toNat s.g.gw i ((vOperands s f u i).2.1 % 2 ^ 32)

/-- The lanes of operand A that a V-format word reads: `shfl` and `bcast` read theirs active or not (04 R118). -/
def aLanes (s : State) (f : FmtV) (u : VUse) : List Nat :=
  match u.al with
  | .own => vLanes s f
  | .one => [f.fn.toNat]
  | .shuffled => (vLanes s f).map (shflFrom s f u)

/-- The words a V-format instruction reads from the store or the window: registers with the lanes of each (13 R361). -/
def bankReads (s : State) (f : FmtV) (u : VUse) : List (Nat × List Nat) :=
  let r := vFields f u
  (if reuseHit s s.cur f u then [] else (spreadRuns r.2.1).map fun n => (n, aLanes s f u)) ++
    (spreadRuns (r.2.2.1 ++ r.2.2.2)).map fun n => (n, vLanes s f)

/-- What stops a V-format instruction before it reads its operands: a register limit, an empty or a full queue
register, an uncorrectable operand word (02 R60, 04 R107, 13 R361). -/
def vGate (s : State) (f : FmtV) (u : VUse) : Option State :=
  let g := s.cur
  let x := s.grp g
  let r := vFields f u
  let active := activeMask x f.ps f.pn
  match firstLimit x (r.1 ++ r.2.1 ++ r.2.2.1 ++ r.2.2.2) with
  | some n => some (trap s g 0x06 n active)
  | none =>
    if (vQueue f u).any fun n => queueEmpty x n then some (holdQueueAt s g)
    else if (r.1.any fun n => 224 ≤ n.1 && n.1 ≤ 239) && queueFull s g f.d.toNat then some (holdQueue s g f.d.toNat)
    else (operandBadAt s g (bankReads s f u)).map fun a => trap s g 0x0E a active

/-- The effect of a V-format instruction with the results `o`: the queue entry it read is gone, and its results are
written, or take their place as those of a popped queue. -/
def vEffect (s : State) (f : FmtV) (u : VUse) (tm : VTime) (o : VOut) : State :=
  let g := s.cur
  let x := s.grp g
  let active := activeMask x f.ps f.pn
  let sd := if u.s == .dest && f.s != 127 then some f.s.toNat else none
  let s := s.setGrp g { (vPop x f u).1 with reuse := reuseNext s g f u }
  if (vQueue f u).isNone then writeResult s g u.d f.d.toNat f.k tm active sd o
  else popResult s g u.d f.d.toNat f.k active sd o

/-- A V-format instruction performed with the results `o`: its effect, and the group goes on. -/
def vDo (s : State) (f : FmtV) (u : VUse) (tm : VTime) (o : VOut) : State :=
  let g := s.cur
  let eu := 3 * rowsOf (s.grp g).gw * tm.passes
  let sd := if u.s == .dest && f.s != 127 then some f.s.toNat else none
  if (vQueue f u).isNone then
    finish (vEffect s f u tm o) g tm.l tm.cls tm.occ tm.passes eu o.fl (destRes u.d f.d.toNat sd)
  else finishRows (vEffect s f u tm o) g tm.cls tm.occ tm.passes eu

/-- The frame of the V-format instructions (02 R60, 04 R113): register limits, queue holds, operands of
every lane, then results. `body` gets the operands of any lane and the active lanes. -/
def runV (s : State) (f : FmtV) (u : VUse) (tm : VTime)
    (body : (Nat → Nat × Nat × Nat) → List Nat → VOut) : Host.Outcome State Fault Refusal :=
  match vGate s f u with
  | some t => done t
  | none => .next (vDo s f u tm (body (vOperands s f u) (vLanes s f)))

/-- A lane-wise instruction: each active lane's result from its own operands. -/
def laneOp (op : Nat → Nat → Nat → Nat × BitVec 4) (rd : Nat → Nat × Nat × Nat) (lanes : List Nat) : VOut :=
  let rs := lanes.map fun i => let v := rd i; (i, op v.1 v.2.1 v.2.2)
  { vals := rs.map fun r => (r.1, r.2.1), fl := rs.foldl (fun a r => a ||| r.2.2) 0 }

/-- A lane-wise instruction without flags. -/
def laneFn (op : Nat → Nat → Nat → Nat) : (Nat → Nat × Nat × Nat) → List Nat → VOut :=
  laneOp fun a b c => (op a b c, 0)

/-- Format VI as the frame's format V: no B, C or scalar operand (02 R42). -/
def viAsV (f : FmtVI) : FmtV :=
  { pn := f.pn, ps := f.ps, d := f.d, a := f.a, b := 0, c := 0, s := 127, u := false, k := f.k, ty := f.ty,
    fn := f.fn }

end Sys2Proof.Machine
end

