-- ==== Sys2Proof/Machine/Flags.lean ====
section
/-! DEFINITION. The flag registers: LSTAT, MASTAT and their rules (05 R138, R139, 06 R149, 09 R243). The
flags themselves come from Pack and the adder (LogNum). -/

namespace Sys2Proof.Machine

open State

/-- `swr` to LSTAT: the value replaces every flag ORed before the end of its second execute cycle; flags of
that cycle or later are kept (05 R139, 13 R363). -/
def setLstat (s : State) (g : Nat) (v : BitVec 4) : State :=
  let now := (s.core (g / 32)).cyc.toNat
  s.modGrp g fun x =>
    { x with lstat := v, inflight := x.inflight.map fun f => if f.1 < now + 1 then (f.1, 0) else f }

/-- Flags raised at memory OR into the context's MASTAT (09 R243). -/
def orMastat (s : State) (c : Nat) (fl : BitVec 4) : State :=
  if fl = 0 then s else s.modCtx c fun x => { x with mastat := x.mastat ||| fl }

/-- Retire the fixed-latency instructions of a group whose cycle has ended: flags and RETC (03 R81, 05 R139). -/
def retireDue (now : Nat) (x : Group) : Group :=
  let due := x.inflight.filter fun f => f.1 ≤ now
  { x with inflight := x.inflight.filter fun f => !(f.1 ≤ now),
           lstat := due.foldl (fun a f => a ||| f.2) x.lstat,
           retc := x.retc + BitVec.ofNat 64 due.length,
           lat := x.lat.filter fun l => now + 1 < l.2 }

end Sys2Proof.Machine
end

