-- ==== Sys2Proof/Machine/Access.lean ====
section
/-! DEFINITION. Memory as an instruction reaches it: the team window, the L1, the home, peers and the
host, releases and acquires, and the checks and the order of lanes that every access instruction
shares (04 R99 to R101, 08 R196 to R206, 09 R223 to R227, 10 R259 to R261, 13 R360, R361). -/

namespace Sys2Proof.Machine

open State

/-! ### Outside the device -/

/-- n bytes that come from outside the device: a free value (log entry 7). -/
def freshBytes (s : State) (n : Nat) : State × Nat :=
  let k := (n + 7) / 8
  let v := (List.range k).foldl (fun a j => a + (Config.outsideWord (s.freeCtr + j)).toNat * 2 ^ (64 * j)) 0
  ({ s with freeCtr := s.freeCtr + k }, v % 2 ^ (8 * n))

/-- An item leaves for a peer, which is to acknowledge it (16 R411). -/
def queueItem (s : State) (peer : Nat) (i : PItem) (m : OutMsg) : State :=
  let s := s.send m
  { s with items := tset s.items peer (tget s.items [] peer ++ [i]) }

/-- An item leaves for a peer: the launch and the team count it as outstanding (11 R292, 16 R411). -/
def sendItem (s : State) (peer : Nat) (i : PItem) (m : OutMsg) : State :=
  let s := queueItem s peer i m
  let s := s.modLaunch i.launch fun l => { l with peerOut := l.peerOut + 1 }
  s.modTeam i.team fun t => { t with peerOut := t.peerOut + 1 }

/-- An item of a group's store. -/
def groupItem (s : State) (g : Nat) : PItem :=
  { launch := (s.teamOf g).launch, team := (s.grp g).team, grp := some (g, (s.grp g).seq) }

/-! ### The team window -/

/-- Does a store-local address lie in the team registers? -/
def inTeamRegs (t : Team) (off : Nat) : Bool := t.scr ≤ off && off < t.scr + t.hr

/-- Read n bytes of a team's window, as a requester on core `core` reaches it (04 R99). -/
def winRead (s : State) (t : Team) (core off n : Nat) : Nat :=
  storeRead s (storeCore t core off) (t.frame + off) n

/-- Write n bytes of a team's window; team registers of a pair are written in both copies (04 R99). -/
def winWrite (s : State) (t : Team) (core off n v : Nat) : State :=
  if t.pair && inTeamRegs t off then
    storeWrite (storeWrite s t.core (t.frame + off) n v) (t.core + 1) (t.frame + off) n v
  else storeWrite s (storeCore t core off) (t.frame + off) n v

/-- The word object of a store-local address. The full/empty bit and the waiters of a team-register word of a pair are
kept with the lower copy and stand for both (04 R99). -/
def winObj (t : Team) (core off : Nat) : WObj :=
  .store (if t.pair && inTeamRegs t off then t.core else storeCore t core off) (t.frame + off)

/-- Does an access touch a word of a sync-held barrier object (12 R327)? -/
def clobbers (t : Team) (off n : Nat) : Bool := t.barriers.any fun b => b < off + n && off < b + 16

/-! ### The L1 -/

/-- Stripes of a core that team windows hold (04 R96). -/
def stripesHeld (s : State) (c : Nat) : Nat :=
  (s.teams.map Prod.snd).foldl (fun a t =>
    if (t.st == .resident || t.windowHeld) && (t.core == c || (t.pair && t.core + 1 == c)) then
      a + t.size / Config.stripeBytes else a) 0

/-- Sets of the L1: the largest power of two whose 8-way lines fit in the free stripes, 0 when there are
fewer than 8 lines (09 R223). -/
def l1Sets (s : State) (c : Nat) : Nat :=
  let lines := (Config.numStripes - stripesHeld s c) * 8
  if lines < 8 then 0 else 2 ^ Nat.log2 (lines / 8)

/-- The bytes off to off + n − 1 of a line as a mask. -/
def byteMask (off n : Nat) : BitVec 64 := BitVec.ofNat 64 ((2 ^ n - 1) * 2 ^ off)

/-- Merge bytes of `v` (a whole line) into a line where `m` is set. -/
def l1Merge (d : BitVec 512) (m : BitVec 64) (v : Nat) : BitVec 512 :=
  (List.range 64).foldl (fun d i =>
    if m.getLsbD i then
      (d &&& ~~~(0xFF#512 <<< (8 * i))) ||| (BitVec.ofNat 512 (v / 2 ^ (8 * i) % 256) <<< (8 * i))
    else d) d

/-- Make room for a line in its set: the least recently used of 8 is written back and dropped. -/
def l1Room (s : State) (c line : Nat) : State :=
  let sets := l1Sets s c
  let same := (s.core c).l1.filter fun x => x.line % max sets 1 == line % max sets 1
  if same.length < 8 then s
  else match same.getLast? with
    | some v => l1Drop s c (·.line == v.line)
    | none => s

/-- Put a line at the head of the L1 and name the core as a sharer of its L2 line (09 R222, R226). -/
def l1Put (s : State) (c : Nat) (x : L1Line) : State :=
  let s := s.modCore c fun k => { k with l1 := x :: k.l1.filter fun y => y.line != x.line }
  { s with l2 := s.l2.map fun l =>
      if l.line = x.line / 4 then { l with sharers := l.sharers.take c } else l }

/-- A plain load at group or team scope through the L1 (09 R224) under a cache policy (R230). -/
def l1Load (s : State) (c ctx pa n pol : Nat) : State × Nat :=
  let line := pa / 64
  let need := byteMask (pa % 64) n
  let at_ (d : BitVec 512) : Nat := d.toNat / 2 ^ (8 * (pa % 64)) % 2 ^ (8 * n)
  let sector := pa / 32 * 32
  match (s.core c).l1.find? (·.line == line) with
  | some x =>
    if need &&& ~~~x.valid = 0 then (l1Put s c x, at_ x.data)
    else
      let r := homeRead s ctx sector 32 pol
      let miss := byteMask (sector % 64) 32 &&& ~~~x.valid
      let x := { x with data := l1Merge x.data miss (r.2 * 2 ^ (8 * (sector % 64))), valid := x.valid ||| miss }
      (l1Put r.1 c x, at_ x.data)
  | none =>
    if (pol ≠ 0 ∧ pol ≠ 2) ∨ l1Sets s c = 0 then homeRead s ctx pa n pol
    else
      let s := l1Room s c line
      let r := homeRead s ctx sector 32 pol
      let m := byteMask (sector % 64) 32
      let x : L1Line := { line := line, data := l1Merge 0 m (r.2 * 2 ^ (8 * (sector % 64))), valid := m, dirty := 0 }
      (l1Put r.1 c x, at_ x.data)

/-- A plain store at group or team scope into the L1, which allocates without a fill (09 R224). -/
def l1Store (s : State) (c ctx pa n v pol : Nat) : State :=
  if l1Sets s c = 0 then homeWrite s ctx pa n v pol
  else
    let line := pa / 64
    let m := byteMask (pa % 64) n
    let (s, x) := match (s.core c).l1.find? (·.line == line) with
      | some x => (s, x)
      | none => ((l2Get (l1Room s c line) ctx (pa / 256) 0 pol).1, { line := line, data := 0, valid := 0, dirty := 0 })
    l1Put s c { x with data := l1Merge x.data m (v * 2 ^ (8 * (pa % 64))), valid := x.valid ||| m,
                       dirty := x.dirty ||| m }

/-- A write-through keeps the bytes of a hit line, which are then clean (09 R224). -/
def l1Through (s : State) (c pa n v : Nat) : State :=
  let m := byteMask (pa % 64) n
  s.modCore c fun k => { k with l1 := k.l1.map fun x =>
    if x.line = pa / 64 then { x with data := l1Merge x.data m (v * 2 ^ (8 * (pa % 64))), valid := x.valid ||| m,
                                      dirty := x.dirty &&& ~~~m } else x }

/-- Write back and drop a core's L1 line that holds an address. -/
def l1Purge (s : State) (c pa : Nat) : State := l1Drop s c (·.line == pa / 64)

/-! ### Scopes -/

/-- The scope an access of a team acts with: a pair performs team scope as device scope (10 R259). -/
def effAs (t : Team) (as : Nat) : Nat := if t.pair && as == 1 then 2 else as

/-- Does a storage scope cover store-local accesses, or global ones (02 R44)? -/
def ssLocal (ss : Nat) : Bool := ss != 1
def ssGlobal (ss : Nat) : Bool := ss != 0

/-- Has every earlier store of the group that a release waits for been acknowledged (10 R259)? -/
def releaseReady (x : Group) (as ss : Nat) : Bool :=
  as == 0 || !(x.pend.any fun p => p.kind == .store || p.kind == .atomic ||
    (p.kind == .peerStore && as == 3 && ss == 3))

/-- A system-scope release asks each peer that has items of the group for its acknowledgement, once for an item (16 R411,
R412; log entry 44). -/
def askPeers (s : State) (g : Nat) : State :=
  let mine (i : PItem) : Bool := (i.grp.map Prod.fst) == some g && !i.asked
  let ps := (s.items.filter fun e => e.2.any mine).map Prod.fst
  let mark (i : PItem) : PItem := if mine i then { i with asked := true } else i
  eachDo ps { s with items := s.items.map fun e => (e.1, e.2.map mark) } fun s p =>
    s.send (.feMsg p (g / 32) (g % 32) 0 .release)

/-- A release asks the peers when it is one of system scope over peer memory. -/
def askRelease (s : State) (g as ss : Nat) : State := if as = 3 ∧ ss = 3 then askPeers s g else s

/-- The release half of R259. -/
def releaseHalf (s : State) (g as ss : Nat) : State :=
  let a := effAs (s.teamOf g) as
  let s := if 1 ≤ a ∧ ssLocal ss then endChain (midEmpty s g) g else s
  if 2 ≤ a ∧ ssGlobal ss then l1WriteAll s (g / 32) else s

/-- The acquire half of R259, with the clause cache of R267. -/
def acquireHalf (s : State) (g as ss : Nat) : State :=
  if 2 ≤ effAs (s.teamOf g) as then
    let s := if ssGlobal ss then l1Drop s (g / 32) fun _ => true else s
    s.modCore (g / 32) fun k => { k with ccache := [] }
  else s

/-- Promotion tag of a line after a write performed with release or strong order (10 R260). -/
def tagWrite (s : State) (g as line : Nat) (release strong : Bool) : State :=
  let a := effAs (s.teamOf g) as
  if a = 1 ∧ (release ∨ (strong ∧ (s.grp g).teamFence)) then setPromo s line (some (g / 32 / 2))
  else if 2 ≤ a ∧ release then setPromo s line none
  else s

/-! ### Reads and writes of one lane -/

/-- A plain read of n bytes at a physical address (09 R224, 16 R411). -/
def physRead (s : State) (g : Nat) (p : Phys) (n as pol : Nat) : State × Nat :=
  if p.pr then freshBytes (s.send (.read p.peer p.pa n)) n
  else if p.hb then freshBytes s n
  else
    let c := g / 32
    let x := s.ctxOf g
    if effAs (s.teamOf g) as < 2 then l1Load s c x p.pa n pol
    else
      let s := l1Purge s c p.pa
      let s := if n = 4 ∨ n = 8 then promoteRead s c (p.pa / 256) else s
      homeRead s x p.pa n pol

/-- A plain write of n bytes at a physical address (09 R224, 16 R411). -/
def physWrite (s : State) (g : Nat) (p : Phys) (n v as pol : Nat) : State :=
  if p.pr then sendItem s p.peer (groupItem s g) (.write p.peer p.pa (bytesOfWord n v))
  else if p.hb then s.send (.hostWrite p.pa (bytesOfWord n v))
  else
    let c := g / 32
    let x := s.ctxOf g
    let strong := decide (1 ≤ as) && (n == 4 || n == 8)
    -- Stream allocates no line, but writes one that is there
    let hit := (s.core c).l1.any (·.line == p.pa / 64)
    let s := if effAs (s.teamOf g) as < 2 ∧ (pol = 0 ∨ pol = 2 ∨ (pol = 1 ∧ hit)) then l1Store s c x p.pa n v pol
      else homeWrite (l1Through s c p.pa n v) x p.pa n v pol
    tagWrite s g as (p.pa / 256) false strong

/-- The word addresses of an access of n bytes. -/
def wordsAt (a n : Nat) : List Nat := (List.range ((a % 4 + n + 3) / 4)).map fun j => a / 4 * 4 + 4 * j

/-- The physical pieces of a lane's access. -/
def placePieces (pl : Place) (n : Nat) : List (Nat × Phys) :=
  match pl with
  | .store _ => []
  | .mem p => [(n, p)]
  | .span ps => ps

/-- Word objects of a lane's access. -/
def placeObjs (t : Team) (core : Nat) (pl : Place) (n : Nat) : List WObj :=
  match pl with
  | .store off => (wordsAt off n).map fun w => winObj t core w
  | pl => (placePieces pl n).flatMap fun p => (wordsAt p.2.pa p.1).map fun w => WObj.mem w

/-- Are the words of an access all in a state? The words of a page without bits read full (08 R199, R209). -/
def placeIs (s : State) (t : Team) (core : Nat) (pl : Place) (n : Nat) (full : Bool) : Bool :=
  match pl with
  | .store _ => (placeObjs t core pl n).all fun o => isFull s o == full
  | pl => (placePieces pl n).all fun p =>
      if p.2.fek then (wordsAt p.2.pa p.1).all fun w => isFull s (.mem w) == full else full

/-- Set the states of an access's words. -/
def placeSet (s : State) (t : Team) (core : Nat) (pl : Place) (n : Nat) (full : Bool) : State :=
  eachDo (placeObjs t core pl n) s fun s o => setFE s o full

/-- The device performs an access at the home: the core's L1 line goes first, and a strong read of device
scope meets a promotion tag (09 R224, 10 R261). -/
def homeAccess (s : State) (g as : Nat) (p : Phys) : State :=
  if p.pr || p.hb then s
  else
    let s := l1Purge s (g / 32) p.pa
    if 2 ≤ effAs (s.teamOf g) as then promoteRead s (g / 32) (p.pa / 256) else s

/-- The lines of a full/empty access are held raw once it has been performed (09 R237). -/
def rawPieces (s : State) (ps : List (Nat × Phys)) : State :=
  eachDo ps s fun s p => if p.2.pr || p.2.hb then s else rawLine s (p.2.pa / 256)

/-- Read the pieces of an access, lowest address first, each as `rd` reads it. -/
def readPieces (rd : State → Phys → Nat → State × Nat) (s : State) : List (Nat × Phys) → State × Nat
  | [] => (s, 0)
  | (l, p) :: r =>
    let a := rd s p l
    let b := readPieces rd a.1 r
    (b.1, a.2 + 2 ^ (8 * l) * b.2)

/-- Write the pieces of an access, lowest address first, each as `wr` writes it. -/
def writePieces (wr : State → Phys → Nat → Nat → State) (s : State) : List (Nat × Phys) → Nat → State
  | [], _ => s
  | (l, p) :: r, v => writePieces wr (wr s p l (v % 2 ^ (8 * l))) r (v / 2 ^ (8 * l))

/-- A read at the home; a peer's page without bits is read as by a plain read (08 R209). -/
def homeOf (g pol : Nat) (s : State) (p : Phys) (n : Nat) : State × Nat :=
  if p.pr then freshBytes (s.send (.read p.peer p.pa n)) n else if p.hb then freshBytes s n else homeRead s (s.ctxOf g) p.pa n pol

/-- A strong write at the home. -/
def homeTo (g as pol : Nat) (release : Bool) (s : State) (p : Phys) (n v : Nat) : State :=
  if p.pr then sendItem s p.peer (groupItem s g) (.write p.peer p.pa (bytesOfWord n v))
  else if p.hb then s.send (.hostWrite p.pa (bytesOfWord n v))
  else tagWrite (homeWrite s (s.ctxOf g) p.pa n v pol) g as (p.pa / 256) release true

/-- A load lane: its data, or none when its words are in the wrong state (08 R198, R199, R210, R214). -/
def loadLane (s : State) (g fe as n pol : Nat) (pl : Place) : State × Option Nat :=
  let t := s.teamOf g
  let c := g / 32
  match pl with
  | .store off =>
    if fe ≠ 0 ∧ !placeIs s t c pl n true then (s, none)
    else
      let v := winRead s t c off n
      (if fe = 2 then placeSet s t c pl n false else s, some v)
  | pl =>
    let ps := placePieces pl n
    if fe = 0 then
      let r := readPieces (fun s p l => physRead s g p l as pol) s ps
      (r.1, some r.2)
    else match ps.find? fun p => p.2.pr && p.2.fek with
      | some p =>
        let s := s.send (.feMsg p.2.peer c (g % 32) p.2.pa (.read fe n))
        let ok := freshBytes s 8
        if ok.2 % 2 = 0 then (ok.1, none) else let r := freshBytes ok.1 n; (r.1, some r.2)
      | none =>
        let s := eachDo ps s fun s p => homeAccess s g as p.2
        if !placeIs s t c pl n true then (s, none)
        else
          let r := readPieces (homeOf g pol) s ps
          let s := rawPieces r.1 ps
          (if fe = 2 then placeSet s t c pl n false else s, some r.2)

/-- A store lane: performed, or not when its words are in the wrong state (08 R198, R199, R214). -/
def storeLane (s : State) (g fe as n v pol : Nat) (pl : Place) : State × Bool :=
  let t := s.teamOf g
  let c := g / 32
  match pl with
  | .store off =>
    if fe ≠ 0 ∧ !placeIs s t c pl n (fe == 1) then (s, false)
    else
      let s := winWrite s t c off n v
      (if fe = 3 then placeSet s t c pl n true else s, true)
  | pl =>
    let ps := placePieces pl n
    if fe = 0 then (writePieces (fun s p l v => physWrite s g p l v as pol) s ps v, true)
    else match ps.find? fun p => p.2.pr && p.2.fek with
      | some p =>
        let m : OutMsg := .feMsg p.2.peer c (g % 32) p.2.pa (.write fe (bytesOfWord n v))
        let ok := freshBytes s 8
        -- a fill that is performed is an item
        if fe = 3 ∧ ok.2 % 2 = 1 then (sendItem ok.1 p.2.peer (groupItem s g) m, true)
        else (ok.1.send m, ok.2 % 2 = 1)
      | none =>
        let s := eachDo ps s fun s p =>
          if fe = 1 || p.2.pr || p.2.hb then homeAccess s g as p.2 else l1Purge s c p.2.pa
        if !placeIs s t c pl n (fe == 1) then (s, false)
        else
          let s := writePieces (homeTo g as pol (fe == 3)) s ps v
          (if fe = 3 then placeSet s t c pl n true else s, true)

/-! ### The frame of the access instructions -/

/-- What an access instruction asks for. -/
structure AReq where
  ps : BitVec 3
  pn : Bool
  t : Nat
  as : Nat
  ss : Nat
  /-- Offset of a lane, bytes it touches, its alignment. -/
  off : Nat → Int
  bytes : Nat
  align : Nat
  use : Use
  /-- The bytes may cross lines and pages (11 R297). -/
  spans : Bool := false
  /-- The bytes start this far above the lane address (11 R297). -/
  skip : Nat := 0
  /-- Bounds of the instruction's own on the lane address (08 R217). -/
  allow : Nat → Bool := fun _ => true
  /-- Virtual addresses of words read first, at their homes (11 R298). -/
  words : Nat → Option Nat := fun _ => none
  /-- Watched as a read, as a write; checked against sync-held words (13 R360, 12 R327). -/
  reads : Bool
  writes : Bool
  /-- Full/empty form, for the park record. -/
  fe : Nat := 0
  /-- Checked against other teams in a deterministic launch (14 R378). -/
  xcomm : Bool := false
  /-- A lane whose page is not present is dropped (08 R220). -/
  drop : Bool := false
  /-- Complete at issue (08 R218). -/
  now : Bool := false
  /-- The host accepts the access (09 R244). -/
  hostOk : Bool := true
  /-- A trap of the instruction as a whole, raised for its lowest lane (11 R295 to R297). -/
  early : Option Nat := none
  /-- An uncorrectable word stops it (13 R361). -/
  ecc : Bool := reads || fe != 0
  release : Bool := false
  acquire : Bool := false
  /-- Register runs in the order D, A, B, C, and the registers whose words are read (02 R51). -/
  runs : List (Nat × Nat)
  srcs : List Nat
  kind : PKind := .load
  /-- Registers and predicate that wait for the result. -/
  dest : List Nat := []
  k : Bool := false
  /-- The destination is one of v0 to v191. -/
  win : Bool := false
  energy : Nat := 1

/-- The results of the lanes an access performed. -/
structure AOut where
  s : State
  vregs : List VRes := []
  pmask : Mask := 0
  pval : Mask := 0
  fl : BitVec 4 := 0
  /-- The words read first. -/
  tab : Tab Nat := []
  /-- AtomicOps the host refused: their addresses and lanes (09 R244). -/
  refused : List (Nat × Mask) := []
  /-- Lanes that read a malformed block (05 R129). -/
  fmt : List Nat := []
  /-- Lanes performed, and lanes whose words were in the wrong state, in order, with their places. -/
  done : Nat := 0
  wrong : List (Nat × Place) := []

/-- The watchpoint range an access of an address overlaps (13 R360). -/
def watched (x : Group) (q : AReq) (a : Nat) : Bool :=
  (List.range 2).any fun j =>
    let c := fld x.trap.wpc (8 * j) 8
    let size := 2 ^ (c / 16)
    let base := (if j = 0 then x.trap.wpa0 else x.trap.wpa1).toNat % 2 ^ 57 / size * size
    let a := a + q.skip
    c % 2 == 1 && ((c / 2 % 2 == 1 && q.reads) || (c / 4 % 2 == 1 && q.writes)) &&
      (c / 8 % 2 == 1) == (q.t == 0) && a < base + size && base < a + q.bytes

/-- An uncorrectable word among n bytes as a core reads them: one that its L1 holds rewritten whole is sound
(09 R225, R231). -/
def coreBad (s : State) (c pa n : Nat) : Bool :=
  s.badMem.any fun w => w < pa + n && pa < w + 4 &&
    !((s.core c).l1.any fun x => x.line == w / 64 && x.dirty.extractLsb' (w % 64) 4 == BitVec.allOnes 4)

/-- Is a word of a lane's access uncorrectable (09 R231, 13 R361)? -/
def placeBad (s : State) (g : Nat) (n : Nat) (pl : Place) : Bool :=
  match pl with
  | .store off => let t := s.teamOf g; storeBad s (storeCore t (g / 32) off) (t.frame + off) n
  | pl => (placePieces pl n).any fun p => !p.2.pr && !p.2.hb && coreBad s (g / 32) p.2.pa p.1

/-- The trap of a set of lanes: code, address of the lowest, mask. -/
def trapOf (code : Nat) (ls : List (Nat × Nat)) : Option (Nat × Nat × Mask) :=
  match ls with
  | [] => none
  | l :: _ => some (code, l.2, maskOf (ls.map Prod.fst))

/-- The address a lane names. -/
def laneAddr (x : Group) (q : AReq) (i : Nat) : Nat :=
  ((((tget x.tregs {} q.t).vbase : Int) + q.off i) % (2 ^ 64 : Nat)).toNat

/-- Steps 1 and 2 of R197 with watchpoints, sync-held words and uncorrectable errors: the first trap. -/
def accessTrap (s : State) (g : Nat) (q : AReq) (xs : List (Nat × LaneX)) : Option (Nat × Nat × Mask) :=
  let x := s.grp g
  let pick (p : Nat → LaneX → Bool) : List (Nat × Nat) :=
    (xs.filter fun l => p l.1 l.2).map fun l => (l.1, laneAddr x q l.1)
  let mis := pick fun _ l => match l with
    | .misalign _ => true | .ok _ _ => false | .prot _ => false | .malformed _ => false | .absent _ => false
  let prot := pick fun i l => match l with
    | .prot _ => true | .malformed _ => true | .misalign _ => false
    | .ok _ (.mem p) => (p.hb && !q.hostOk) || !q.allow (laneAddr x q i)
    | .ok _ _ => !q.allow (laneAddr x q i) | .absent _ => !q.allow (laneAddr x q i)
  let seen := pick fun i l => match l with
    | .absent _ => watched x q (laneAddr x q i) | .ok _ _ => watched x q (laneAddr x q i)
    | .misalign _ => false | .prot _ => false | .malformed _ => false
  let held := pick fun _ l => match l with
    | .ok _ (.store off) => q.writes && clobbers (s.teamOf g) off q.bytes
    | .ok _ _ => false | .misalign _ => false | .prot _ => false | .malformed _ => false | .absent _ => false
  let bad := pick fun _ l => match l with
    | .ok _ p => q.ecc && placeBad s g q.bytes p
    | .misalign _ => false | .prot _ => false | .malformed _ => false | .absent _ => false
  (trapOf 0x05 mis).orElse fun _ => (trapOf 0x06 prot).orElse fun _ =>
    (trapOf 0x11 seen).orElse fun _ =>
      (trapOf 0x09 held).orElse fun _ => trapOf 0x0E bad

/-- Access bits of a page-fault report (13 R349). -/
def accBits (q : AReq) : BitVec 4 :=
  (if q.reads then 8 else 0) ||| (if q.writes then 4 else 0) ||| (if q.fe ≠ 0 then 2 else 0)

/-- Park on page faults: the first 8 distinct pages in lane order are reported (08 R197, 13 R347). `lanes`
are the lanes that fault, with their addresses. -/
def parkPages (s : State) (g : Nat) (mask : Mask) (lanes : List (Nat × Nat)) (addrs : List Nat) (acc : BitVec 4)
    (begun : Bool := false) : State :=
  let ps := ((addrs.map (· / 65536)).eraseDups).take 8
  let c := s.ctxOf g
  let old := (s.grp g).redo
  let s := park s g { cause := .pages c ps, mask := mask, pc := (s.grp g).pc, counter := ps.length, addrs := lanes,
                      futile := (old.map (·.futile)).getD 0, lead := (old.map (·.lead)).getD 0,
                      begun := begun || (old.map (·.begun)).getD false }
  eachDo ps s fun s p => reportPage s {
    ctx := c, page := p, acc := acc, seq := 0, core := g / 32,
    slot := slotNum s g,
    eng := false, launch := (s.teamOf g).launch, waiters := [.group (g / 32) (g % 32)] }

/-- The lowest word of a lane's access, the cause that names it, and its list. -/
def leadOf (s : State) (g fe : Nat) (pl : Place) : Cause × Option WObj × Nat :=
  let t := s.teamOf g
  let c := g / 32
  match pl with
  | .store off =>
    let o := winObj t c (off / 4 * 4)
    (match o with
      | .store k w => .feStore k w fe
      | .mem pa => .feMem pa fe, some o, off / 4 * 4)
  | pl =>
    let p : Phys := (((placePieces pl 4).head?.map Prod.snd).getD
      { pa := 0, r := false, w := false, x := false, pr := false, peer := 0, fek := false, hb := false })
    if p.pr then (.fePeer p.peer (p.pa / 4 * 4) fe, none, p.pa / 4 * 4)
    else (.feMem (p.pa / 4 * 4) fe, some (.mem (p.pa / 4 * 4)), p.pa / 4 * 4)

/-- Park on a full/empty state: the record joins the list of the lead word, at its old place when it returns
to it (08 R202, R205; log entry 13). An exhausted budget is left to FE_BUDGET (R206). `lead` is the address the lane names. -/
def parkState (s : State) (g : Nat) (mask : Mask) (q : AReq) (pl : Place) (lead : Nat) (some_ : Bool) : State :=
  let l := leadOf s g q.fe pl
  let old := (s.grp g).redo
  let again := (old.map fun r => decide (r.cause = l.1)).getD false
  let stateWait := (old.map fun r => match r.cause with
    | .feStore _ _ _ => true | .feMem _ _ => true | .fePeer _ _ _ => true | _ => false).getD false
  let futile := (old.map (·.futile)).getD 0 + (if stateWait && !some_ then 1 else 0)
  let new := nextArrival s
  let arr := if again then (old.map (·.arr)).getD 0 else new.2
  let s := if again then s else new.1
  let s := park s g { cause := l.1, mask := mask, pc := (s.grp g).pc, futile := futile, lead := lead, arr := arr,
                      proxy := some (g / 32, g % 32) }
  let s := match l.2.1 with
    | some o => linkWaiter s { obj := wordOf o, who := .group (g / 32) (g % 32), fe := q.fe, arr := arr }
    | none => s
  let limit := (s.ctx (s.ctxOf g)).feretry
  if stateWait && !some_ && limit ≠ 0 && limit ≤ futile then s.post (.feBudget (g / 32) (g % 32)) else s

/-- Outstanding work of an access: its results are delivered by the unit's reply (08 R213, 09 R239). -/
def postReply (s : State) (g : Nat) (q : AReq) (o : AOut) (pd : Option Nat) (retires : Bool) : State :=
  let x := s.grp g
  let s := if q.win then writeVs s g q.k true 0 [] else s
  let s := addPend s g {
    kind := q.kind, k := q.k, regs := q.dest, vregs := o.vregs, flags := o.fl, retires := retires,
    fail := if o.refused.isEmpty then none else some (o.refused, x.pc, x.hdr),
    preds := match pd with | some d => [(d, o.pmask, o.pval)] | none => [] }
  match q.kind with
  | .store => s.post (.storeAck (g / 32) (g % 32) x.seq)
  | .atomic => s.post (.atomicReturn (g / 32) (g % 32) x.seq)
  | _ => s.post (.loadDataReturn (g / 32) (g % 32) x.seq)

/-- Peer stores of the instruction that wait for their home (02 R35, WP). -/
def notePeers (s : State) (g seq : Nat) : State :=
  let mine := (s.items.flatMap Prod.snd).filter fun i => i.grp == some (g, seq)
  if mine.isEmpty then s
  else s.modGrp g fun x =>
    { x with pend := x.pend ++ [{ kind := .peerStore, seq := seq, aux := mine.length, retires := false }] }

/-- The lanes a predicated access instruction performs: all active ones, or those a replay still owes. -/
def accessLanes (x : Group) (ps : BitVec 3) (pn : Bool) : Mask :=
  match x.redo with
  | some r => r.mask &&& x.em &&& lowMask x.gw
  | none => activeMask x ps pn

/-- Resolve the lanes of an access in home-lane order (08 R196). -/
def resolveLanes (s : State) (g : Nat) (q : AReq) : List Nat → State × List (Nat × LaneX)
  | [] => (s, [])
  | i :: r =>
    let a := if q.spans then resolveSpan s g q.t (q.off i + q.skip) q.bytes q.align q.use
      else resolve s g q.t (q.off i + q.skip) q.bytes q.align q.use
    let b := resolveLanes a.1 g q r
    (b.1, (i, a.2) :: b.2)

/-- A word read before the lanes: its value, or what stops the instruction (11 R298). -/
inductive WordX where
  | ok (v : Nat)
  | trap (code : Nat)
  | absent
  deriving DecidableEq, Repr

/-- A strong 4-byte device-scope read of a word at its home (11 R298). -/
def readWord (s : State) (g a : Nat) : State × WordX :=
  if a % 4 ≠ 0 then (s, .trap 0x05)
  else if 2 ^ 57 ≤ a then (s, .trap 0x06)
  else
    let r := translate s (g / 32) (s.ctxOf g) a
    match r.2 with
    | .absent => (r.1, .absent)
    | .malformed => (malformedRecord r.1 g a 8, .trap 0x06)
    | .ok p =>
      if !pageOk r.1 { write := false, state := false, needWr := false } p then (r.1, .trap 0x06)
      else if p.pr || p.hb then let v := physRead r.1 g p 4 2 0; (v.1, .ok v.2)
      else if coreBad r.1 (g / 32) p.pa 4 then (r.1, .trap 0x0E)
      else let v := homeRead (homeAccess r.1 g 2 p) (s.ctxOf g) p.pa 4; (v.1, .ok v.2)

/-- Read the words an instruction needs, each once; the first that cannot be read stops it. -/
def readWords (s : State) (g : Nat) : List Nat → Tab Nat → State × Tab Nat × Option (Nat × WordX)
  | [], t => (s, t, none)
  | a :: r, t =>
    let v := readWord s g a
    match v.2 with
    | .ok n => readWords v.1 g r (tset t a n)
    | .trap c => (v.1, t, some (a, .trap c))
    | .absent => (v.1, t, some (a, .absent))

/-- Lanes performed that need W write their pages, through the TLB where they lie beyond the register's limit
(13 R340, R344). -/
def markWritten (s : State) (q : AReq) (ls : List (Nat × Place)) : State :=
  let g := s.cur
  let t := tget (s.grp g).tregs {} q.t
  if !(q.use.write || q.use.state) || q.t = 0 then s
  else eachDo ls s fun s l =>
    let o := q.off l.1 + q.skip
    if 0 ≤ o ∧ o + q.bytes ≤ t.limit ∧ t.wr then s
    else
      let a := ((t.vbase : Int) + o).toNat
      dirty (dirty s (g / 32) (s.ctxOf g) a) (g / 32) (s.ctxOf g) (a + q.bytes - 1)

/-- The lanes that can be performed, with their places. -/
def okLanes (xs : List (Nat × LaneX)) : List (Nat × Place) :=
  xs.filterMap fun l => match l.2 with
    | .ok _ p => some (l.1, p) | .misalign _ => none | .prot _ => none
    | .malformed _ => none | .absent _ => none

/-- The lanes whose pages are absent, with their addresses. -/
def absentLanes (xs : List (Nat × LaneX)) : List (Nat × Nat) :=
  xs.filterMap fun l => match l.2 with
    | .absent a => some (l.1, a) | .ok _ _ => none | .misalign _ => none | .prot _ => none
    | .malformed _ => none

/-- Perform the lanes in home-lane order, after the release half of the access (08 R197, 10 R259). -/
def performLanes (s : State) (q : AReq) (tab : Tab Nat) (xs : List (Nat × LaneX)) (lane : AOut → Nat → Place → AOut) : AOut :=
  eachDo (okLanes xs) { s := if q.release then releaseHalf s s.cur q.as q.ss else s, tab := tab : AOut }
    fun o l => lane o l.1 l.2

/-- The acquire half of an access that performed a lane, and the pages it wrote (10 R259, 13 R344). -/
def afterLanes (q : AReq) (xs : List (Nat × LaneX)) (o : AOut) : State :=
  let s := if q.acquire && o.done != 0 then acquireHalf o.s o.s.cur q.as q.ss else o.s
  markWritten s q ((okLanes xs).filter fun l => !o.wrong.any (·.1 == l.1))

/-- The work an access leaves outstanding, when every lane was performed or, with `whole` false, some were not. -/
def accessWork (s : State) (q : AReq) (o : AOut) (pd : Option Nat) (whole : Bool) : State :=
  let g := s.cur
  let seq := (s.grp g).seq
  notePeers (if whole && q.now then retireNow s g else postReply s g q o pd whole) g seq

/-- What the accesses of the lanes cost at the banks of the store and the L1: 2 for each 16 bytes (04 R94, 15 R386). -/
def bankWork (q : AReq) (xs : List (Nat × LaneX)) : Nat :=
  let row (a n : Nat) : List Nat := (List.range ((a % 16 + n + 15) / 16)).map (a / 16 + ·)
  let st := (okLanes xs).flatMap fun l => match l.2 with | .store off => row off q.bytes | _ => []
  let l1 := if 2 ≤ q.as then [] else (okLanes xs).flatMap fun l => (placePieces l.2 q.bytes).flatMap fun p =>
    if p.2.pr || p.2.hb then [] else row p.2.pa p.1
  2 * (st.eraseDups.length + l1.eraseDups.length)

/-- Perform the resolved lanes of an access and deliver, or park what is left (08 R197, R202, R214). -/
def performAccess (s : State) (q : AReq) (pd : Option Nat) (tab : Tab Nat) (xs : List (Nat × LaneX))
    (active : Mask) (lane : AOut → Nat → Place → AOut) : Host.Outcome State Fault Refusal :=
  let g := s.cur
  let absent := if q.drop then [] else absentLanes xs
  let o := performLanes s q tab xs lane
  match trapOf 0x0C (o.fmt.map fun i => (i, laneAddr (s.grp g) q i)) with
  | some (code, a, m) => done (trap s g code a (m &&& active))
  | none =>
    let s := afterLanes q xs o
    let left := maskOf (absent.map Prod.fst ++ o.wrong.map Prod.fst)
    let eu := q.energy + bankWork q xs
    if left = 0 then done (finishVar (accessWork s q o pd true) g 1 2 eu)
    else
      let s := if o.done = 0 then s else accessWork s q o pd false
      let s := charge (occupy s g 1 2 1) g eu
      let s := s.modGrp g fun x => { x with seq := x.seq + 1 }
      done (match absent, o.wrong with
        | [], w :: _ => parkState s g left q w.2 ((laneAddr (s.grp g) q w.1 + q.skip) / 4 * 4) (o.done != 0)
        | _, _ => parkPages s g left absent (absent.map Prod.snd) (accBits q) (o.done != 0))

/-- What stops an access instruction before its addresses are formed: a register limit, an access that a deterministic
launch forbids, a check of the instruction's own, a release that must wait, an uncorrectable operand word. -/
def accessGate (s : State) (q : AReq) : Option State :=
  let g := s.cur
  let x := s.grp g
  let active := accessLanes x q.ps q.pn
  let lanes := lanesOf active x.gw
  match firstLimit x q.runs with
  | some r => some (trap s g 0x06 r active)
  | none =>
    if q.xcomm && isDet s g && q.t != 0 && !lanes.isEmpty then
      some (trap s g 0x08 (laneAddr x q (lanes.headD 0)) active)
    else if q.early.isSome && !lanes.isEmpty then
      some (trap s g (q.early.getD 0) (laneAddr x q (lanes.headD 0)) active)
    else if q.release && !releaseReady x q.as q.ss then some (hold (askRelease s g q.as q.ss) g)
    else (operandBad s g lanes q.srcs).map fun a => trap s g 0x0E a active

/-- Must a release wait for the group's stores to peers? It covers peer memory when it acts there, whatever its storage
scope names (08 R196, 10 R259). -/
def peerRelease (s : State) (g : Nat) (q : AReq) (xs : List (Nat × LaneX)) : Bool :=
  q.release && !releaseReady (s.grp g) q.as 3 &&
    (okLanes xs).any fun l => (placePieces l.2 q.bytes).any fun p => p.2.pr

/-- The lanes an access instruction is to perform. -/
def laneList (s : State) (q : AReq) : List Nat := lanesOf (accessLanes s.g q.ps q.pn) s.g.gw

/-- The frame of the access instructions: register limits, deterministic checks, R197 in order, the lanes
in home-lane order, then delivery or a park. `lane` performs one lane; `pd` is a predicate destination. -/
def runAccess (s : State) (q : AReq) (pd : Option Nat)
    (lane : AOut → Nat → Place → AOut) : Host.Outcome State Fault Refusal :=
  let g := s.cur
  let active := accessLanes (s.grp g) q.ps q.pn
  let lanes := laneList s q
  match accessGate s q with
  | some t => done t
  | none =>
    let r := resolveLanes s g q lanes
    let s := r.1
    match accessTrap s g q r.2 with
    | some (code, a, m) =>
      let bad := r.2.findSome? fun l => match l.2 with
        | .malformed b => some b | .ok _ _ => none | .misalign _ => none | .prot _ => none | .absent _ => none
      let s := match bad with
        | some b => if code ≠ 0x06 then s else malformedRecord s g b (accBits q)
        | none => s
      done (trap s g code a m)
    | none =>
      if peerRelease s g q r.2 then done (hold (askPeers s g) g) else
      let w := readWords s g (lanes.filterMap q.words).eraseDups []
      match w.2.2 with
      | some (a, .trap code) => done (trap w.1 g code a active)
      | some (a, .absent) => done (parkPages w.1 g active (lanes.map fun i => (i, a)) [a] 8)
      | some (_, .ok _) => performAccess w.1 q pd w.2.1 r.2 active lane
      | none => performAccess w.1 q pd w.2.1 r.2 active lane

/-! ### Fences -/

/-- What a fence does when its release half is complete: the ticket, the acquire half, and the promotion
state of the group (10 R260, R265, R270). -/
def completeFence (s : State) (g as ss : Nat) (sq : Bool) : State :=
  let a := effAs (s.teamOf g) as
  let s := if sq then { s with tickets := s.tickets + 1 } else s
  let s := acquireHalf s g as ss
  s.modGrp g fun x => { x with teamFence := if a = 1 then true else if 2 ≤ a then false else x.teamFence }

/-- Does a fence wait for a kind of earlier work: stores and atomics to be acknowledged, those to peers at system scope,
and, where it covers the store, the owner's results to reach the bank (04 R101, 10 R259, R270, 16 R412)? -/
def fenceWaits (as ss : Nat) (k : PKind) : Bool :=
  as != 0 && (k == .store || k == .atomic || (k == .peerStore && as == 3 && ss == 3) || (ssLocal ss && (k == .load || k == .matrix || k == .pop)))

/-- May a fence of a group that is number n complete? -/
def fenceReady (x : Group) (as ss n : Nat) : Bool := !x.pend.any fun p => p.seq < n && fenceWaits as ss p.kind

/-- Complete the outstanding fences of a group whose earlier work has come to its end (10 R270). -/
def settleFences (s : State) (g : Nat) : State :=
  let x := s.grp g
  let due := x.pend.filter fun p => p.kind == .fence && fenceReady x (p.aux / 4) (p.aux % 4) p.seq
  eachDo due s fun s p => deliver (completeFence s g (p.aux / 4) (p.aux % 4) (p.aux2 == 1)) g p

/-! ### Fetching a word of code -/

/-- What a fetch of a word comes to. -/
inductive FetchX where
  | ok (w : DWord)
  | absent
  | malformed
  | prot
  | ecc
  deriving DecidableEq, Repr

/-- Fetch a word: the page needs X (13 R344). -/
def fetchAt (s : State) (g a : Nat) : State × FetchX :=
  if 2 ^ 57 ≤ a ∨ a % 8 ≠ 0 then (s, .prot)
  else
    let c := s.ctxOf g
    let r := translate s (g / 32) c a
    match r.2 with
    | .absent => (r.1, .absent)
    | .malformed => (r.1, .malformed)
    | .ok p =>
      if !p.x ∨ (p.pr ∧ !peerUp r.1 p.peer) then (r.1, .prot)
      else if p.pr ∨ p.hb then
        let v := freshBytes (if p.pr then r.1.send (.read p.peer p.pa 8) else r.1) 8
        (v.1, .ok (BitVec.ofNat 64 v.2))
      else if memBad r.1 p.pa 8 then (r.1, .ecc)
      else
        let v := homeRead r.1 c p.pa 8
        (v.1, .ok (BitVec.ofNat 64 v.2))

end Sys2Proof.Machine
end

