-- ==== Sys2Proof/Machine/Alu.lean ====
section
/-! DEFINITION. The integer arithmetic of the scalar and vector instructions as functions of numbers
(04 R108 to R116): operands as integers, exact results, narrowed at the end. -/

namespace Sys2Proof.Machine.Alu

/-- A w-bit pattern read as two's complement. -/
def signed (w v : Nat) : Int := if v % 2 ^ w < 2 ^ (w - 1) then (v % 2 ^ w : Nat) else (v % 2 ^ w : Nat) - (2 ^ w : Nat)

/-- x mod 2^w as a bit pattern. -/
def wrap (w : Nat) (x : Int) : Nat := (x % (2 ^ w : Nat)).toNat

/-- The value of an operand under a type (04 R112). -/
def value (ty : Ty) (v : Nat) : Int :=
  match ty with
  | .i32 => signed 32 v
  | .i64 => signed 64 v
  | .n64 => (v % 2 ^ 64 : Nat)
  | _ => (v % 2 ^ 32 : Nat)

/-- Smallest and largest value of a type (04 R113). -/
def lo (ty : Ty) : Int :=
  match ty with
  | .i32 => -(2 ^ 31)
  | .i64 => -(2 ^ 63)
  | _ => 0

def hi (ty : Ty) : Int :=
  match ty with
  | .i32 => 2 ^ 31 - 1
  | .i64 => 2 ^ 63 - 1
  | .n64 => 2 ^ 64 - 1
  | _ => 2 ^ 32 - 1

def sat (ty : Ty) (x : Int) : Int := min (max x (lo ty)) (hi ty)

/-- Quotient or remainder (04 R114). -/
def idiv (ty : Ty) (isRem : Bool) (a b : Int) : Int :=
  if b = 0 then
    if isRem then a else if 0 ≤ a then hi ty else lo ty
  else if isRem then a.tmod b
  else wrapTo ty (a.tdiv b)
where
  /-- lo ÷ −1 gives lo. -/
  wrapTo (ty : Ty) (q : Int) : Int := if q = hi ty + 1 then lo ty else q

/-- Number of one bits below bit n. -/
def popc : Nat → Nat → Nat
  | 0, _ => 0
  | n + 1, a => a % 2 + popc n (a / 2)

/-- Leading zeros of the n low bits. -/
def clz : Nat → Nat → Nat
  | 0, _ => 0
  | n + 1, a => if a / 2 ^ n % 2 = 1 then 0 else 1 + clz n a

/-- Trailing zeros of the n low bits. -/
def ctz : Nat → Nat → Nat
  | 0, _ => 0
  | n + 1, a => if a % 2 = 1 then 0 else 1 + ctz n (a / 2)

/-- The n low bits reversed. -/
def brev : Nat → Nat → Nat
  | 0, _ => 0
  | n + 1, a => a % 2 * 2 ^ n + brev n (a / 2)

/-- Shifts of a w-bit value; the amount is unsigned (04 R112). -/
def shl (w a b : Nat) : Nat := if w ≤ b then 0 else a * 2 ^ b % 2 ^ w
def shr (w a b : Nat) : Nat := if w ≤ b then 0 else a % 2 ^ w / 2 ^ b
def sar (w a b : Nat) : Nat := wrap w (signed w a / (2 ^ min b (w - 1) : Nat))
def rot (a b : Nat) : Nat :=
  let k := b % 32
  (a % 2 ^ 32 * 2 ^ k % 2 ^ 32) + a % 2 ^ 32 / 2 ^ (32 - k) % 2 ^ k

/-- Field of a (04 R115). -/
def bfe (isSigned : Bool) (a b : Nat) : Nat :=
  let pos := b % 256
  let wd := b / 256 % 256
  if wd = 0 ∨ 32 ≤ pos then 0
  else
    let w := min wd 32
    let x := a % 2 ^ 32 / 2 ^ pos % 2 ^ w
    if isSigned then wrap 32 (signed w x) else x

/-- b with a field replaced by a (04 R115). -/
def bfi (a b c : Nat) : Nat :=
  let pos := c % 256
  let wd := min (c / 256 % 256) (32 - pos)
  if wd = 0 ∨ 32 ≤ pos then b % 2 ^ 32
  else b % 2 ^ pos + a % 2 ^ wd * 2 ^ pos + b % 2 ^ 32 / 2 ^ (pos + wd) * 2 ^ (pos + wd)

/-- Comparisons 0 to 5: eq, ne, lt, le, gt, ge (04 R109, R116). -/
def cmp (cc : Nat) (a b : Int) : Bool :=
  match cc with
  | 0 => a == b
  | 1 => a != b
  | 2 => a < b
  | 3 => a ≤ b
  | 4 => b < a
  | _ => b ≤ a

/-- The scalar conditions (04 R109). -/
def scmp (cc : Nat) (a b : BitVec 64) : Bool :=
  match cc with
  | 0 => a == b
  | 1 => a != b
  | 2 => a.toInt < b.toInt
  | 3 => a.toInt ≤ b.toInt
  | 4 => b.toInt < a.toInt
  | 5 => b.toInt ≤ a.toInt
  | 6 => a.toNat < b.toNat
  | 7 => a.toNat ≤ b.toNat
  | 8 => b.toNat < a.toNat
  | _ => b.toNat ≤ a.toNat

/-- Scalar shifts, 0 when the amount is 64 or more (04 R108). -/
def sshl (a b : BitVec 64) : BitVec 64 := if 64 ≤ b.toNat then 0 else a <<< b.toNat
def sshr (a b : BitVec 64) : BitVec 64 := if 64 ≤ b.toNat then 0 else a >>> b.toNat

/-- Scalar bit-field extract (04 R110). -/
def sbfe (a b : BitVec 64) : BitVec 64 :=
  let pos := b.toNat % 64
  let wd := b.toNat / 64 % 128
  if wd = 0 ∨ 64 < wd then 0
  else
    let x := a.toNat / 2 ^ pos % 2 ^ wd
    if b.toNat / 2 ^ 13 % 2 = 1 ∧ 2 ^ (wd - 1) ≤ x then BitVec.ofInt 64 ((x : Int) - (2 ^ wd : Nat))
    else BitVec.ofNat 64 x

end Sys2Proof.Machine.Alu
end

