-- ==== Sys2Proof/Machine/LogNum.lean ====
section
/-! DEFINITION. Log numbers (05): codes, values, packing, the exact real functions log2 and 2^x in
integer arithmetic, and the Gaussian-log adder with its tables computed from their rules. -/

namespace Sys2Proof.Machine

/-- The LSTAT flags an operation raises: bit 0 OV, 1 UF, 2 NC, 3 NV (05 R138). -/
abbrev Flags := BitVec 4
def flOV : Flags := 1
def flUF : Flags := 2
def flNC : Flags := 4
def flNV : Flags := 8

/-- A log format: bits of L and fraction bits of L (05 R121, R124). -/
structure LFmt where
  lbits : Nat
  f : Nat
  deriving DecidableEq, Repr

namespace LFmt
def l32 : LFmt := ⟨30, 22⟩
def l16 : LFmt := ⟨14, 9⟩
def l8 : LFmt := ⟨6, 3⟩
def node : LFmt := ⟨23, 14⟩
def lmax (t : LFmt) : Int := 2 ^ (t.lbits - 1) - 1
def lmin (t : LFmt) : Int := -(2 ^ (t.lbits - 1))
end LFmt

/-- A log value: the sign is true for negative; L in units of 2^−f (05 R122). -/
inductive LV where
  | nan
  | inf (s : Bool)
  | zero (s : Bool)
  | fin (s : Bool) (l : Int)
  deriving DecidableEq, Repr

namespace Log

/-- Read a code (05 R122). -/
def decode (t : LFmt) (c : Nat) : LV :=
  let m := c % 2 ^ t.lbits
  let l : Int := if m < 2 ^ (t.lbits - 1) then (m : Int) else (m : Int) - (2 ^ t.lbits : Nat)
  let s := c / 2 ^ (t.lbits + 1) % 2 == 1
  if c / 2 ^ t.lbits % 2 = 0 then .fin s l
  else if l = 0 then .zero s
  else if l = t.lmax then .inf s
  else .nan

/-- The code of a value; NaN is canonical (05 R122). -/
def encode (t : LFmt) (v : LV) : Nat :=
  let sg (s : Bool) : Nat := if s then 2 ^ (t.lbits + 1) else 0
  let lc (l : Int) : Nat := (l % (2 ^ t.lbits : Nat)).toNat
  let z := 2 ^ t.lbits
  match v with
  | .nan => z + lc t.lmin
  | .inf s => sg s + z + lc t.lmax
  | .zero s => sg s + z
  | .fin s l => sg s + lc l

/-- Pack (05 R123). -/
def pack (t : LFmt) (mode : Nat) (s : Bool) (l : Int) : LV × Flags :=
  if t.lmax < l then (if mode = 0 then .inf s else .fin s t.lmax, flOV)
  else if l < t.lmin then (if mode = 1 then .fin s t.lmin else .zero s, flUF)
  else (.fin s l, 0)

/-- A real x held as h = floor(2x) and whether 2x = h. -/
structure Fix where
  h : Int
  exact : Bool
  deriving DecidableEq, Repr

/-- −x. -/
def Fix.neg (x : Fix) : Fix := if x.exact then ⟨-x.h, true⟩ else ⟨-x.h - 1, false⟩

/-- Nearest integer, ties to even (02 R59, RNE). -/
def Fix.rne (x : Fix) : Int :=
  if x.exact && x.h % 2 == 1 then
    let k := x.h / 2
    if k % 2 = 0 then k else k + 1
  else (x.h + 1) / 2

/-- Round a magnitude to odd. -/
def Fix.rtoMag (x : Fix) : Int :=
  let m := x.h / 2
  if (!x.exact || x.h % 2 == 1) && m % 2 == 0 then m + 1 else m

/-- Round to odd (02 R59, RTO). -/
def Fix.rto (x : Fix) : Int := if x.h < 0 then -x.neg.rtoMag else x.rtoMag

/-- Towards zero. -/
def Fix.trunc (x : Fix) : Int := if x.h < 0 then -(x.neg.h / 2) else x.h / 2

/-- One step of Newton's iteration for the integer square root, from above. -/
def isqrtLoop (n : Nat) : Nat → Nat → Nat
  | 0, x => x
  | k + 1, x =>
    let y := (x + n / x) / 2
    if x ≤ y then x else isqrtLoop n k y

/-- floor(sqrt n) for 2^2p ≤ n < 2^(2p+2). -/
def isqrt (p n : Nat) : Nat := isqrtLoop n 24 (2 ^ (p + 1))

/-- Fraction bits the real functions are computed with (log entry 10). -/
def prec : Nat := 200

/-- 2^(r / 2^k) with `prec` fraction bits, at most 2 units too small; exact when r = 0.
Takes one square root for each bit of r, from its lowest. -/
def exp2Frac : Nat → Nat → Nat → Nat
  | 0, _, x => x
  | k + 1, r, x => exp2Frac k (r / 2) (isqrt prec ((if r % 2 = 1 then 2 * x else x) * 2 ^ prec))

/-- m × 2^(t / 2^22 + k). -/
def exp2Fix (m : Nat) (t k : Int) : Fix :=
  let q := t / (2 ^ 22 : Nat) + k + 1
  let r := (t % (2 ^ 22 : Nat)).toNat
  if r = 0 then
    if 0 ≤ q then ⟨(m * 2 ^ q.toNat : Nat), true⟩
    else
      let d := 2 ^ (-q).toNat
      ⟨(m / d : Nat), m % d == 0⟩
  else
    let x := m * exp2Frac 22 r (2 ^ prec)
    let e := q - prec
    ⟨if 0 ≤ e then (x * 2 ^ e.toNat : Nat) else (x / 2 ^ (-e).toNat : Nat), false⟩

/-- The bits of the fraction of log2 of a mantissa x in [1, 2) with `prec` fraction bits, by squaring. -/
def log2Bits : Nat → Nat → Nat → Nat
  | 0, _, acc => acc
  | k + 1, x, acc =>
    let y := x * x / 2 ^ prec
    if 2 ^ (prec + 1) ≤ y then log2Bits k (y / 2) (2 * acc + 1) else log2Bits k y (2 * acc)

/-- floor(log2(x / 2^prec) × 2^g) of a positive x. -/
def log2Floor (x g : Nat) : Int :=
  let e := Nat.log2 x
  let m := if e ≤ prec then x * 2 ^ (prec - e) else x / 2 ^ (e - prec)
  ((e : Int) - prec) * (2 ^ g : Nat) + (log2Bits g m 0 : Nat)

/-- log2(m × 2^(t / 2^22)) × 2^f of a positive m, f at most 22. -/
def log2Fix (m : Nat) (t : Int) (f : Nat) : Fix :=
  let d : Int := (2 ^ (22 - f) : Nat)
  let e := Nat.log2 m
  if m = 2 ^ e then
    let n := 2 * (t + (e : Int) * (2 ^ 22 : Nat))
    ⟨n / d, n % d == 0⟩
  else ⟨(log2Floor (m * 2 ^ prec) 23 + 2 * t) / d, false⟩

/-- RNE of log2(x / 2^prec) × 2^g. -/
def log2Rne (x g : Nat) : Int := (log2Floor x (g + 1) + 1) / 2

/-- 2^(n / 2^k − c) with `prec` fraction bits. -/
def pow2 (n k c : Nat) : Nat := exp2Frac k (n % 2 ^ k) (2 ^ prec) * 2 ^ (n / 2 ^ k) / 2 ^ c

/-- The log16 tables (05 R132). -/
def tsb (j : Nat) : Int := log2Rne (2 ^ prec + pow2 j 4 11) 14
def tdb (j : Nat) : Int := log2Rne (2 ^ prec - pow2 j 4 11) 14
def tnc (k : Nat) : Int := log2Rne (2 ^ prec - pow2 (512 - k) 9 1) 9

/-- The log32 tables (05 R134). -/
def usb (n : Nat) : Int := log2Rne (2 ^ prec + pow2 n 7 24) 30
def udb (n : Nat) : Int := log2Rne (2 ^ prec - pow2 n 7 24) 30
def ulg (n : Nat) : Int :=
  if n = 256 then 1073741824
  else if n = 257 then 1076764424
  else log2Rne (2 ^ prec + n * 2 ^ (prec - 8)) 30

def ln2c : Int := -567758570
def qc : Int := 124043520

/-- RNE(i × 2^−k, 0). -/
def rneShift (i : Int) (k : Nat) : Int :=
  (Fix.mk (2 * i / (2 ^ k : Nat)) (2 * i % (2 ^ k : Nat) == 0)).rne

/-- Linear interpolation of a log16 table (05 R133). -/
def interp (tab : Nat → Int) (dd : Int) : Int :=
  let q := (dd + 5632).toNat
  let j := q / 32
  let m := q % 32
  let i := if m = 0 then tab j else tab j + ((tab (j + 1) - tab j) * (m : Int) + 16) / 32
  rneShift i 5

/-- The distance D of the log16 table path and its flag; dd = 512 d ≤ 0 (05 R133). -/
def dist16 (same : Bool) (dd : Int) : Int × Flags :=
  if same then (if dd < -5632 then 0 else interp tsb dd, 0)
  else if -256 < dd then (tnc (-dd).toNat, flNC)
  else (if dd < -5632 then 0 else interp tdb dd, 0)

/-- Quadratic interpolation of a log32 table (05 R135). -/
def quad (u : Nat → Int) (dd : Int) : Int :=
  let q := (dd + 100663296).toNat
  let j := q / 65536
  let m : Int := ((q % 65536 : Nat) : Int)
  let p0 := u (2 * j)
  if m = 0 then p0
  else
    let p1 := u (2 * j + 1)
    let p2 := u (2 * j + 2)
    let c1 := 4 * p1 - 3 * p0 - p2
    let c2 := 2 * (p0 - 2 * p1 + p2)
    p0 + (c1 * m * 65536 + c2 * m * m + 2 ^ 31) / 2 ^ 32

/-- log2 of 1 ≤ k ≤ 65535 in units of 2^−30 (05 R135). -/
def lg2 (k : Nat) : Int :=
  let e := Nat.log2 k
  let fm := k * 2 ^ (16 - e) - 65536
  let i := fm / 256
  let u : Int := ((fm % 256 : Nat) : Int)
  let d1 := ulg (i + 1) - ulg i
  let d2 := ulg (i + 2) - 2 * ulg (i + 1) + ulg i
  (e : Int) * 2 ^ 30 + ulg i + (2 * d1 * u * 256 + d2 * u * (u - 256) + 2 ^ 16) / 2 ^ 17

/-- The least s from 1 with y × 2^s ≥ 2^22 (05 R136). -/
def doublings (y : Nat) : Nat → Nat → Nat
  | 0, s => s
  | k + 1, s => if 2 ^ 22 ≤ y * 2 ^ s then s else doublings y k (s + 1)

/-- x minus the terms Quad(Usb, dd × 2^i) for i below s (05 R136). -/
def minusQuads (dd : Int) : Nat → Int → Int
  | 0, x => x
  | s + 1, x => minusQuads dd s (x - quad usb (dd * (2 ^ s : Nat)))

/-- The quantity X of the log32 table path, in units of 2^−30, and its flag; dd = 2^22 d ≤ 0 (05 R136). -/
def distX (same : Bool) (dd : Int) : Int × Flags :=
  if same then (if dd < -100663296 then 0 else quad usb dd, 0)
  else
    let y := (-dd).toNat
    if 100663296 < y then (0, 0)
    else if 2 ^ 22 ≤ y then (quad udb dd, 0)
    else if 65536 ≤ y then
      let s := doublings y 6 1
      (minusQuads dd s (quad udb (dd * (2 ^ s : Nat))), 0)
    else
      let yi : Int := (y : Int)
      (lg2 y - 22 * 2 ^ 30 + ln2c - 128 * yi + (yi * yi * qc + 2 ^ 45) / 2 ^ 46, flNC)

/-- The distance D of the log32 table path (05 R136). -/
def dist32 (same : Bool) (dd : Int) : Int × Flags :=
  let x := distX same dd
  (rneShift x.1 8, x.2)

/-- The distance of a node of the matrix tree, in units of 2^−14 (07 R180). -/
def distNode (same : Bool) (dd : Int) : Int × Flags :=
  let x := distX same (dd * 256)
  (rneShift x.1 16, x.2)

/-- The Gaussian-log sum of two values of format log16, log32 or node, the L of an operand without a range
limit (05 R131, R133, R136, 06 R155, 07 R180). -/
def gla (t : LFmt) (mode : Nat) (a b : LV) : LV × Flags :=
  let dist := if t.f = 9 then dist16 else if t.f = 14 then distNode else dist32
  match a, b with
  | .nan, _ => (.nan, 0)
  | _, .nan => (.nan, 0)
  | .inf s, .inf r => if s = r then (.inf s, 0) else (.nan, flNV)
  | .inf s, _ => (.inf s, 0)
  | _, .inf s => (.inf s, 0)
  | .zero s, .zero r => (.zero (s && r), 0)
  | .zero _, .fin s l => pack t mode s l
  | .fin s l, .zero _ => pack t mode s l
  | .fin sa la, .fin sb lb =>
    if la = lb ∧ sa ≠ sb then (.zero false, 0)
    else
      let (sx, lx, ly) := if lb ≤ la then (sa, la, lb) else (sb, lb, la)
      let d := dist (sa == sb) (ly - lx)
      let p := pack t mode sx (lx + d.1)
      (p.1, d.2 ||| p.2)

/-- Compare two values that are not NaN: −1, 0 or 1 (05 R130). -/
def order : LV → LV → Int
  | a, b =>
    let key : LV → Int × Int
      | .nan => (0, 0)
      | .inf s => if s then (-2, 0) else (2, 0)
      | .zero _ => (0, 0)
      | .fin s l => if s then (-1, -l) else (1, l)
    let x := key a
    let y := key b
    if x.1 < y.1 ∨ (x.1 = y.1 ∧ x.2 < y.2) then -1
    else if x = y then 0 else 1

def isNan : LV → Bool
  | .nan => true
  | _ => false

def sign : LV → Bool
  | .nan => false
  | .inf s => s
  | .zero s => s
  | .fin s _ => s

def withSign (s : Bool) : LV → LV
  | .nan => .nan
  | .inf _ => .inf s
  | .zero _ => .zero s
  | .fin _ l => .fin s l

def neg (v : LV) : LV := withSign (!sign v) v

/-- L of a finite value rescaled from f to g fraction bits: RNE, or RTO (05 R141). -/
def rescale (f g : Nat) (odd : Bool) (l : Int) : Int :=
  if f ≤ g then l * (2 ^ (g - f) : Nat)
  else
    let d : Int := (2 ^ (f - g) : Nat)
    let x : Fix := ⟨2 * l / d, 2 * l % d == 0⟩
    if odd then x.rto else x.rne

/-- Conversion between log formats (06 R159). -/
def convert (src dst : LFmt) (odd : Bool) (mode : Nat) : LV → LV × Flags
  | .fin s l => pack dst mode s (rescale src.f dst.f odd l)
  | v => (v, 0)

end Log

end Sys2Proof.Machine
end

