-- ==== Sys2Proof/Machine/LogFn.lean ====
section
/-! DEFINITION. The results of the log instructions for one lane, as functions of codes (06 R150 to R166). -/

namespace Sys2Proof.Machine.Log

/-- The log format of a type; l32 for a type that is no log type. -/
def fmtOf (ty : Ty) : LFmt :=
  match ty with
  | .l8 => .l8
  | .l16 => .l16
  | _ => .l32

/-- The format of the two-bit source selector of `lcvt` (06 R144). -/
def srcFmt (n : Nat) : LFmt :=
  match n with
  | 1 => .l8
  | 2 => .l16
  | _ => .l32

/-- The product p of `lmul` and `lmad`, exact and not range-checked (06 R150, R155). -/
def product : LV → LV → LV × Flags
  | .nan, _ => (.nan, 0)
  | _, .nan => (.nan, 0)
  | .zero _, .inf _ => (.nan, flNV)
  | .inf _, .zero _ => (.nan, flNV)
  | .inf s, b => (.inf (s ^^ sign b), 0)
  | a, .inf s => (.inf (sign a ^^ s), 0)
  | .zero s, b => (.zero (s ^^ sign b), 0)
  | a, .zero s => (.zero (sign a ^^ s), 0)
  | .fin s l, .fin r k => (.fin (s ^^ r) (l + k), 0)

/-- Pack a finite value, keep any other. -/
def packV (t : LFmt) (mode : Nat) : LV → LV × Flags
  | .fin s l => pack t mode s l
  | v => (v, 0)

def mul (t : LFmt) (mode : Nat) (a b : LV) : LV × Flags :=
  let p := product a b
  let r := packV t mode p.1
  (r.1, p.2 ||| r.2)

/-- `ldiv` (06 R150). -/
def div (t : LFmt) (mode : Nat) : LV → LV → LV × Flags
  | .nan, _ => (.nan, 0)
  | _, .nan => (.nan, 0)
  | .zero _, .zero _ => (.nan, flNV)
  | .inf _, .inf _ => (.nan, flNV)
  | .inf s, b => (.inf (s ^^ sign b), 0)
  | a, .zero s => (.inf (sign a ^^ s), 0)
  | .zero s, b => (.zero (s ^^ sign b), 0)
  | a, .inf s => (.zero (sign a ^^ s), 0)
  | .fin s l, .fin r k => pack t mode (s ^^ r) (l - k)

/-- The unary instructions (06 R151). -/
def rcp (t : LFmt) (mode : Nat) : LV → LV × Flags
  | .nan => (.nan, 0)
  | .zero s => (.inf s, 0)
  | .inf s => (.zero s, 0)
  | .fin s l => pack t mode s (-l)

def sqr (t : LFmt) (mode : Nat) : LV → LV × Flags
  | .nan => (.nan, 0)
  | .zero _ => (.zero false, 0)
  | .inf _ => (.inf false, 0)
  | .fin _ l => pack t mode false (2 * l)

def sqrt : LV → LV × Flags
  | .nan => (.nan, 0)
  | .zero s => (.zero s, 0)
  | .inf s => if s then (.nan, flNV) else (.inf false, 0)
  | .fin s l => if s then (.nan, flNV) else (.fin false (rneShift l 1), 0)

/-- `lpow` (06 R152). -/
def pow (t : LFmt) (mode : Nat) (k : Int) (a : LV) : LV × Flags :=
  let s := sign a && k % 2 != 0
  match a with
  | .nan => (.nan, 0)
  | .zero _ => if k = 0 then (.fin false 0, 0) else if 0 < k then (.zero s, 0) else (.inf s, 0)
  | .inf _ => if k = 0 then (.fin false 0, 0) else if 0 < k then (.inf s, 0) else (.zero s, 0)
  | .fin _ l => if k = 0 then (.fin false 0, 0) else pack t mode s (k * l)

/-- `lscl` (06 R153). -/
def scl (t : LFmt) (mode : Nat) (k : Int) : LV → LV × Flags
  | .fin s l => pack t mode s (l + k * (2 ^ t.f : Nat))
  | v => (v, 0)

/-- Exact widening of log8 to log16 (06 R154). -/
def widen8 : LV → LV
  | .fin s l => .fin s (l * 64)
  | v => v

/-- `ladd` (06 R154). -/
def add (t : LFmt) (mode : Nat) (a b : LV) : LV × Flags :=
  if t.f = 3 then
    let r := gla .l16 0 (widen8 a) (widen8 b)
    let n := convert .l16 .l8 false mode r.1
    (n.1, r.2 ||| n.2)
  else gla t mode a b

/-- `lmad` (06 R155): the product is not range-checked and the sum is packed once. -/
def mad (t : LFmt) (mode : Nat) (a b c : LV) : LV × Flags :=
  if t.f = 3 then
    let p := product (widen8 a) (widen8 b)
    let r := gla .l16 0 p.1 (widen8 c)
    let n := convert .l16 .l8 false mode r.1
    (n.1, p.2 ||| r.2 ||| n.2)
  else
    let p := product a b
    let r := gla t mode p.1 c
    (r.1, p.2 ||| r.2)

/-- `lmin` and `lmax`, with `.mag` on magnitudes (06 R156). -/
def minMax (isMax mag : Bool) (a b : LV) : LV :=
  if isNan a || isNan b then .nan
  else
    let o := if mag then order (withSign false a) (withSign false b) else order a b
    if o = 0 then (if isMax then (if sign a then (if sign b then a else b) else a)
      else (if sign a then a else if sign b then b else a))
    else if (o < 0) ^^ isMax then a else b

/-- `lcmp` (06 R157). -/
def cmp (cc : Nat) (a b : LV) : Bool :=
  let un := isNan a || isNan b
  let o := order a b
  match cc with
  | 0 => !un && o == 0
  | 1 => un || o != 0
  | 2 => !un && o < 0
  | 3 => !un && o ≤ 0
  | 4 => !un && 0 < o
  | 5 => !un && 0 ≤ o
  | 6 => un
  | _ => !un

/-- `lcls` (06 R158); c is the code. -/
def cls (t : LFmt) (c : Nat) : Nat :=
  match decode t c with
  | .zero s => if s then 1 else 0
  | .fin s _ => if s then 3 else 2
  | .inf s => if s then 5 else 4
  | .nan => if c % 2 ^ (t.lbits + 2) = encode t .nan then 6 else 7

/-- `lfi` and `lxf`: n × 2^−q (06 R160, R162). -/
def ofInt (t : LFmt) (mode : Nat) (n : Int) (q : Nat) : LV × Flags :=
  if n = 0 then (.zero false, 0)
  else pack t mode (decide (n < 0)) (log2Fix n.natAbs (-(q : Int) * (2 ^ 22 : Nat)) t.f).rne

/-- The magnitude of a finite value times 2^q, as a rounded integer with its sign (06 R161). -/
def toIntRaw (t : LFmt) (q : Nat) (rz : Bool) (s : Bool) (l : Int) : Int :=
  let x := exp2Fix 1 (l * (2 ^ (22 - t.f) : Nat)) q
  let n := if rz then x.trunc else x.rne
  if s then -n else n

/-- `lti` and `lfx` into the range lo to hi (06 R161, R162). -/
def toInt (t : LFmt) (q : Nat) (rz : Bool) (lo hi : Int) : LV → Int × Flags
  | .nan => (0, flNV)
  | .inf s => (if s then lo else hi, flOV)
  | .zero _ => (0, 0)
  | .fin s l =>
    let n := toIntRaw t q rz s l
    if hi < n then (hi, flOV) else if n < lo then (lo, flOV) else (n, 0)

/-- `lexp2` (06 R163). -/
def exp2 (t : LFmt) (mode : Nat) : LV → LV × Flags
  | .nan => (.nan, 0)
  | .zero _ => (.fin false 0, 0)
  | .inf s => if s then (.zero false, 0) else (.inf false, 0)
  | .fin s l =>
    let x := exp2Fix 1 (l * (2 ^ (22 - t.f) : Nat)) t.f
    pack t mode false (if s then -x.rne else x.rne)

/-- `llg2` (06 R164). -/
def lg2v (t : LFmt) : LV → LV × Flags
  | .nan => (.nan, 0)
  | .zero _ => (.inf true, 0)
  | .inf s => if s then (.nan, flNV) else (.inf false, 0)
  | .fin s l =>
    if s then (.nan, flNV)
    else if l = 0 then (.zero false, 0)
    else pack t 0 (decide (l < 0)) (log2Fix l.natAbs (-(t.f : Int) * (2 ^ 22 : Nat)) t.f).rne

/-- A code with any NaN made canonical (06 R165). -/
def canon (t : LFmt) (c : Nat) : Nat :=
  match decode t c with
  | .nan => encode t .nan
  | _ => c % 2 ^ (t.lbits + 2)

/-- `lpk` (06 R165). -/
def lpk (ty : Ty) (hi : Bool) (a b c : Nat) : Nat :=
  if ty = .l8 then
    if hi then c % 2 ^ 16 + canon .l8 a * 2 ^ 16 + canon .l8 b * 2 ^ 24
    else canon .l8 a + canon .l8 b * 2 ^ 8 + c / 2 ^ 16 % 2 ^ 16 * 2 ^ 16
  else canon .l16 a + canon .l16 b * 2 ^ 16

/-- `lupk` (06 R166). -/
def lupk (ty : Ty) (sel a : Nat) : Nat :=
  if ty = .l8 then canon .l8 (a / 2 ^ (8 * sel)) else canon .l16 (a / 2 ^ (16 * sel))

end Sys2Proof.Machine.Log
end

