-- ==== Sys2Proof/Machine/Atomic.lean ====
section
/-! DEFINITION. The atomics at memory and their returns (09 R238 to R245). -/

namespace Sys2Proof.Machine

open State

/-- Width at memory in bytes (09 R239). -/
def atomWidth (ty : Ty) : Nat := match ty with | .i64 => 8 | .l16 => 2 | _ => 4

/-- How an atomic travels to the host and to a peer (09 R244). -/
inductive Travel where
  | op (p : PeerOp)
  | message (opc : Nat)
  deriving DecidableEq, Repr

/-- The operand of a register field in a lane: a pair for 64 bits, the low half for l16 (09 R240). -/
def atomOperand (s : State) (g : Nat) (ty : Ty) (r i : Nat) : Nat :=
  match ty with
  | .i64 => if r = 240 then 0 else (readV s g [] r i).toNat + 2 ^ 32 * (readV s g [] (r + 1) i).toNat
  | .l16 => (readV s g [] r i).toNat % 2 ^ 16
  | _ => (readV s g [] r i).toNat

/-- The register words of a returned value (09 R239, R240). -/
def atomWords (f : FmtA) (i v : Nat) : List VRes :=
  if f.d = 240 then []
  else if f.ty = .i64 then [⟨f.d.toNat, i, BitVec.ofNat 32 v⟩, ⟨f.d.toNat + 1, i, BitVec.ofNat 32 (v / 2 ^ 32)⟩]
  else [⟨f.d.toNat, i, BitVec.ofNat 32 v⟩]

/-- What an atomic asks of the frame: `b` and `c` tell that the fields name registers. -/
def atomReq (s : State) (f : FmtA) (b c : Bool) (tr : Travel) : AReq :=
  let g := s.cur
  let w := atomWidth f.ty
  let n := if w = 8 then 2 else 1
  let wide := w == 4 || w == 8
  let d := f.d.toNat
  { ps := f.ps, pn := f.pn, t := f.t.toNat, as := f.as.toNat, ss := f.ss.toNat,
    off := fun i => (readV s g [] f.a.toNat i).toNat, bytes := w, align := w,
    use := { write := true, state := false, needWr := true },
    reads := true, writes := true, xcomm := true, release := f.sq, acquire := f.sq,
    hostOk := (match tr with | .op _ => wide | .message _ => false),
    runs := [(d, n), (f.a.toNat, 1)] ++ (if b then [(f.b.toNat, n)] else []) ++ (if c then [(f.c.toNat, n)] else []),
    srcs := f.a.toNat :: ((if b then [f.b.toNat, f.b.toNat + (n - 1)] else []) ++
      (if c then [f.c.toNat, f.c.toNat + (n - 1)] else [])),
    kind := if d = 240 then .store else .atomic,
    dest := if d = 240 then [] else (List.range n).map (d + ·), win := d ≤ 191 }

/-- The transaction of a combined request to a peer or the host (09 R241, R244): `aadd` carries the sum of the lanes'
increments, `axchg` the last lane's value, and the others the operand and the comparand of each lane in home-lane
order. -/
def atomTravel (s : State) (g : Nat) (f : FmtA) (tr : Travel) (p : Phys) (mates : List Nat) : State :=
  let b (j : Nat) : DWord := BitVec.ofNat 64 (atomOperand s g f.ty f.b.toNat j)
  let c (j : Nat) : DWord := BitVec.ofNat 64 (atomOperand s g f.ty f.c.toNat j)
  let w := atomWidth f.ty
  let sum : DWord := BitVec.ofNat 64 ((mates.foldl (fun a j => a + (b j).toNat) 0) % 2 ^ (8 * w))
  let lanes : List (DWord × DWord) := match tr with
    | .op .fetchAdd => [(sum, 0)]
    | .op .swap => [(b (mates.getLastD 0), 0)]
    | .op .cas => mates.map fun j => (b j, c j)
    | .message 0x87 => mates.map fun j => (b j, c j)
    | .message 0x88 => mates.map fun _ => (0, 0)
    | .message _ => mates.map fun j => (b j, 0)
  match tr with
  | .op o =>
    if p.hb then s.send (.hostAtomic p.pa (w == 8) o lanes) else s.send (.atomicOp p.peer p.pa (w == 8) o lanes)
  | .message opc => s.send (.atomicMsg p.peer (g / 32) (g % 32) p.pa opc f.ty f.c.toNat lanes)

/-- Note a lane whose AtomicOp the host refused, with the others of its transaction. -/
def refuseLane (l : List (Nat × Mask)) (a i : Nat) : List (Nat × Mask) :=
  if l.any (·.1 == a) then l.map fun x => if x.1 = a then (x.1, x.2 ||| laneBit i) else x else l ++ [(a, laneBit i)]

/-- One lane of an atomic: the value it returns, and what its home holds after it (09 R241). The lanes of one address
at a peer or the host travel as one transaction: the lowest gets what comes back, and each other lane what the word
held before its own operation. -/
def atomLane (s0 : State) (f : FmtA) (q : AReq) (tr : Travel) (op : Nat → Nat → Nat → Nat × Flags)
    (o : AOut) (i : Nat) (pl : Place) : AOut :=
  let g := s0.cur
  let w := atomWidth f.ty
  let b := atomOperand s0 g f.ty f.b.toNat i
  let c := atomOperand s0 g f.ty f.c.toNat i
  let a := laneAddr (s0.grp g) q i
  match pl with
  | .store off =>
    let t := s0.teamOf g
    let v := winRead o.s t (g / 32) off w
    let r := op v b c
    let s := orMastat (winWrite o.s t (g / 32) off w r.1) (s0.ctxOf g) r.2
    { o with s := s, vregs := o.vregs ++ atomWords f i v, done := o.done + 1 }
  | pl =>
    match placePieces pl w with
    | (_, p) :: _ =>
      if p.pr || p.hb then
        let mates := (lanesOf (accessLanes (s0.grp g) f.ps f.pn) (s0.grp g).gw).filter fun j => q.off j == q.off i
        let first := mates.headD i == i
        let r : State × Nat := if first then freshBytes (atomTravel o.s g f tr p mates) w else (o.s, tget o.tab 0 a)
        let st : State × Nat := if first && p.hb then freshBytes r.1 8 else (r.1, 0)
        let v := op r.2 b c
        let s := orMastat st.1 (s0.ctxOf g) v.2
        let o := { o with s := s, tab := tset o.tab a v.1, done := o.done + 1 }
        if st.2 % 2 == 1 || o.refused.any (·.1 == a) then { o with refused := refuseLane o.refused a i }
        else { o with vregs := o.vregs ++ atomWords f i r.2 }
      else
        let s := homeAccess o.s g q.as p
        let v := homeOf g 0 s p w
        let r := op v.2 b c
        -- the write leaves the line raw (09 R237)
        let s := orMastat (homeTo g q.as 0 f.sq v.1 p w r.1) (s0.ctxOf g) r.2
        { o with s := s, vregs := o.vregs ++ atomWords f i v.2, done := o.done + 1 }
    | [] => o

/-- One lane of an atomic; with SQ the first lane performed takes a ticket of the SC sequencer, one for the instruction
(10 R265). -/
def atomLanes (s : State) (f : FmtA) (b c : Bool) (tr : Travel) (op : Nat → Nat → Nat → Nat × Flags)
    (o : AOut) (i : Nat) (pl : Place) : AOut :=
  let again := ((s.grp s.cur).redo.map (·.begun)).getD false
  let o := if f.sq && o.done == 0 && !again then { o with s := { o.s with tickets := o.s.tickets + 1 } } else o
  atomLane s f (atomReq s f b c tr) tr op o i pl

/-- An atomic (09 R238 to R241): with SQ it takes a ticket of the SC sequencer (10 R265). -/
def atomOp (s : State) (f : FmtA) (b c : Bool) (tr : Travel) (op : Nat → Nat → Nat → Nat × Flags) :
    Host.Outcome State Fault Refusal :=
  runAccess s (atomReq s f b c tr) none (atomLanes s f b c tr op)

/-- An integer operation at memory. -/
def atomInt (ty : Ty) (op : Int → Int → Int) (v b _c : Nat) : Nat × Flags :=
  (Alu.wrap ty.width (op (Alu.value ty v) (Alu.value ty b)), 0)

/-- `aadd`: (v + b) mod 2^w (09 R239). -/
def execAadd (f : FmtA) (s : State) : Host.Outcome State Fault Refusal :=
  atomOp s f true false (.op .fetchAdd) (atomInt f.ty (· + ·))

/-- `amin` (09 R239). -/
def execAmin (f : FmtA) (s : State) : Host.Outcome State Fault Refusal :=
  atomOp s f true false (.message 0x81) (atomInt f.ty min)

/-- `amax` (09 R239). -/
def execAmax (f : FmtA) (s : State) : Host.Outcome State Fault Refusal :=
  atomOp s f true false (.message 0x82) (atomInt f.ty max)

/-- `aand` (09 R239). -/
def execAand (f : FmtA) (s : State) : Host.Outcome State Fault Refusal :=
  atomOp s f true false (.message 0x83) fun v b _ => (Nat.land v b, 0)

/-- `aor` (09 R239). -/
def execAor (f : FmtA) (s : State) : Host.Outcome State Fault Refusal :=
  atomOp s f true false (.message 0x84) fun v b _ => (Nat.lor v b, 0)

/-- `axor` (09 R239). -/
def execAxor (f : FmtA) (s : State) : Host.Outcome State Fault Refusal :=
  atomOp s f true false (.message 0x85) fun v b _ => (Nat.xor v b, 0)

/-- The way of `axchg` and `acas`: an AtomicOp of 32 or 64 bits, a message for l16 (09 R244). -/
def travelOf (ty : Ty) (o : PeerOp) (opc : Nat) : Travel := if ty = .l16 then .message opc else .op o

/-- `axchg`: b (09 R239). -/
def execAxchg (f : FmtA) (s : State) : Host.Outcome State Fault Refusal :=
  atomOp s f true false (travelOf f.ty .swap 0x86) fun _ b _ => (b, 0)

/-- `acas`: b when v = c bit for bit (09 R239). -/
def execAcas (f : FmtA) (s : State) : Host.Outcome State Fault Refusal :=
  atomOp s f true true (travelOf f.ty .cas 0x87) fun v b c => (if v = c then b else v, 0)

/-- `adecp`: v − 1 when v is positive (09 R239). -/
def execAdecp (f : FmtA) (s : State) : Host.Outcome State Fault Refusal :=
  atomOp s f false false (.message 0x88) fun v _ _ => (if 0 < Alu.value f.ty v then v - 1 else v, 0)

/-- `afmax` of codes (09 R239). -/
def afmaxOf (ty : Ty) (mag : Bool) (v b : Nat) : Nat :=
  let t := Log.fmtOf ty
  let r := Log.minMax true mag (Log.decode t v) (Log.decode t b)
  Log.encode t (if mag then Log.withSign false r else r)

/-- `afmax`: `lmax`, or the magnitude under `.mag` (09 R239). -/
def execAfmax (f : FmtA) (s : State) : Host.Outcome State Fault Refusal :=
  atomOp s f true false (.message 0x89) fun v b _ => (afmaxOf f.ty (f.c == 1) v b, 0)

/-- `ladda` of codes, with its flags (09 R239). -/
def laddaOf (ty : Ty) (sat : Bool) (v b : Nat) : Nat × Flags :=
  let t := Log.fmtOf ty
  let r := Log.gla t (if sat then 2 else 0) (Log.decode t v) (Log.decode t b)
  (Log.encode t r.1, r.2)

/-- `ladda`: Gaussian logarithm addition; its flags go to MASTAT (09 R239, R243). -/
def execLadda (f : FmtA) (s : State) : Host.Outcome State Fault Refusal :=
  atomOp s f true false (.message 0x8A) fun v b _ => laddaOf f.ty (f.c == 1) v b

/-- An AtomicOp that the host refused: PROT when the return arrives, or a fault record with `.nr`
(09 R244). -/
def refuseAtomic (s : State) (g : Nat) (p : Pend) : State :=
  match p.fail with
  | none => s
  | some (rs, pc, hdr) =>
    if p.kind = .atomic then
      trapAt (unlinkGroup s g) g 0x06 ((rs.map Prod.fst).headD 0) (rs.foldl (fun m r => m ||| r.2) 0) pc hdr
    else eachDo rs s fun s r =>
      faultRecord s (s.ctxOf g) { kind := 6, code := 0x06, addr := r.1, core := g / 32, slot := slotNum s g,
                                  notice := some g, launch := some (s.teamOf g).launch }

/-- Deliver one piece of outstanding work of a kind and number; a fence may have waited for it (10 R270). -/
def deliverNo (s : State) (g n : Nat) (ks : List PKind) : State :=
  match (s.grp g).pend.find? fun p => p.seq == n && p.ready && ks.contains p.kind with
  | some p => settleFences (refuseAtomic (deliver s g p) g p) g
  | none => s

/-- The return of an atomic, or of a sync instruction, writes its registers (09 R239, 12 R324). -/
def execAtomicReturn (core slot n : Nat) (s : State) : Host.Outcome State Fault Refusal :=
  done (deliverNo s (core * 32 + slot) n [.atomic, .sync, .cpf])

/-- A load's data arrive (08 R213). -/
def execLoadDataReturn (core slot n : Nat) (s : State) : Host.Outcome State Fault Refusal :=
  done (deliverNo s (core * 32 + slot) n [.load])

/-- A store is acknowledged at its scope (08 R213). -/
def execStoreAck (core slot n : Nat) (s : State) : Host.Outcome State Fault Refusal :=
  done (deliverNo s (core * 32 + slot) n [.store])

/-- An instruction that popped a queue gets its data (03 R75). -/
def execQueuePopDelivery (core slot n : Nat) (s : State) : Host.Outcome State Fault Refusal :=
  done (deliverNo s (core * 32 + slot) n [.pop])

end Sys2Proof.Machine
end

