-- ==== Sys2Proof/Machine/Control.lean ====
section
/-! DEFINITION. Control flow, the control stack, regrouping, traps and preemption points
(03 R84 to R92, 13 R357, R359, 15 R400). -/

namespace Sys2Proof.Machine

open State

/-- Target of a branch: h + 8 × OFF (02 R46). DESIGN CHOICE (log entry 58): an address below 0, or at or beyond 2^57, wraps
modulo 2^57, as that of `jmpi` does. -/
def branchTarget (x : Group) (off : Int) : Nat := (((x.hdr : Int) + 8 * off) % (2 ^ 57 : Nat)).toNat

/-- Finish a control instruction that goes on in its clause. -/
def controlNext (s : State) (g : Nat) : Host.Outcome State Fault Refusal := .next (finish s g 1 0 1 1 1 0 [])

/-- What a transfer to an address that only the fetch can judge keeps of the group, with the lanes its trap would name
and the scalar a `loop` changes (02 R58). -/
def cameFrom (s : State) (g target : Nat) (lanes : Mask) (sreg : Option (Nat × DWord)) : Option Came :=
  let x := s.grp g
  let w : Came := { pc := x.pc, hdr := x.hdr, em := x.em, live := x.live, stack := x.stack, lanes := lanes, sreg := sreg,
                    window := x.window, pend := x.pend.filter (·.k) }
  match codeAt s g target with
  | .header _ => none
  | .other => none
  | .absent => some w
  | .outside => some w
  | .barred => none

/-- Move to a clause, or ILLEGAL_TARGET when the word there is no header (02 R58). `upd` is what the
instruction changes when control passes. -/
def goTo (s : State) (g target : Nat) (lanes : Mask) (upd : Group → Group) : Host.Outcome State Fault Refusal :=
  let came := cameFrom s g target lanes none
  if headerAt s g target then
    .next ((finishJump (s.modGrp g upd) g target).modGrp g fun x => { x with came := came })
  else done (trap s g 0x02 target lanes)

/-- Put an entry on a control stack. -/
def pushEntry (e : StackEntry) (x : Group) : Group := { x with stack := e :: x.stack }

/-- Is an address the header of a join clause (02 R46)? -/
def joinAt (s : State) (g a : Nat) : Bool :=
  match codeAt s g a with
  | .header h => (headerOf h).jn
  | _ => false

/-- What the fetch of an address that a `brx` checks comes to: a header that it needs passes, the rest raises the fault
of the fetch or ILLEGAL_TARGET (02 R46, R58, 13 R344; log entry 46). -/
def checkFetched (s : State) (g a : Nat) (t : Mask) (need : Header → Bool) (x : FetchX) : State × Bool :=
  match x with
  | .ok w => if isHeader w && need (headerOf w) then (s, s.noMem.isNone) else (trap s g 0x02 a t, false)
  | .malformed => (trap (malformedRecord s g a 1) g 0x06 a t, false)
  | .ecc => (trap s g 0x0E a t, false)
  | .prot => (trap s g 0x06 a t, false)
  | .absent => (s, false)

/-- The page of a clause that a `brx` checks is faulted in, with the `brx` as what replays (13 R345). -/
def checkPark (s : State) (g a : Nat) : State :=
  let em := (s.grp g).em
  let s := parkPages (charge (occupy s g 0 1 1) g 1) g em ((lanesOf em 64).map fun i => (i, a)) [a] 1
  s.modGrp g fun x => { x with park := x.park.map fun r => { r with fetch := true } }

/-- The check of an address by a `brx`, before anything is pushed: the state after it, and whether it passed (02 R46).
Code outside the device is read by a fetch. -/
def clauseCheck (s : State) (g a : Nat) (t : Mask) (need : Header → Bool) : State × Bool :=
  match codeAt s g a with
  | .header h => if need (headerOf h) then (s, true) else (trap s g 0x02 a t, false)
  | .other => (trap s g 0x02 a t, false)
  | .absent => (checkPark s g a, false)
  | .outside => let r := fetchAt s g a; checkFetched r.1 g a t need r.2
  | .barred => let r := fetchAt s g a; checkFetched r.1 g a t need r.2

/-- The check of a join address: a clause with JN = 1 (02 R46). -/
def joinCheck (s : State) (g a : Nat) (t : Mask) : State × Bool := clauseCheck s g a t (·.jn)

/-- The check of the target of a regroup branch that is taken: its groups start there when the batch forms, where no
transfer can be taken back, so the word is read first (02 R58; log entry 46). -/
def targetCheck (s : State) (g a : Nat) (t : Mask) : State × Bool :=
  if t = 0 then (s, true) else clauseCheck s g a t fun _ => true

/-- `nop` (03 R85). -/
def execNop (_f : FmtY) (s : State) : Host.Outcome State Fault Refusal := controlNext s s.cur

/-- The lowest lane of a mask. -/
def lowestLane (m : Mask) : Option Nat := (lanesOf m 64).head?

/-- `bra`: the lowest live lane decides for the group (03 R86). -/
def execBra (f : FmtB) (s : State) : Host.Outcome State Fault Refusal :=
  let g := s.cur
  let x := s.g
  let t := activeMask x f.ps f.pn
  if (lowestLane x.live).any fun j => t.getLsbD j then goTo s g (branchTarget x f.off.toInt) t id
  else controlNext s g

/-- `brx`: taken lanes first, the others pending (03 R87). -/
def execBrx (f : FmtB) (s : State) : Host.Outcome State Fault Refusal :=
  let g := s.cur
  let x := s.g
  let t := activeMask x f.ps f.pn
  let off := x.em &&& ~~~t
  let target := branchTarget x f.off.toInt
  let join := branchTarget x f.join.toNat
  let j := joinCheck s g join t
  let s := j.1
  if !j.2 then done s
  else if Config.stackDepth ≤ x.stack.length then done (trap s g 0x02 target t)
  else if t ≠ 0 then
    goTo s g target t fun x => { pushEntry (.diverge join x.em off (fallOf x)) x with em := t }
  else
    .next (finishJump (s.modGrp g fun x => { pushEntry (.diverge join x.em 0 (fallOf x)) x with em := off })
      g (fallOf x))

/-- Everything a group still has in flight of fixed latency retires. -/
def retireAll (x : Group) : Group :=
  { x with lstat := x.inflight.foldl (fun a f => a ||| f.2) x.lstat,
           retc := x.retc + BitVec.ofNat 64 x.inflight.length, inflight := [] }

/-- The same, and its results can be read at once. -/
def settleFlight (x : Group) : Group := { retireAll x with lat := [], issueAt := 0, tail := none }

/-- A regroup ends the clause: K results are discarded and never reach the bank (04 R103). -/
def discardK (s : State) (g : Nat) : State :=
  s.modGrp g fun x => { x with window := [], reuse := none, pend := x.pend.map dropK }

/-- Is a group parked for a cause, with no wake yet? -/
def parkedOn (x : Group) (c : Cause) : Bool :=
  match x.park with
  | some r => r.cause == c && !r.woken
  | none => false

/-- `brx.regroup`: the group parks at the rendezvous with a target for each live thread (03 R92, 01 R24). -/
def execBrxRegroup (f : FmtB) (s : State) : Host.Outcome State Fault Refusal :=
  let g := s.cur
  let x := s.g
  let t := activeMask x f.ps f.pn
  let target := branchTarget x f.off.toInt
  let join := branchTarget x f.join.toNat
  let j := joinCheck s g join t
  let s := j.1
  if !j.2 then done s
  else if x.em ≠ x.live ∨ !x.stack.isEmpty then done (trap s g 0x02 target t)
  else
  let j := targetCheck s g target t
  let s := j.1
  if !j.2 then done s
  else if x.pend.any (fun p => isResult p.kind) || !releaseReady x 1 2 then .next (hold (endChain s g) g)
  else
    let s := releaseHalf (charge (occupy (discardK s g) g 0 1 1) g 1) g 1 2
    let goal := (lanesOf x.live 64).map fun i => (i, if t.getLsbD i then target else fallOf x)
    let s := s.modGrp g fun x => { settleFlight x with target := goal, seq := x.seq + 1 }
    let s := s.modTeam x.team fun y => { y with rgJoin := join }
    .next ((park s g { cause := .regroup, mask := t, pc := x.pc, lead := target }).post
      (.regroupRendezvous x.team))

/-- Wake a group that goes on at its pc: through the furrow when it is resident (01 R20). -/
def wakeAt (s : State) (g : Nat) (c : Cause) : State :=
  let s := s.modGrp g fun x => { x with st := .parked, park := some { cause := c, mask := x.em, pc := x.pc } }
  wakeGroup s g

/-- The targets of one batch: whole targets in rising order while their groups fit (03 R92, step 4). -/
def batchTargets (slots : Nat) (need : Nat → Nat) : List Nat → Nat → List Nat
  | [], _ => []
  | t :: r, used =>
    if used = 0 ∨ used + need t ≤ slots then t :: batchTargets slots need r (used + need t) else []

/-- The threads of one target at one lane, in rising origin order. -/
def threadsAt (ts : List (Nat × Nat × Nat)) (t i : Nat) : List Nat :=
  (ts.filter fun h => h.1 == t && h.2.2 == i).map fun h => h.2.1

/-- Groups a target needs (03 R92, step 3). -/
def groupsNeeded (ts : List (Nat × Nat × Nat)) (t : Nat) : Nat :=
  (List.range 64).foldl (fun a i => max a (threadsAt ts t i).length) 0

/-- Put the registers and predicate bits of threads into a group's lanes (03 R92, step 7). -/
def loadThreads (s : State) (t : Team) (g : Nat) (m : Tab Nat) : State :=
  let n := (s.grp g).nregs
  let s := eachDo m s fun s e => eachDo (List.range n) s fun s r =>
    bankWrite s g r e.1 (tget t.rgRegs 0 ((e.2 * 256 + r) * 64 + e.1))
  let mask (k : Nat) : Mask := maskOf ((m.filter fun e => (tget t.rgPreds 0 (e.2 * 64 + e.1)).getLsbD k).map Prod.fst)
  s.modGrp g fun x => { x with preds := (List.range 8).map fun k => (k, mask k), window := [], reuse := none }

/-- Take the registers and predicate bits of a group's lanes, kept under their origins. -/
def storeThreads (s : State) (t : Team) (g : Nat) (m : Tab Nat) : Team :=
  let x := s.grp g
  let t := eachDo m t fun t e => eachDo (List.range x.nregs) t fun t r =>
    { t with rgRegs := tset t.rgRegs ((e.2 * 256 + r) * 64 + e.1) (readV s g [] r e.1) }
  let bits (i : Nat) : BitVec 8 :=
    (List.range 8).foldl (fun a k => if (predOf x k).getLsbD i then a ||| BitVec.ofNat 8 (2 ^ k) else a) 0
  eachDo m t fun t e => { t with rgPreds := tset t.rgPreds (e.2 * 64 + e.1) (bits e.1) }

/-- The group of a new batch in one slot: the scalar state of the origin of its lowest thread (03 R92, step 6). -/
def newGroup (t : Team) (m : Tab Nat) (target : Nat) (x : Group) : Group :=
  let o := match m with
    | e :: _ => (tget t.rgOrigins x e.2)
    | [] => x
  let mask := maskOf (m.map Prod.fst)
  { x with live := mask, em := mask, pc := target, hdr := 0, clause := [], stack := [.regroup t.rgJoin],
           retc := t.rgMaxRetc, sregs := o.sregs, tregs := o.tregs, trap := o.trap, lstat := o.lstat,
           mxst := o.mxst, cqst := o.cqst, target := [], origin := m, running := false, exiting := false,
           redo := none, replay := false }

/-- Form the next batch of a team's regroup (03 R92, steps 4 to 7). -/
def formBatch (s : State) (tm : Nat) : State :=
  let t := s.team tm
  let slots := t.rgOrigins.map Prod.fst
  let all := sortBy (· ≤ ·) (t.rgThreads.map Prod.fst).eraseDups
  let picked := batchTargets slots.length (groupsNeeded t.rgThreads) all 0
  let jobs : List (Nat × Nat) := picked.flatMap fun a => (List.range (groupsNeeded t.rgThreads a)).map fun k => (a, k)
  let put (s : State) (j : (Nat × Nat) × Nat) : State :=
    let g := slots.getD j.2 0
    let m : Tab Nat := (List.range 64).filterMap fun i =>
      ((threadsAt t.rgThreads j.1.1 i)[j.1.2]?).map fun o => (i, o)
    let s := s.modGrp g (newGroup t m j.1.1)
    wakeAt (acquireHalf (loadThreads s t g m) g 1 2) g .regroup
  let s := eachDo (jobs.zip (List.range jobs.length)) s put
  s.modTeam tm fun t => { t with rgThreads := t.rgThreads.filter fun h => !picked.contains h.1 }

/-- The rendezvous of a team: complete when every group that has not exited has arrived (01 R24, 03 R92). -/
def execRegroupRendezvous (team : Nat) (s : State) : Host.Outcome State Fault Refusal :=
  let t := s.team team
  let live := membersOf s team
  let here := live.filter fun g => parkedOn (s.grp g) .regroup && (s.grp g).st == .parked
  if t.st ≠ .resident ∨ !t.rgOrigins.isEmpty ∨ here.isEmpty ∨ here.length < live.length then .next s
  else
    let pc0 := (s.grp (here.headD 0)).pc
    if here.any fun g => (s.grp g).pc != pc0 then
      -- a trap that ends the launch frees the groups that have not trapped yet
      done (eachDo here s fun s g =>
        match (s.grp g).park with
        | some r => if r.cause = .regroup ∧ (s.grp g).team = team then trap s g 0x02 r.lead r.mask else s
        | none => s)
    else
      let ths := here.flatMap fun g => (s.grp g).target.map fun e => (e.2, g, e.1)
      let top := here.foldl (fun a g => if a.toNat < (s.grp g).retc.toNat then (s.grp g).retc else a) 0
      let s := s.modTeam team fun t => { t with
        rgThreads := ths, rgOrigins := here.map fun g => (g, s.grp g), rgMaxRetc := top, rgTopRetc := 0,
        rgRegs := [], rgPreds := [], rgFlags := here.map (fun g => (g, 0, 0, [])), rgSurv := [] }
      let s := eachDo here s fun s g =>
        let t := storeThreads s (s.team team) g ((s.grp g).target.map fun e => (e.1, g))
        (s.setTeam team t).modGrp g fun x => { x with target := [], origin := [] }
      .next (formBatch s team)

/-- OR two CQST tables. -/
def orTabs (a b : Tab (BitVec 7)) : Tab (BitVec 7) :=
  (List.range 4).map fun q => (q, tget a 0 q ||| tget b 0 q)

/-- A group of a batch has arrived at the rejoin or exited: what its threads bring back (03 R92). -/
def gather (s : State) (tm g : Nat) : State :=
  let x := s.grp g
  let alive := x.origin.filter fun e => x.live.getLsbD e.1
  let t := storeThreads s (s.team tm) g alive
  let os := x.origin.map Prod.snd
  let t := { t with
    rgTopRetc := if t.rgTopRetc.toNat < x.retc.toNat then x.retc else t.rgTopRetc
    rgFlags := t.rgFlags.map fun f =>
      if os.contains f.1 then (f.1, f.2.1 ||| x.lstat, f.2.2.1 ||| x.mxst, orTabs f.2.2.2 x.cqst) else f
    rgSurv := eachDo alive t.rgSurv fun v e => tset v e.2 (tget v 0 e.2 ||| laneBit e.1) }
  (s.setTeam tm t).modGrp g fun x => { x with origin := [] }

/-- An origin group resumes at slot 1 of the join clause with its surviving threads, or exits without any
(03 R92). -/
def resumeOrigin (tm : Nat) (s : State) (e : Nat × Group) : State :=
  let g := e.1
  let t := s.team tm
  let f := match t.rgFlags.find? fun f => f.1 == g with | some f => f.2 | none => (0, 0, [])
  let live := tget t.rgSurv 0 g
  let o := e.2
  let s := s.modGrp g fun x => { x with
    live := live, em := live, stack := [], sregs := o.sregs, tregs := o.tregs, trap := o.trap,
    lstat := o.lstat ||| f.1, mxst := o.mxst ||| f.2.1, cqst := orTabs o.cqst f.2.2, retc := t.rgTopRetc,
    pc := (t.rgJoin + 16) % 2 ^ 57, hdr := t.rgJoin, clause := [], exiting := live == 0 }
  let s := loadThreads s t g ((lanesOf live 64).map fun i => (i, g))
  if live = 0 then (s.modGrp g fun x => { x with st := .held, park := none }).post (.groupExit (g / 32) (g % 32))
  else wakeAt (acquireHalf s g 1 2) g .rejoin

/-- The rejoin: when every group of the batch has arrived or exited, the next batch is formed, or the
threads return to their origins (03 R92). -/
def execRegroupRejoin (team : Nat) (s : State) : Host.Outcome State Fault Refusal :=
  let t := s.team team
  let batch := (teamGroups t).filter fun g => !(s.grp g).origin.isEmpty
  let ready (g : Nat) : Bool := (s.grp g).st == .exited || ((s.grp g).st == .parked && parkedOn (s.grp g) .rejoin)
  if t.st ≠ .resident ∨ t.rgOrigins.isEmpty ∨ !(batch.all ready) then .next s
  else
    let s := eachDo batch s fun s g => gather s team g
    if (s.team team).rgThreads.isEmpty then
      let s := eachDo (s.team team).rgOrigins s (resumeOrigin team)
      .next (s.modTeam team fun t => { t with
        rgOrigins := [], rgRegs := [], rgPreds := [], rgFlags := [], rgSurv := [] })
    else .next (formBatch s team)

/-- A group reaches the rejoin of its batch and parks there (03 R92); an `exit` that brings it there has completed, a
`join` has not (03 R81). -/
def reachRejoin (s : State) (g : Nat) (completed : Bool) : Host.Outcome State Fault Refusal :=
  let x := s.grp g
  if x.pend.any (fun p => isResult p.kind) || !releaseReady x 1 2 then .next (hold (endChain s g) g)
  else
    let s := releaseHalf (charge (occupy (discardK s g) g 0 1 1) g 1) g 1 2
    let s := if completed then retireNow s g else s
    let s := s.modGrp g fun x => { settleFlight x with seq := x.seq + 1 }
    .next ((park s g { cause := .rejoin, mask := x.em, pc := x.pc }).post (.regroupRejoin x.team))

/-- Continue at slot 1 of a join clause that is not the one in progress (03 R91). As if its `join` had been reached: the
clause's WAIT conditions are not looked at again (log entry 54). -/
def atSlotOne (s : State) (g join : Nat) : State :=
  let x := s.grp g
  atMarker ((endClause s g join).modGrp g fun x =>
    { x with hdr := join, pc := (join + 16) % 2 ^ 57, st := .eligible, redo := none, replay := false }) g x

/-- `join` (03 R88). A word at the fall address that is no header raises ILLEGAL_TARGET at the `join` (13 R354; log entry
54). -/
def execJoin (_f : FmtY) (s : State) : Host.Outcome State Fault Refusal :=
  let g := s.cur
  let x := s.g
  match x.stack with
  | .diverge j saved pending fall :: rest =>
    if j ≠ x.hdr then controlNext s g
    else if pending ≠ 0 then
      goTo s g fall x.em fun x => { x with em := pending, stack := .diverge j saved 0 fall :: rest }
    else controlNext (s.modGrp g fun x => { x with em := saved &&& x.live, stack := rest }) g
  | .regroup j :: _ => if j ≠ x.hdr then controlNext s g else reachRejoin s g false
  | .ret _ _ :: _ => controlNext s g
  | [] => controlNext s g

/-- `call` (03 R89). -/
def execCall (f : FmtB) (s : State) : Host.Outcome State Fault Refusal :=
  let g := s.cur
  let x := s.g
  let t := activeMask x f.ps f.pn
  let target := branchTarget x f.off.toInt
  if t = 0 then controlNext s g
  else if Config.stackDepth ≤ x.stack.length then done (trap s g 0x02 target t)
  else goTo s g target t fun x => { pushEntry (.ret (fallOf x) x.em) x with em := t }

/-- Pop a return entry, or ILLEGAL_TARGET with TADDR = 0 (03 R89). -/
def returnOf (s : State) (g : Nat) : Host.Outcome State Fault Refusal :=
  let x := s.grp g
  match x.stack with
  | .ret a saved :: rest => goTo s g a x.em fun x => { x with em := saved &&& x.live, stack := rest }
  | .diverge _ _ _ _ :: _ => done (trap s g 0x02 0 x.em)
  | .regroup _ :: _ => done (trap s g 0x02 0 x.em)
  | [] => done (trap s g 0x02 0 x.em)

/-- `ret` (03 R89). -/
def execRet (_f : FmtY) (s : State) : Host.Outcome State Fault Refusal := returnOf s s.cur

/-- `jmpi`: the whole group, to (SA + 8 × IMM30) mod 2^57 (03 R90). -/
def execJmpi (f : FmtS) (s : State) : Host.Outcome State Fault Refusal :=
  let g := s.cur
  let a := ((((readS s g f.sa.toNat).toNat : Int) + 8 * f.imm.toInt) % (2 ^ 57 : Nat)).toNat
  goTo s g a s.g.em id

/-- `loop`: count down and branch while positive (03 R90). -/
def execLoop (f : FmtS) (s : State) : Host.Outcome State Fault Refusal :=
  let g := s.cur
  let x := readS s g f.sa.toNat - 1
  let target := branchTarget s.g f.imm.toInt
  let s' := writeS s g f.sd.toNat x
  if 0 < x.toInt then
    let came := cameFrom s g target s.g.em (some (f.sd.toNat, readS s g f.sd.toNat))
    if headerAt s g target then
      .next ((finishJump (setLat s' g 1 [.s f.sd.toNat]) g target).modGrp g fun x => { x with came := came })
    else done (trap s g 0x02 target s.g.em)
  else .next (finish s' g 1 0 1 1 1 0 [.s f.sd.toNat])

/-- Take lanes out of the masks of a stack entry (03 R91). -/
def dropLanes (t : Mask) : StackEntry → StackEntry
  | .diverge j saved pending fall => .diverge j (saved &&& ~~~t) (pending &&& ~~~t) fall
  | .ret a saved => .ret a (saved &&& ~~~t)
  | .regroup j => .regroup j

/-- The group ends its program: it exits once its loads, stores, matrix results, atomics and pops have
completed (03 R91, 01 R20). What it has in flight retires with its `exit`, while the slot still holds its RETC
(03 R81). -/
def beginExit (s : State) (g : Nat) : State :=
  let s := charge (occupy (retireFixed s g 1 0) g 0 1 1) g 1
  let s := (endClause s g (s.grp g).pc).modGrp g fun x =>
    { retireAll x with exiting := true, st := .held, seq := x.seq + 1, redo := none, replay := false }
  let x := s.grp g
  if x.pend.any fun p => isResult p.kind || p.kind == .store then s
  else s.post (.groupExit (g / 32) (g % 32))

/-- `exit` (03 R91). One that resolves an entry at whose address no header stands raises ILLEGAL_TARGET before any lane
has left (02 R58; log entry 54). -/
def execExit (f : FmtY) (s : State) : Host.Outcome State Fault Refusal :=
  let g := s.cur
  let x := s.g
  let t := activeMask x f.ps f.pn
  let live := x.live &&& ~~~t
  let em := x.em &&& ~~~t
  let left (em : Mask) (stack : List StackEntry) (x : Group) : Group := { x with live := live, em := em, stack := stack }
  let s1 := s.modGrp g (left em (x.stack.map (dropLanes t)))
  if live = 0 then .next (beginExit s1 g)
  else if em ≠ 0 then controlNext s1 g
  else match x.stack.map (dropLanes t) with
    | [] => controlNext s1 g
    | .diverge j saved pending fall :: rest =>
      if pending ≠ 0 then goTo s g fall t (left pending (.diverge j saved 0 fall :: rest))
      else
        let s2 := s1.modGrp g fun x => { x with em := saved &&& live, stack := rest, seq := x.seq + 1 }
        .next (atSlotOne (charge (occupy (retireFixed s2 g 1 0) g 0 1 1) g 1) g j)
    | .ret a saved :: rest => goTo s g a t (left (saved &&& live) rest)
    | .regroup _ :: _ => reachRejoin s1 g true

/-- `yield`: stand aside until every other ready group has been selected, or 32 selections (03 R91). -/
def execYield (_f : FmtY) (s : State) : Host.Outcome State Fault Refusal :=
  let g := s.cur
  controlNext (s.modGrp g fun x => { x with yielded := some (32, []) }) g

/-- `emov.get` (03 R91). -/
def execEmovGet (f : FmtY) (s : State) : Host.Outcome State Fault Refusal :=
  let g := s.cur
  .next (finish (writeS s g f.s.toNat (s.g.em &&& lowMask s.g.gw)) g 1 0 1 1 1 0 [.s f.s.toNat])

/-- `emov.set`: em := sA AND LIVE (03 R91). -/
def execEmovSet (f : FmtY) (s : State) : Host.Outcome State Fault Refusal :=
  let g := s.cur
  controlNext (s.modGrp g fun x => { x with em := readS s g f.s.toNat &&& x.live }) g

/-- `emov.pred`: em := ActiveMask (03 R91). -/
def execEmovPred (f : FmtY) (s : State) : Host.Outcome State Fault Refusal :=
  let g := s.cur
  controlNext (s.modGrp g fun x => { x with em := activeMask x f.ps f.pn }) g

/-- `emov.live` (03 R91). -/
def execEmovLive (f : FmtY) (s : State) : Host.Outcome State Fault Refusal :=
  let g := s.cur
  .next (finish (writeS s g f.s.toNat s.g.live) g 1 0 1 1 1 0 [.s f.s.toNat])

/-- `trap` and `brk`: raise a code with IMM13, unless no lane is active (13 R359). -/
def trapInstr (s : State) (f : FmtY) (code : Nat) : Host.Outcome State Fault Refusal :=
  let g := s.cur
  let t := activeMask s.g f.ps f.pn
  if t = 0 then controlNext s g else done (Machine.trap s g code f.imm.toNat t)

/-- `trap`: USER (13 R359). -/
def execTrap (f : FmtY) (s : State) : Host.Outcome State Fault Refusal := trapInstr s f 0x0F

/-- `brk`: BREAK (13 R359). -/
def execBrk (f : FmtY) (s : State) : Host.Outcome State Fault Refusal := trapInstr s f 0x10

/-- `tret`: PRIV in program mode, the end of the launch after ECC_UNCORR, else the return from the trap
(13 R357, R361). -/
def execTret (_f : FmtY) (s : State) : Host.Outcome State Fault Refusal :=
  let g := s.cur
  let x := s.g
  if !x.trap.hmode then done (Machine.trap s g 0x03 0 x.em)
  else if x.trap.tcause = 0x0E then done (abortLaunch s (s.teamOf g).launch 0x0E (g / 32) (slotNum s g))
  else
    let s := charge (occupy (retireFixed s g 1 0) g 0 1 1) g 1
    done (tretAt (s.modGrp g fun x => { x with seq := x.seq + 1 }) g)

/-- `mpt`: a pre-emption point when a pre-emption or migration of the group is pending (15 R400). -/
def execMpt (_f : FmtY) (s : State) : Host.Outcome State Fault Refusal :=
  let g := s.cur
  let stop := s.g.stopReq
  let s := finish s g 1 0 1 1 1 0 []
  if stop && !(s.grp g).clause.isEmpty then
    .next (stopMid s g)
  else .next s

end Sys2Proof.Machine
end

