-- ==== Sys2Proof/Machine/Convert.lean ====
section
/-! DEFINITION. The conversion stage: exact values of every memory-side encoding, the rounding into
each, and block-log elements (05 R125 to R129, R140 to R143, 11 R294, R298). -/

namespace Sys2Proof.Machine.Cv

/-- An exact value: m × 2^(t × 2^−22) with its sign, or a special value. -/
inductive XV where
  | nan
  | inf (s : Bool)
  | zero (s : Bool)
  | val (s : Bool) (m : Nat) (t : Int)
  deriving DecidableEq, Repr

/-- A binary floating-point format: significand bits, exponent bits, least normal exponent (05 R140). -/
structure Ieee where
  p : Nat
  eb : Nat
  emin : Int
  /-- E4M3: no infinity, 448 is the maximum. -/
  noInf : Bool
  deriving DecidableEq, Repr

/-- The IEEE formats of 11 R294. -/
def ieeeOf (enc : Nat) : Option Ieee :=
  match enc with
  | 10 => some ⟨24, 8, -126, false⟩
  | 11 => some ⟨8, 8, -126, false⟩
  | 12 => some ⟨11, 5, -14, false⟩
  | 13 => some ⟨4, 4, -6, true⟩
  | 14 => some ⟨3, 5, -14, false⟩
  | _ => none

/-- The log formats of 11 R294. -/
def logOf (enc : Nat) : Option LFmt :=
  match enc with
  | 1 => some .l8 | 2 => some .l16 | 3 => some .l32 | _ => none

/-- Bits of an integer encoding. -/
def intOf (enc : Nat) : Option Nat :=
  match enc with
  | 15 => some 8 | 16 => some 32 | _ => none

/-- Is a block-log encoding: BL4 or BL8, stored elements of a sparse block. -/
def isBlock (enc : Nat) : Bool := 4 ≤ enc && enc ≤ 9
def isBl8 (enc : Nat) : Bool := enc == 4 || enc == 6 || enc == 7
def sparseN (enc : Nat) : Nat := match enc with | 6 => 8 | 7 => 16 | 8 => 8 | 9 => 16 | _ => 0

/-- Bytes of a block (05 R126, R129). -/
def blockSize (enc : Nat) : Nat :=
  match enc with | 4 => 36 | 5 => 20 | 6 => 16 | 7 => 24 | 8 => 12 | _ => 16

/-- Is an encoding elementwise: log, IEEE or integer (11 R279)? -/
def elementwise (enc : Nat) : Bool := (1 ≤ enc && enc ≤ 3) || (10 ≤ enc && enc ≤ 16)

/-- Bytes of an element (11 R277); raw takes the size it is given. -/
def elemSize (enc raw : Nat) : Nat :=
  match enc with
  | 0 => raw
  | 1 => 1 | 13 => 1 | 14 => 1 | 15 => 1
  | 2 => 2 | 11 => 2 | 12 => 2
  | _ => 4

/-- The value of a log value in a format. -/
def ofLV (t : LFmt) : LV → XV
  | .nan => .nan
  | .inf s => .inf s
  | .zero s => .zero s
  | .fin s l => .val s 1 (l * (2 ^ (22 - t.f) : Nat))

/-- The value of an IEEE code (05 R140). -/
def ofIeee (f : Ieee) (c : Nat) : XV :=
  let s := c / 2 ^ (f.p - 1 + f.eb) % 2 == 1
  let e := c / 2 ^ (f.p - 1) % 2 ^ f.eb
  let m := c % 2 ^ (f.p - 1)
  let qmin := f.emin - (f.p - 1 : Nat)
  if e = 2 ^ f.eb - 1 ∧ (!f.noInf ∨ m = 2 ^ (f.p - 1) - 1) then
    if !f.noInf && m == 0 then .inf s else .nan
  else if e = 0 then (if m = 0 then .zero s else .val s m (qmin * (2 ^ 22 : Nat)))
  else .val s (2 ^ (f.p - 1) + m) ((qmin + (e : Int) - 1) * (2 ^ 22 : Nat))

/-- The exact value of an element's code. -/
def decode (enc c : Nat) : XV :=
  match logOf enc, ieeeOf enc, intOf enc with
  | some t, _, _ => ofLV t (Log.decode t c)
  | _, some f, _ => ofIeee f c
  | _, _, some w =>
    let n := Alu.signed w c
    if n = 0 then .zero false else .val (decide (n < 0)) n.natAbs 0
  | _, _, _ => .nan

/-- Into a log format (05 R141). -/
def toLog (t : LFmt) (mode : Nat) (rto : Bool) : XV → LV × Flags
  | .nan => (.nan, 0)
  | .inf s => if mode = 0 then (.inf s, 0) else (.fin s t.lmax, flOV)
  | .zero s => (.zero s, 0)
  | .val s m x =>
    let l := Log.log2Fix m x t.f
    Log.pack t mode s (if rto then l.rto else l.rne)

/-- Into an IEEE format, with gradual underflow (05 R141, R142). -/
def toIeee (f : Ieee) (mode : Nat) (rto : Bool) (v : XV) : Nat × Flags :=
  let sg (s : Bool) : Nat := if s then 2 ^ (f.p - 1 + f.eb) else 0
  let top := 2 ^ (f.p - 1 + f.eb)
  let maxBits := if f.noInf then top - 2 else top - 2 ^ (f.p - 1) - 1
  let infBits := if f.noInf then top - 1 else top - 2 ^ (f.p - 1)
  match v with
  | .nan => (if f.noInf then top - 1 else if f.p = 3 then 0x7E else top - 2 ^ (f.p - 2), 0)
  | .inf s => if f.noInf then (sg s + (if mode = 0 then infBits else maxBits), flOV) else (sg s + infBits, 0)
  | .zero s => (sg s, 0)
  | .val s m t =>
    let e := (Log.log2Fix m t 0).h / 2
    let qmin := f.emin - (f.p - 1 : Nat)
    let q := max (e - (f.p - 1 : Nat)) qmin
    let x := Log.exp2Fix m t (-q)
    let bits := (q - qmin).toNat * 2 ^ (f.p - 1) + (if rto then x.rto else x.rne).toNat
    if x.rne = 0 then (sg s + (if mode = 1 then 1 else 0), flUF)
    else if maxBits < bits then (sg s + (if mode = 0 then infBits else maxBits), flOV)
    else (sg s + bits, 0)

/-- Into an integer of w bits (05 R141). -/
def toInteger (w : Nat) (rto : Bool) (v : XV) : Nat × Flags :=
  let hi : Int := (2 ^ (w - 1) : Nat) - 1
  let lo : Int := -(2 ^ (w - 1) : Nat)
  match v with
  | .nan => (0, flNV)
  | .inf s => (Alu.wrap w (if s then lo else hi), flOV)
  | .zero _ => (0, 0)
  | .val s m t =>
    let x := Log.exp2Fix m t 0
    let n := if rto then x.rto else x.rne
    let n := if s then -n else n
    if hi < n then (Alu.wrap w hi, flOV) else if n < lo then (Alu.wrap w lo, flOV) else (Alu.wrap w n, 0)

/-- Write a value in an encoding. -/
def encode (enc mode : Nat) (rto : Bool) (v : XV) : Nat × Flags :=
  match logOf enc, ieeeOf enc, intOf enc with
  | some t, _, _ => let r := toLog t mode rto v; (Log.encode t r.1, r.2)
  | _, some f, _ => toIeee f mode rto v
  | _, _, some w => toInteger w rto v
  | _, _, _ => (0, 0)

/-- value × scale or value / scale, exact; specials follow R150 (11 R298). -/
def scaled (div : Bool) (v : XV) (sc : LV) : XV × Flags :=
  let shape : XV → LV
    | .nan => .nan | .inf s => .inf s | .zero s => .zero s | .val s _ _ => .fin s 0
  let p := if div then Log.div .node 0 (shape v) (match sc with | .fin s _ => .fin s 0 | x => x)
    else Log.product (shape v) (match sc with | .fin s _ => .fin s 0 | x => x)
  match v, sc with
  | .val s m t, .fin r l => (.val (s ^^ r) m (if div then t - l else t + l), 0)
  | _, _ => (match p.1 with
    | .nan => .nan | .inf s => .inf s | .zero s => .zero s | .fin s _ => .val s 1 0, p.2)

/-- One conversion step between elementwise encodings (11 R280): unequal log encodings as `lcvt`, an infinity by the
table of R141, the rest through the exact value, with a scale when one is given (log entry 15). -/
def step (src dst mode : Nat) (rto : Bool) (sc : Option (Bool × LV)) (c : Nat) : Nat × Flags :=
  match logOf src, logOf dst, sc with
  | some a, some b, none =>
    let r := match Log.decode a c with
      | .inf s => if mode = 0 then (LV.inf s, 0) else Log.pack b mode s (b.lmax + 1)
      | v => Log.convert a b rto mode v
    (Log.encode b r.1, r.2)
  | _, _, none => encode dst mode rto (decode src c)
  | _, _, some (div, l) =>
    let v := scaled div (decode src c) l
    let r := encode dst mode rto v.1
    (r.1, v.2 ||| r.2)

/-! ### Blocks -/

def zeroCode (bl8 : Bool) : Nat := if bl8 then 0xC0 else 0xC
def nanCode (bl8 : Bool) : Nat := if bl8 then 0x80 else 0x8

/-- Occupancy mask of a sparse block. -/
def blockMask (b : Nat) : Nat := b / 2 ^ 32 % 2 ^ 32

/-- A sparse block whose mask does not hold exactly N bits is malformed (05 R129). -/
def malformed (enc b : Nat) : Bool := sparseN enc != 0 && Alu.popc 32 (blockMask b) != sparseN enc

/-- Is element e stored, and the code at its place; the zero code when it is not stored (05 R127, R129). -/
def blockCode (enc b e : Nat) : Nat :=
  let bl8 := isBl8 enc
  let n := sparseN enc
  let at_ (first k : Nat) : Nat :=
    if bl8 then b / 2 ^ (8 * (first + k)) % 256 else b / 2 ^ (8 * first + 4 * k) % 16
  if n = 0 then at_ 4 e
  else if blockMask b / 2 ^ e % 2 = 1 then at_ 8 (Alu.popc e (blockMask b % 2 ^ e))
  else zeroCode bl8

/-- The exact logarithm of an element in units of 2^−9, and its value by the rows of R128. -/
def blockElem (bl8 : Bool) (hdr c : Nat) : LV × Flags :=
  let sc := Log.decode .l16 (hdr % 2 ^ 16)
  let g := if bl8 then 3 else 1
  let mb := if bl8 then 6 else 2
  let s := c / 2 ^ (mb + 1) % 2 == 1
  let sel := c / 2 ^ mb % 2
  let m := c % 2 ^ mb
  let ee := Alu.signed 8 (if sel = 0 then hdr / 2 ^ 24 else hdr / 2 ^ 16)
  if c = nanCode bl8 then (.nan, 0)
  else match sc with
    | .nan => (.nan, 0)
    | .inf r => if c = zeroCode bl8 then (.nan, flNV) else (.inf (s ^^ r), 0)
    | .zero r => if c = zeroCode bl8 then (.zero false, 0) else (.zero (s ^^ r), 0)
    | .fin r l =>
      if c = zeroCode bl8 then (.zero false, 0)
      else (.fin (s ^^ r) (ee * 512 + (m * 2 ^ (9 - g) : Nat) + l), 0)

/-- An element of a block as an exact value. -/
def blockValue (bl8 : Bool) (hdr c : Nat) : XV × Flags :=
  let r := blockElem bl8 hdr c
  (match r.1 with
    | .nan => .nan | .inf s => .inf s | .zero s => .zero s
    | .fin s l => .val s 1 (l * (2 ^ 13 : Nat)), r.2)

/-- Logarithm of a value rounded to g fraction bits, for the quantiser (11 R281). -/
def lgRne (g : Nat) : XV → Int
  | .val _ m t => (Log.log2Fix m t g).rne
  | _ => 0

/-- Order of magnitudes of two values: is |a| < |b| (11 R281, R282)? -/
def magLt (a b : XV) : Bool :=
  match a, b with
  | .val _ m t, .val _ n u =>
    Log.log2Floor (m * 2 ^ Log.prec) 150 + t * (2 ^ 128 : Nat) < Log.log2Floor (n * 2 ^ Log.prec) 150 + u * (2 ^ 128 : Nat)
  | .val _ _ _, .inf _ => true
  | .zero _, .val _ _ _ => true
  | .zero _, .inf _ => true
  | _, _ => false

/-- E0, E1 of a block (11 R281). -/
def blockExps (bl8 : Bool) (ys : List XV) : Int × Int :=
  let g := if bl8 then 3 else 1
  let mx : Int := if bl8 then 63 else 3
  let w : Int := (mx + 1) / (2 ^ g : Nat)
  let fin := ys.filter fun y => match y with | .val _ _ _ => true | _ => false
  let e1 := match fin with
    | [] => 0
    | y :: r =>
      let top := r.foldl (fun a z => max a (lgRne g z)) (lgRne g y)
      let up := (mx - top) / (2 ^ g : Nat)
      0 - up
  let e1 := min (max e1 (-128 + w)) 127
  (e1 - w, e1)

/-- Code of an element of a block, with its flags (11 R281). -/
def blockEncode (bl8 : Bool) (mode : Nat) (e0 e1 : Int) (y : XV) : Nat × Flags :=
  let g := if bl8 then 3 else 1
  let mb := if bl8 then 6 else 2
  let mx : Int := if bl8 then 63 else 3
  let code (s : Bool) (sel : Nat) (m : Int) : Nat :=
    let m := if s && m == 0 then 1 else m
    (if s then 2 ^ (mb + 1) else 0) + sel * 2 ^ mb + m.toNat
  match y with
  | .nan => (nanCode bl8, 0)
  | .zero _ => (zeroCode bl8, 0)
  | .inf s => (code s 1 mx, flOV)
  | .val s _ _ =>
    let q := lgRne g y
    let u := (2 ^ g : Nat)
    if u * e1 + mx < q then (code s 1 mx, flOV)
    else if u * e1 ≤ q then (code s 1 (q - u * e1), 0)
    else if u * e0 ≤ q then (code s 0 (q - u * e0), 0)
    else if mode = 1 then (code s 0 0, flUF) else (zeroCode bl8, flUF)

/-- Rank of an element for a sparse destination: NaN, infinite, finite, zero (11 R281). -/
def rankOf : XV → Nat
  | .nan => 0 | .inf _ => 1 | .val _ _ _ => 2 | .zero _ => 3

/-- Does element a (at a lower place) yield to b? -/
def ranksAfter (a b : XV) : Bool := rankOf b < rankOf a || (rankOf a == 2 && rankOf b == 2 && magLt a b)

/-- The elements a sparse block keeps. -/
def kept (n : Nat) (ys : List (Nat × XV)) : List Nat :=
  let better (p : Nat × XV) : Nat :=
    (ys.filter fun q => if q.1 < p.1 then !ranksAfter q.2 p.2 else ranksAfter p.2 q.2).length
  (ys.filter fun p => better p < n).map Prod.fst

/-- Quantise 32 values into a block's bytes, as a number, with the flags (11 R281). -/
def quantise (enc mode : Nat) (sc : LV) (xs : List XV) : Nat × Flags :=
  let bl8 := isBl8 enc
  -- the scale as a log32 value
  let s32 : LV := match sc with | .fin s l => .fin s (l * (2 ^ 13 : Nat)) | x => x
  -- NaN, infinities and zeros are kept
  let ys := xs.map fun x => match x with
    | .val s m t => (scaled true (.val s m t) s32).1
    | .nan => .nan
    | .inf s => .inf s
    | .zero s => .zero s
  let e := blockExps bl8 ys
  let hdr := Log.encode .l16 sc + Alu.wrap 8 e.2 * 2 ^ 16 + Alu.wrap 8 e.1 * 2 ^ 24
  let n := sparseN enc
  let ix := (List.range 32).zip ys
  let keep := if n = 0 then List.range 32 else kept n ix
  let cs := (ix.filter fun p => keep.contains p.1).map fun p => blockEncode bl8 mode e.1 e.2 p.2
  let fl := cs.foldl (fun a c => a ||| c.2) 0
  let first := if n = 0 then 4 else 8
  let mask := if n = 0 then 0 else keep.foldl (fun a k => a + 2 ^ k) 0 * 2 ^ 32
  let body := ((List.range cs.length).zip cs).foldl (fun a p =>
    a + p.2.1 * 2 ^ (8 * first + (if bl8 then 8 else 4) * p.1)) 0
  (hdr + mask + body, fl)

/-! ### Buffer records -/

/-- A buffer record (11 R293). -/
structure Rec where
  base : Nat
  extent : Nat
  menc : Nat
  rfmt : Nat
  swz : Nat
  scm : Nat
  sat : Nat
  rnd : Nat
  feh : Nat
  cmpr : Bool
  cpol : Nat
  scaddr : Nat
  rstride : Nat
  epr : Nat
  deriving DecidableEq, Repr

def dw (r : List DWord) (k : Nat) : DWord := r.getD k 0

/-- The fields of a record's five doublewords (11 R293). -/
def recOf (r : List DWord) : Rec :=
  { base := fld (dw r 0) 0 57, extent := fld (dw r 1) 0 40, menc := fld (dw r 1) 40 5,
    rfmt := fld (dw r 1) 45 3, swz := fld (dw r 1) 48 4, scm := fld (dw r 1) 52 2, sat := fld (dw r 1) 54 2,
    rnd := fld (dw r 1) 56 2, feh := fld (dw r 1) 58 2, cmpr := fld (dw r 1) 60 1 == 1,
    cpol := fld (dw r 1) 61 3, scaddr := fld (dw r 2) 0 57, rstride := fld (dw r 3) 0 32,
    epr := fld (dw r 3) 32 20 }

/-- Is a record legal (11 R295)? -/
def recLegal (r : List DWord) : Bool :=
  let x := recOf r
  fld (dw r 0) 57 7 == 0 && fld (dw r 2) 57 7 == 0 && fld (dw r 3) 52 12 == 0 && dw r 4 == 0 &&
    x.menc ≤ 16 && x.rfmt ≤ 6 && x.swz ≤ 2 && x.scm ≤ 2 && x.sat ≤ 2 && x.rnd ≤ 1 && x.cpol ≤ 3 &&
    x.base + x.extent ≤ 2 ^ 57

/-- Row of an address and bytes from the row's start (11 R277, R297); no stride means one row. -/
def rowOf (x : Rec) (a : Nat) : Nat × Nat :=
  if x.rstride = 0 then (0, a - x.base) else ((a - x.base) / x.rstride, (a - x.base) % x.rstride)

/-- Bytes of a row that elements may fill, 0 for no bound; e is the element size. -/
def rowBytes (x : Rec) (e : Nat) : Nat :=
  if x.epr = 0 then x.rstride
  else if isBlock x.menc then x.epr / 32 * blockSize x.menc
  else x.epr * e

/-- Do the bytes from a lane address to n beyond it lie in the buffer and in one row (08 R217, 11 R297)? -/
def inRecord (x : Rec) (e n a : Nat) : Bool :=
  x.base ≤ a && a + n ≤ x.base + x.extent &&
    (rowBytes x e == 0 || (rowOf x a).2 + n ≤ rowBytes x e)

end Sys2Proof.Machine.Cv
end

