-- ==== Sys2Proof/Machine/Matrix.lean ====
section
/-! DEFINITION. The matrix array and the veneer (07 R168 to R192). -/

namespace Sys2Proof.Machine

open State

/-- The shape of a format (07 R168): logical K, registers of a fragment, panel tiles, tree levels, and the
encoding of a B block; 2 is log16. -/
structure MFmt where
  k : Nat
  frag : Nat
  tiles : Nat
  levels : Nat
  enc : Nat
  deriving DecidableEq, Repr

/-- The table of R168. -/
def mfmt (fmt : Nat) : MFmt :=
  match fmt with
  | 0 => ⟨64, 18, 2, 6, 4⟩
  | 1 => ⟨128, 20, 2, 7, 5⟩
  | 2 => ⟨16, 8, 1, 4, 2⟩
  | 3 => ⟨128, 36, 1, 7, 6⟩
  | 4 => ⟨128, 36, 2, 7, 7⟩
  | 5 => ⟨256, 40, 2, 8, 8⟩
  | _ => ⟨256, 40, 2, 8, 9⟩

/-- An element of a fragment or a panel: its exact logarithm in units of 2^−14, the flags of its expansion,
and whether its code is not the zero code (07 R179, R184). -/
structure MElem where
  v : LV
  fl : Flags
  nz : Bool
  deriving DecidableEq, Repr

/-- A value whose L is in units of 2^−9, in units of 2^−14. -/
def toNode : LV → LV
  | .fin s l => .fin s (l * 32)
  | v => v

/-- A block element (07 R179, 05 R128). -/
def blockElemM (enc hdr c : Nat) : MElem :=
  let r := Cv.blockElem (Cv.isBl8 enc) hdr c
  ⟨toNode r.1, r.2, c != Cv.zeroCode (Cv.isBl8 enc)⟩

/-- A log16 element, taken as it stands. -/
def logElemM (c : Nat) : MElem :=
  let v := Log.decode .l16 c
  ⟨toNode v, 0, match v with | .zero _ => false | .nan => true | .inf _ => true | .fin _ _ => true⟩

/-- The tiles of a team as a core sees them (07 R175, R178). -/
def tilesOn (t : Team) (core : Nat) : List Nat := if core = t.core then t.tiles else t.tilesUpper

/-- A team tile's physical tile. -/
def physTile (t : Team) (core n : Nat) : Nat := (tilesOn t core).getD n 0

/-- The slice of one column of a panel as a number (07 R176). -/
def columnSlice (s : State) (core : Nat) (t : Team) (vb tiles n : Nat) : Nat :=
  (List.range tiles).foldl (fun a j =>
    a + mread (s.core core).veneer (physTile t core (vb + j) * Config.tileBytes + 64 * n) 64 * 2 ^ (512 * j)) 0

/-- Block b of a column slice. -/
def sliceBlock (enc slice b : Nat) : Nat :=
  slice / 2 ^ (8 * (Cv.blockSize enc * b)) % 2 ^ (8 * Cv.blockSize enc)

/-- The elements of a column (07 R176). -/
def columnElems (m : MFmt) (slice : Nat) : List MElem :=
  if m.enc = 2 then (List.range m.k).map fun k => logElemM (slice / 2 ^ (16 * k) % 2 ^ 16)
  else (List.range m.k).map fun k =>
    let b := sliceBlock m.enc slice (k / 32)
    blockElemM m.enc (b % 2 ^ 32) (Cv.blockCode m.enc b (k % 32))

/-- Is a block of a column malformed (05 R129)? -/
def columnBad (m : MFmt) (slice : Nat) : Bool :=
  m.enc != 2 && (List.range (m.k / 32)).any (fun b => Cv.malformed m.enc (sliceBlock m.enc slice b))

/-- The fragment of a row (07 R169). -/
def rowElems (s : State) (g : Nat) (m : MFmt) (a i : Nat) : List MElem :=
  let rd (r : Nat) : Nat := (readV s g [] (a + r) i).toNat
  if m.enc = 2 then (List.range m.k).map fun k => logElemM (rd (k / 2) / 2 ^ (16 * (k % 2)) % 2 ^ 16)
  else
    let bl8 := Cv.isBl8 m.enc
    let per := if bl8 then 4 else 8
    let w := if bl8 then 8 else 4
    (List.range m.k).map fun k =>
      blockElemM m.enc (rd (m.k / per + k / 32)) (rd (k / per) / 2 ^ (w * (k % per)) % 2 ^ w)

/-- A leaf of the tree (07 R179). -/
def leaf (a b : MElem) : LV × Flags :=
  let p := Log.product a.v b.v
  let r := Log.packV .node 0 p.1
  (r.1, a.fl ||| b.fl ||| p.2 ||| r.2)

/-- Join adjacent values of one level (07 R180). -/
def joinLevel : List LV → Flags → List LV × Flags
  | a :: b :: r, fl =>
    let n := Log.gla .node 0 a b
    let q := joinLevel r (fl ||| n.2)
    (n.1 :: q.1, q.2)
  | l, fl => (l, fl)

/-- The tree over the leaves (07 R180). -/
def treeOf : Nat → List LV → Flags → LV × Flags
  | 0, l, fl => (l.headD (.zero false), fl)
  | n + 1, l, fl =>
    let q := joinLevel l fl
    treeOf n q.1 q.2

/-- The tree result of a row and a column (07 R179, R180). -/
def dot (m : MFmt) (row col : List MElem) : LV × Flags :=
  let ls := (row.zip col).map fun p => leaf p.1 p.2
  treeOf m.levels (ls.map Prod.fst) (ls.foldl (fun a l => a ||| l.2) 0)

/-- A node value as log32: exact (07 R181). -/
def nodeTo32 : LV → LV
  | .fin s l => .fin s (l * 256)
  | v => v

/-- The scaled result and what it leaves in the accumulator d (07 R181). -/
def accumulate (set sat : Bool) (sc t d : LV) : LV × Flags :=
  let p := Log.product t (toNode sc)
  let v := nodeTo32 p.1
  let mode := if sat then 2 else 0
  let r := if set then Log.packV .l32 mode v else Log.gla .l32 mode v d
  (r.1, p.2 ||| r.2)

/-- The latch of the chain of a group on a D run (07 R172). -/
def chainLatch (s : State) (g d : Nat) : Option Latch :=
  (s.core (g / 32)).latch.filter fun l => l.slot == g && l.d == d && !l.closed

/-- The latch a chain begins with: the D run as it stands, of the window or of the bank, so that its later members work
on the latch only (07 R172, R174; log entry 55). -/
def latchNew (s : State) (g d : Nat) : Latch :=
  let x := s.grp g
  let t := s.teamOf g
  let lo := regOff t x d 0
  let hi := regOff t x (d + 64) 0
  let within (o : Nat) : Bool := lo ≤ o && o < hi
  let k := s.core (g / 32)
  let newer := (x.window.reverse.flatMap (·.vals)).filter fun v => d ≤ v.reg && v.reg < d + 64
  let offs := newer.map fun v => regOff t x v.reg v.lane
  { slot := g, d := d, vals := []
    base := newer.foldl (fun m v => mwrite m (regOff t x v.reg v.lane) 4 v.val.toNat) (k.store.filter fun p => within p.1)
    bad := k.badStore.filter fun o => within o && !offs.contains o }

/-- An accumulator as a member of a chain reads it (07 R172). -/
def accOf (s : State) (g d row col : Nat) : Word :=
  match chainLatch s g d with
  | none => readV s g [] (d + col) row
  | some l => match l.vals.find? fun v => v.1 == row && v.2.1 == col with
    | some v => v.2.2
    | none => BitVec.ofNat 32 (mread l.base (regOff (s.teamOf g) (s.grp g) (d + col) row) 4)

/-- An uncorrectable word among the accumulators that a member of a chain is to read, as a store-local address
(07 R172, 13 R361): a row that the chain has updated is read from the latch, and so is any row of a chain in progress. -/
def accBad (s : State) (g d : Nat) (rows : List Nat) : Option Nat :=
  let x := s.grp g
  let t := s.teamOf g
  match chainLatch s g d with
  | none => operandBad s g rows ((List.range 64).map (d + ·))
  | some l =>
    if l.bad.isEmpty then none
    else
      let read := (rows.filter fun i => !(l.vals.any fun v => v.1 == i)).flatMap fun i =>
        (List.range 64).map fun n => regOff t x (d + n) i
      (read.find? l.bad.contains).map fun o => o - t.frame

/-- Put values into the latch (07 R172). -/
def latchPut (s : State) (g d : Nat) (vs : List (Nat × Nat × Word)) : State :=
  let l := (chainLatch s g d).getD (latchNew s g d)
  let old := l.vals.filter fun v => !(vs.any fun w => w.1 == v.1 && w.2.1 == v.2.1)
  s.modCore (g / 32) fun k => { k with latch := some { l with vals := old ++ vs } }

/-- May an instruction of a group that names D use the latch? A chain that is not its own ends first
(07 R173). -/
def latchFree (s : State) (g d : Nat) : State × Bool :=
  match (s.core (g / 32)).latch with
  | none => (s, true)
  | some l => if l.slot = g ∧ l.d = d ∧ !l.closed then (s, true) else (endChain s l.slot, false)

/-- State of a tile on a core (07 R177). -/
def tileState (s : State) (core phys : Nat) : TileSt := tget (s.core core).tileSt .ready phys

/-- Are tiles of a team all Ready? -/
def tilesReady (s : State) (t : Team) (core vb n : Nat) : Bool :=
  (List.range n).all fun j => tileState s core (physTile t core (vb + j)) == .ready

/-- Entries q4 can still take (04 R107, 07 R188). -/
def q4Free (x : Group) : Bool := x.q.q4.length + x.q.q4res < 8

/-- Finish a matrix instruction: outstanding until its chain is written back (07 R173). -/
def finishMatrix (s : State) (g d : Nat) (vs : List (Nat × Nat × Word)) (fl : Flags) (cq : Option QEntry) (eu : Nat) :
    State :=
  let s := latchPut s g d vs
  let s := writeVs s g false true 0 []
  let s := addPend s g {
    kind := .matrix, ready := false, flags := fl, regs := (List.range 64).map (d + ·), cq := cq, aux := d,
    vregs := vs.map fun v => ⟨d + v.2.1, v.1, v.2.2⟩ }
  let s := if cq.isSome then s.modGrp g fun x => { x with q := { x.q with q4res := x.q.q4res + 1 } } else s
  finishVar s g 1 2 eu

/-- The charge Q of R184. -/
def matCharge (gw rows k za zb : Nat) : Nat :=
  let fr := if rows = 0 then 0 else 256 * za * zb / (rows * k * 64 * k)
  gw / 4 * 64 + rows * 48 * fr / 256

/-- The word of a row in a `.cq` entry (07 R188). -/
def cqWord (op tile : Nat) (fl : Flags) (nan row : Bool) : Word :=
  BitVec.ofNat 32 (op * 2 ^ 28 + tile * 2 ^ 16 + b2n (fl &&& flNC != 0) * 8 + b2n (fl &&& (flOV ||| flUF) != 0) * 4 +
    b2n nan * 2 + b2n row)

/-- One row of `mmla` or `mmls`: its 64 values and the flags of its outputs, and whether one is NaN. -/
def matRow (s : State) (g : Nat) (m : MFmt) (f : FmtX) (set : Bool) (sc : LV) (cols : List (List MElem)) (i : Nat) :
    List (Nat × Nat × Word) × Flags × Bool :=
  let row := rowElems s g m f.a.toNat i
  let d := f.d.toNat
  let out := ((List.range 64).zip cols).map fun c =>
    let t := dot m row c.2
    let r := accumulate set (f.fn.getLsbD 0) sc t.1 (Log.decode .l32 (accOf s g d i c.1).toNat)
    (c.1, r.1, t.2 ||| r.2)
  (out.map (fun o => (i, o.1, BitVec.ofNat 32 (Log.encode .l32 o.2.1))),
   out.foldl (fun a o => a ||| o.2.2) 0, out.any (fun o => Log.isNan o.2.1))

/-- The rows `mmla` and `mmls` update (07 R187). -/
def matRows (s : State) (g : Nat) (m : MFmt) (f : FmtX) : List Nat :=
  let all := lanesOf (activeMask (s.grp g) f.ps f.pn) (s.grp g).gw
  if f.rsel = 1 then all.filter (fun i => (rowElems s g m f.a.toNat i).any (·.nz)) else all

/-- The estimate Q of an `mmla` or `mmls` on a panel (07 R184). -/
def matQ (s : State) (g : Nat) (m : MFmt) (f : FmtX) (slices : List Nat) : Nat :=
  let rows := matRows s g m f
  let za := rows.foldl (fun a i => a + ((rowElems s g m f.a.toNat i).filter (·.nz)).length) 0
  let zb := slices.foldl (fun a c => a + ((columnElems m c).filter (·.nz)).length) 0
  matCharge (s.grp g).gw rows.length m.k za zb

/-- The q4 entry of an `mmla` or `mmls` with the results `rs` of its rows (07 R188). -/
def matEntry (set : Bool) (vb : Nat) (rs : List (Nat × List (Nat × Nat × Word) × Flags × Bool)) : QEntry :=
  (List.range 64).map fun i => match rs.find? fun r => r.1 == i with
    | some r => cqWord (b2n set) vb r.2.2.1 r.2.2.2 true
    | none => cqWord (b2n set) vb 0 false false

/-- The effect of `mmla` and `mmls` when their port is granted and their operands are sound (07 R187). -/
def matDo (s : State) (f : FmtX) (set : Bool) (m : MFmt) (slices : List Nat) : State :=
  let g := s.cur
  let c := g / 32
  let q := matQ s g m f slices
  let sc := Log.decode .l16 ((readS s g f.s.toNat).toNat % 2 ^ 16)
  let rs := (matRows s g m f).map fun i => (i, matRow s g m f set sc (slices.map (columnElems m)) i)
  let fl := rs.foldl (fun a r => a ||| r.2.2.1) 0
  let cq := if f.fn.getLsbD 1 then some (matEntry set f.vb.toNat rs) else none
  let s := s.modCore c fun k => { k with
    matBusy := (s.grp g).gw / 4, credit := k.credit.map (· - q), creditFirst := sdel k.creditFirst (g % 32) }
  let s := s.modGrp g fun x => { x with charge := x.charge + BitVec.ofNat 64 q }
  finishMatrix s g f.d.toNat (rs.flatMap fun r => r.2.1) fl cq q

/-- An instruction that traps after the credit test is refused no more (07 R185). -/
def creditGone (s : State) (g : Nat) : State :=
  s.modCore (g / 32) fun k => { k with creditFirst := sdel k.creditFirst (g % 32) }

/-- `mmla` and `mmls` (07 R187): PROT and VENEER_BOUNDS, then the port with the credit of R185, then MATRIX_FMT, then the
rows. -/
def matMul (s : State) (f : FmtX) (set : Bool) : Host.Outcome State Fault Refusal :=
  let g := s.cur
  let x := s.g
  let c := g / 32
  let t := s.teamOf g
  let m := mfmt f.fmt.toNat
  let d := f.d.toNat
  let vb := f.vb.toNat
  let active := activeMask x f.ps f.pn
  match firstLimit x [(d, 64), (f.a.toNat, m.frag)] with
  | some r => done (trap s g 0x06 r active)
  | none =>
    if (tilesOn t c).length < vb + m.tiles then done (trap s g 0x0B vb active)
    else
      let k := s.core c
      let lf := latchFree s g d
      let slices := (List.range 64).map fun n => columnSlice s c t vb m.tiles n
      if k.matBusy ≠ 0 ∨ !tilesReady s t c vb m.tiles then .next (hold s g)
      else if f.fn.getLsbD 1 ∧ !q4Free x then .next (holdQueueAt s g)
      else if k.credit.any (· < matQ s g m f slices) then
        .next (hold (s.modCore c fun k => { k with creditFirst := sins k.creditFirst (g % 32) }) g)
      else if slices.any (columnBad m) then done (trap (creditGone s g) g 0x0C vb active)
      else if !lf.2 then .next (hold lf.1 g)
      else match operandBad s g (lanesOf active x.gw) ((List.range m.frag).map (f.a.toNat + ·)) with
        | some a => done (trap (creditGone s g) g 0x0E a active)
        | none => match (if set then none else accBad s g d (matRows s g m f)) with
          | some a => done (trap (creditGone s g) g 0x0E a active)
          | none => .next (matDo s f set m slices)

/-- `mmla`: multiply and accumulate (07 R187). -/
def execMmla (f : FmtX) (s : State) : Host.Outcome State Fault Refusal := matMul s f false

/-- `mmls`: multiply and set (07 R187). -/
def execMmls (f : FmtX) (s : State) : Host.Outcome State Fault Refusal := matMul s f true

/-- An instruction of a chain that works on the accumulators alone (07 R190, R191): `op` gives the value of a
lane's accumulator, with its flags; `load` tells that it reads them. -/
def accOp (s : State) (f : FmtX) (load : Bool) (srcs : List (Nat × Nat)) (op : Nat → Word → Word × Flags) :
    Host.Outcome State Fault Refusal :=
  let g := s.cur
  let x := s.g
  let d := f.d.toNat
  let active := activeMask x f.ps f.pn
  match firstLimit x ((d, 64) :: srcs) with
  | some r => done (trap s g 0x06 r active)
  | none =>
    let lf := latchFree s g d
    if !lf.2 then .next (hold lf.1 g)
    else
      let lanes := lanesOf active x.gw
      let bad := (operandBad s g lanes (srcs.map Prod.fst)).orElse fun _ => if load then accBad s g d lanes else none
      match bad with
      | some a => done (trap s g 0x0E a active)
      | none =>
        let out := lanes.flatMap fun i => (List.range 64).map fun n => (i, n, op i (accOf s g d i n))
        let fl := out.foldl (fun a o => a ||| o.2.2.2) 0
        .next (finishMatrix s g d (out.map fun o => (o.1, o.2.1, o.2.2.1)) fl none 1)

/-- `mclr`: +0 to every accumulator of the active lanes (07 R190). -/
def execMclr (f : FmtX) (s : State) : Host.Outcome State Fault Refusal :=
  accOp s f false [] fun _ _ => (0x40000000, 0)

/-- `mscl`: every accumulator of the active lanes times a scale (07 R191). -/
def execMscl (f : FmtX) (s : State) : Host.Outcome State Fault Refusal :=
  let g := s.cur
  let byLane := f.fn.getLsbD 0
  let mode := if f.fn.getLsbD 1 then 2 else 0
  let sc (i : Nat) : LV :=
    if byLane then Log.decode .l32 (readV s g [] f.a.toNat i).toNat
    else nodeTo32 (toNode (Log.decode .l16 ((readS s g f.s.toNat).toNat % 2 ^ 16)))
  accOp s f true (if byLane then [(f.a.toNat, 1)] else []) fun i v =>
    let r := Log.mul .l32 mode (Log.decode .l32 v.toNat) (sc i)
    (BitVec.ofNat 32 (Log.encode .l32 r.1), r.2)

/-- The chain of a core's latch has reached the bank: its results are delivered in issue order
(07 R173). Results of `mstat` arrive with it. -/
def writeChain (s : State) (core : Nat) : State :=
  match (s.core core).latch with
  | some l =>
    if l.closed then
      let mine := (s.grp l.slot).pend.filter fun p => p.kind == .matrix && !p.ready && p.aux == l.d
      settleFences (eachDo mine (s.modCore core fun k => { k with latch := none }) fun s p => deliver s l.slot p) l.slot
    else s
  | none => s

/-- A matrix result reaches the bank (07 R173, R192). -/
def execMatrixWriteBack (core : Nat) (s : State) : Host.Outcome State Fault Refusal :=
  let gs := (List.range 32).map (core * 32 + ·)
  let s := eachDo gs s fun s g =>
    let due := (s.grp g).pend.filter fun p => p.kind == .matrix && p.ready
    if due.isEmpty then s else settleFences (eachDo due s fun s p => deliver s g p) g
  .next (writeChain s core)

/-- `mldb`: tiles from the team window (07 R189). -/
def execMldb (f : FmtX) (s : State) : Host.Outcome State Fault Refusal :=
  let g := s.cur
  let x := s.g
  let c := g / 32
  let t := s.teamOf g
  let e := (readS s g f.s.toNat).toNat
  let n := f.fn.toNat % 128 + 1
  let vb := f.vb.toNat
  let cq := f.fn.getLsbD 7
  let limit := (tget x.tregs {} 0).limit
  if e % 16 ≠ 0 then done (trap s g 0x05 e x.em)
  else if limit < e + 4096 * n then done (trap s g 0x06 e x.em)
  else if (tilesOn t c).length < vb + n then done (trap s g 0x0B vb x.em)
  else if !tilesReady s t c vb n then .next (hold s g)
  else if cq ∧ !q4Free x then .next (holdQueueAt s g)
  else match (List.range (4096 * n / 4)).find? fun j =>
      storeBad s (storeCore t c (e + 4 * j)) (t.frame + e + 4 * j) 4 with
    | some j => done (trap s g 0x0E (e + 4 * j) x.em)
    | none =>
      let phys := (List.range n).map fun j => physTile t c (vb + j)
      let copy (v : Mem) (j : Nat) : Mem :=
        let p := physTile t c (vb + j / 4096)
        mset v (p * Config.tileBytes + j % 4096) (BitVec.ofNat 8 (winRead s t c (e + j) 1))
      let s := s.modCore c fun k => { k with
        veneer := (List.range (4096 * n)).foldl copy k.veneer,
        tileSt := phys.foldl (fun a p => tset a p .loading) k.tileSt }
      let s := clusterWork s c (4096 * n)
      let entry : QEntry := (List.range 64).map fun _ => cqWord 2 vb 0 false false
      let s := addPend s g { kind := .mldb, ready := false, cq := if cq then some entry else none,
                             aux := vb, aux2 := n }
      let s := if cq then s.modGrp g fun x => { x with q := { x.q with q4res := x.q.q4res + 1 } } else s
      .next (finishVar (s.post (.mldbComplete c (g % 32) x.seq)) g 1 2 1)

/-- The last byte of an `mldb` is written: its tiles are Ready (07 R177, R189). -/
def execMldbComplete (core slot n : Nat) (s : State) : Host.Outcome State Fault Refusal :=
  let g := core * 32 + slot
  match (s.grp g).pend.find? fun p => p.kind == .mldb && p.seq == n with
  | none => .next s
  | some p =>
    let t := s.teamOf g
    let phys := (List.range p.aux2).map fun j => physTile t core (p.aux + j)
    let s := s.modCore core fun k => { k with tileSt := phys.foldl (fun a q => tdel a q) k.tileSt }
    -- a copy command that targets one of them has waited (11 R284)
    .next ((deliver s g p).post (.commandAccept core))

/-- The matrix instructions a group has issued and not yet written, and MXST (07 R192). -/
def mstatValue (x : Group) : DWord :=
  let n := (x.pend.filter fun p => p.kind == .matrix && !p.ready).length
  BitVec.ofNat 64 (x.mxst.toNat + n % 32 * 256)

/-- Write sD of an `mstat`, as a matrix result (07 R186, R192). -/
def mstatResult (s : State) (f : FmtX) (v : DWord) : State :=
  let g := s.cur
  let s := addPend s g { kind := .matrix, sregs := [(f.s.toNat, v)] }
  finishVar (s.post (.matrixWriteBack (g / 32))) g 1 2 1

/-- In a deterministic launch `mstat` first ends the chain and waits for the matrix results (14 R381). -/
def mstatWaits (s : State) (g : Nat) : Option State :=
  if isDet s g && (s.grp g).pend.any (fun p => p.kind == .matrix && !p.ready) then some (hold (endChain s g) g)
  else none

/-- `mstat.flags` (07 R192). -/
def execMstatFlags (f : FmtX) (s : State) : Host.Outcome State Fault Refusal :=
  match mstatWaits s s.cur with
  | some s => .next s
  | none => .next (mstatResult s f (mstatValue s.g))

/-- `mstat.clr` (07 R192). -/
def execMstatClr (f : FmtX) (s : State) : Host.Outcome State Fault Refusal :=
  match mstatWaits s s.cur with
  | some s => .next s
  | none =>
    let v := mstatValue s.g
    .next (mstatResult (s.modG fun x => { x with mxst := 0 }) f v)

/-- `mstat.tile` (07 R192, 14 R381). -/
def execMstatTile (f : FmtX) (s : State) : Host.Outcome State Fault Refusal :=
  let g := s.cur
  let t := s.teamOf g
  let n := f.vb.toNat
  if (tilesOn t (g / 32)).length ≤ n then .next (mstatResult s f 0)
  else
    let st := tileState s (g / 32) (physTile t (g / 32) n)
    if isDet s g && st != .ready then .next (hold s g)
    else .next (mstatResult s f (match st with | .ready => 1 | .loading => 2 | .engine => 3))

/-- `mstat.eu` (07 R192). -/
def execMstatEu (f : FmtX) (s : State) : Host.Outcome State Fault Refusal :=
  .next (mstatResult s f s.g.charge)

end Sys2Proof.Machine
end

