-- ==== Sys2Proof/Machine/Copy.lean ====
section
/-! DEFINITION. The copy unit: submission, command blocks, transformations, endings and chains
(11 R272 to R305, R445). -/

namespace Sys2Proof.Machine

open State

/-! ### The fields of a command block (11 R275) -/

structure Blk where
  xf : Nat
  sri : Bool
  dri : Bool
  ssp : Nat
  dsp : Nat
  fem : Nat
  pv : Bool
  peer : Nat
  srec : Nat
  drec : Nat
  senc : Nat
  denc : Nat
  esz : Nat
  cv : Bool
  csp : Bool
  lnk : Bool
  cpol : Nat
  cmpr : Bool
  tag : Nat
  src : Nat
  dst : Nat
  nrow : Nat
  ncol : Nat
  cbuf : Nat
  isat : Nat
  irto : Bool
  dstr : Nat
  sstr : Nat
  aux : Nat
  cwa : Nat
  cval : Nat
  sstep : Nat
  dstep : Nat
  next : Nat
  /-- Every reserved field is zero. -/
  clean : Bool
  deriving DecidableEq, Repr

/-- The fields of a block's doublewords. -/
def blkOf (b : List DWord) : Blk :=
  let d (k : Nat) : DWord := Cv.dw b k
  { xf := fld (d 0) 61 3, sri := fld (d 0) 60 1 == 1, dri := fld (d 0) 59 1 == 1, ssp := fld (d 0) 57 2,
    dsp := fld (d 0) 55 2, fem := fld (d 0) 53 2, pv := fld (d 0) 50 1 == 1, peer := fld (d 0) 46 4,
    srec := fld (d 0) 40 6, drec := fld (d 0) 34 6, senc := fld (d 0) 29 5, denc := fld (d 0) 24 5,
    esz := 2 ^ fld (d 0) 22 2, cv := fld (d 0) 21 1 == 1, csp := fld (d 0) 20 1 == 1, lnk := fld (d 0) 19 1 == 1,
    cpol := fld (d 0) 16 3, cmpr := fld (d 0) 15 1 == 1, tag := fld (d 0) 0 12,
    src := fld (d 1) 0 57, dst := fld (d 2) 0 57, nrow := fld (d 3) 48 16, ncol := fld (d 3) 28 20,
    cbuf := fld (d 3) 21 7, isat := fld (d 3) 19 2, irto := fld (d 3) 18 1 == 1,
    dstr := fld (d 4) 32 32, sstr := fld (d 4) 0 32, aux := fld (d 5) 0 57, cwa := fld (d 6) 0 57,
    cval := fld (d 7) 32 32, sstep := fld (d 7) 16 16, dstep := fld (d 7) 0 16, next := fld (d 11) 0 57,
    clean := fld (d 0) 12 3 == 0 && fld (d 1) 57 7 == 0 && fld (d 2) 57 7 == 0 && fld (d 3) 0 18 == 0 &&
      fld (d 5) 57 7 == 0 && fld (d 6) 57 7 == 0 }

/-- A record by its index, as copied at acceptance (11 R296). -/
def cmdRec (c : Cmd) (k : Nat) : Cv.Rec := Cv.recOf (tget c.recs [] k)

/-- An end of a command (11 R277). -/
structure End where
  space : Nat
  base : Nat
  stride : Nat
  enc : Nat
  e : Nat
  /-- Record bounds; none for an inline end. -/
  lo : Nat
  hi : Option Nat
  epr : Nat
  swz : Nat
  sat : Nat
  rto : Bool
  cpol : Nat
  cmpr : Bool
  fem : Nat
  scm : Nat
  scaddr : Nat
  rstride : Nat
  deriving DecidableEq, Repr

/-- An end by its record (11 R277, R293). -/
def recEnd (x : Cv.Rec) (space off esz : Nat) : End :=
  { space := space, base := x.base + off, stride := x.rstride, enc := x.menc, e := Cv.elemSize x.menc esz,
    lo := x.base, hi := some (x.base + x.extent), epr := x.epr, swz := x.swz, sat := x.sat, rto := x.rnd == 1,
    cpol := x.cpol, cmpr := x.cmpr, fem := x.feh, scm := x.scm, scaddr := x.scaddr, rstride := x.rstride }

def srcEnd (c : Cmd) (b : Blk) : End :=
  if b.sri then
    { space := b.ssp, base := b.src, stride := b.sstr, enc := b.senc, e := Cv.elemSize b.senc b.esz, lo := 0,
      hi := none, epr := 0, swz := 0, sat := 0, rto := false, cpol := b.cpol, cmpr := b.cmpr, fem := 3,
      scm := 0, scaddr := 0, rstride := 0 }
  else recEnd (cmdRec c b.srec) b.ssp b.src b.esz

/-- The destination end; a chain buffer rounds to odd (11 R280). -/
def dstEnd (c : Cmd) (b : Blk) : End :=
  let x : End :=
    if b.dri then
      { space := b.dsp, base := b.dst, stride := b.dstr, enc := b.denc, e := Cv.elemSize b.denc b.esz, lo := 0,
        hi := none, epr := 0, swz := 0, sat := b.isat, rto := b.irto, cpol := b.cpol, cmpr := b.cmpr,
        fem := b.fem, scm := 0, scaddr := 0, rstride := 0 }
    else recEnd (cmdRec c b.drec) b.dsp b.dst b.esz
  if b.dsp = 3 then { x with rto := true } else x

def isIeee (enc : Nat) : Bool := 10 ≤ enc && enc ≤ 14

/-- The encodings and spaces each transformation accepts (11 R279). -/
def pairOk (xf : Nat) (s d : End) : Bool :=
  match xf with
  | 0 => s.enc == 0 && d.enc == 0
  | 1 => Cv.elementwise s.enc && Cv.elementwise d.enc
  | 2 => Cv.elementwise s.enc && Cv.isBlock d.enc
  | 3 => (s.enc == 0 || (1 ≤ s.enc && s.enc ≤ 3) || isIeee s.enc) && d.enc == s.enc
  | 4 => Cv.elementwise s.enc && Cv.elementwise d.enc
  | 5 => Cv.elementwise s.enc && Cv.elementwise d.enc && d.space ≤ 1
  | 6 => Cv.elementwise s.enc || s.enc == 4 || s.enc == 5
  | _ => false

/-- Is full/empty mode 0 accepted (11 R207, R279)? -/
def modeZeroOk (xf : Nat) (s d : End) : Bool :=
  match xf with
  | 0 => true
  | 3 => s.e == 4
  | 4 => s.e == 4 && d.e == 4 && s.enc == d.enc
  | 5 => s.e == 4 && d.e == 4 && s.enc == d.enc
  | _ => false

/-- The rules of R276 and those that name it (R281 to R284, R445). -/
def blockOk (c : Cmd) (b : Blk) : Bool :=
  let s := srcEnd c b
  let d := dstEnd c b
  let recOk (k : Nat) : Bool := match c.recs.find? fun r => r.1 == k with
    | some r => Cv.recLegal r.2
    | none => false
  b.clean && b.xf != 7 && b.ssp != 3 && b.cpol ≤ 3 && b.senc ≤ 16 && b.denc ≤ 16 && b.isat ≤ 2 && b.cbuf ≤ 64 &&
    (b.dri || b.fem == 0) && (b.pv || b.peer == 0) && (if b.sri then b.srec == 0 else b.senc == 0 && recOk b.srec) &&
    (if b.dri then b.drec == 0 else b.denc == 0 && (b.xf == 6 || recOk b.drec)) &&
    b.nrow != 0 && b.ncol != 0 && (b.sri || b.ssp != 2) && (b.dri || b.dsp != 3) &&
    (b.dsp != 2 || (b.dri && b.dst / 128 == 0 && b.dstr == 0 && b.fem == 0)) && (b.dsp != 3 || b.fem == 0) &&
    pairOk b.xf s d && (b.xf != 2 || b.ncol % 32 == 0) && (b.xf != 3 || b.nrow * b.ncol * s.e ≤ 65536) &&
    (if b.xf = 6 then !b.dri && b.dsp == 0 && b.drec == 0 && b.denc == 0 && b.fem == 0 && b.aux % 4 == 0
      else 2 ≤ b.dsp || d.fem != 0 || modeZeroOk b.xf s d) &&
    !(b.cv && b.cwa % 4 != 0)

/-! ### Reading and writing -/

/-- What stops a command (11 R287, R288): a fault, or a page that is not present, met by a read or by a write. -/
inductive Stop where
  | fail (fc addr : Nat)
  | page (a : Nat) (write : Bool)
  deriving DecidableEq, Repr

/-- A value read with the states of its words, one bit a byte, or what stops the command. -/
inductive ERes where
  | ok (v full : Nat)
  | stop (x : Stop)
  deriving DecidableEq, Repr

/-- The states of the words that n bytes from a lie in, one bit a byte (08 R207). -/
def fullMask (a n : Nat) (full : Nat → Bool) : Nat :=
  (List.range n).foldl (fun m i => m + b2n (full (a + i)) * 2 ^ i) 0

/-- The words that n bytes from a touch, each with whether all those bytes come from full words (08 R207). -/
def wordStates (a n full : Nat) : List (Nat × Bool) :=
  (wordsAt a n).map fun w => (w, (List.range n).all fun i => (a + i) / 4 * 4 != w || full.testBit i)

/-- The core whose window, tiles and stores a command reaches. -/
def cmdCore (s : State) (c : Cmd) : Nat := (s.team c.team).core + b2n c.upper

/-- The record of a malformed entry that an engine's access met (13 R344). -/
def engMalformed (s : State) (core : Nat) (c : Cmd) (a : Nat) (write : Bool) : State :=
  reportPage s {
    ctx := c.ctx, page := a / 65536, acc := if write then 4 else 8, seq := 0, core := core, slot := 0, eng := true,
    launch := c.launch, waiters := [.cmd core c.q], code := 0x06 }

/-- Translate an engine's access within one page (11 R277, R287). -/
def engXlate (s : State) (core : Nat) (c : Cmd) (a n : Nat) (write : Bool) : State × Except Stop Phys :=
  if 2 ^ 57 < a + n then (s, .error (.fail 1 a))
  else
    let r := translate s core c.ctx a
    match r.2 with
    | .absent => (r.1, .error (if c.badPages.contains (a / 65536) then .fail 2 a else .page a write))
    | .malformed => (engMalformed r.1 core c a write, .error (.fail 1 a))
    | .ok p =>
      if !(if write then p.w else p.r) then (r.1, .error (.fail 1 a))
      else if p.pr && !peerUp s p.peer then (r.1, .error (.fail 7 a))
      else (if write then dirty r.1 core c.ctx a else r.1, .ok p)

/-- CLCAP of a link end: 0 is the host port, 1 to 8 the peer ports (09 R236, 16 R407). -/
def clcap (s : State) (e : Nat) : Nat :=
  if e = 0 then 5 * b2n s.dev.hostcap else 2 + 4 * b2n (s.dev.dcap.getLsbD (e - 1))

/-- The states of a peer's words, by a query of each (08 R207, R210). -/
def peerFull (s : State) (core : Nat) (p : Phys) (n : Nat) : State × Nat :=
  let q := (wordsAt p.pa n).foldl (fun (acc : State × List (Nat × Bool)) w =>
    let b := freshBytes (acc.1.send (.feMsg p.peer core 0 w (.query 4))) 1
    (b.1, (w, b.2 % 2 == 1) :: acc.2)) (s, [])
  (q.1, fullMask p.pa n fun x => q.2.any fun e => e.1 == x / 4 * 4 && e.2)

/-- Read n bytes at an address of a space under a cache policy; global bytes lie in one 32-byte sector (09 R230, 10 R264,
11 R277). `states` asks for the states of a peer's words. -/
def engRead (s : State) (core : Nat) (c : Cmd) (space a n : Nat) (pol : Nat := 0) (states : Bool := false) : State × ERes :=
  match space with
  | 0 =>
    let r := engXlate s core c a n false
    match r.2 with
    | .error x => (r.1, .stop x)
    | .ok p =>
      if p.pr then
        let v := freshBytes (r.1.send (.read p.peer p.pa n)) n
        if states && p.fek then let q := peerFull v.1 core p n; (q.1, .ok v.2 q.2) else (v.1, .ok v.2 (2 ^ n - 1))
      else if p.hb then let v := freshBytes r.1 n; (v.1, .ok v.2 (2 ^ n - 1))
      else if memBad r.1 p.pa n then (r.1, .stop (.fail 5 a))
      else
        let v := homeRead r.1 c.ctx p.pa n pol
        (v.1, .ok v.2 (fullMask p.pa n fun x => !p.fek || isFull v.1 (.mem x)))
  | 1 =>
    let t := s.team c.team
    let k := cmdCore s c
    if t.size < a + n then (s, .stop (.fail 1 a))
    else if storeBad s (storeCore t k a) (t.frame + a) n then (s, .stop (.fail 5 a))
    else (clusterWork s k n, .ok (winRead s t k a n) (fullMask a n fun x => isFull s (winObj t k x)))
  | _ =>
    match c.region with
    | some (base, len) =>
      if len < a + n then (s, .stop (.fail 3 a)) else (s, .ok (mread (s.core core).chainBuf (base + a) n) (2 ^ n - 1))
    | none => (s, .stop (.fail 3 a))

/-- Set the states of the words of a destination, each with the state mode 0 gives it (08 R207). -/
def engSetFE (s : State) (ws : List (WObj × Bool)) (fem : Nat) : State :=
  match fem with
  | 0 => eachDo ws s fun s w => setFE s w.1 w.2
  | 1 => eachDo ws s fun s w => setFE s w.1 true
  | 2 => eachDo ws s fun s w => setFE s w.1 false
  | _ => s

/-- A byte on its way to a peer, or to the host as number 16, with the state mode 0 gives its word. -/
structure PeerByte where
  peer : Nat
  pa : Nat
  b : Byte
  full : Bool
  deriving DecidableEq, Repr

/-- Write n bytes at an address of a space (11 R277, R284, R292, 12 R327). -/
def engWrite (s : State) (core : Nat) (c : Cmd) (b : Blk) (d : End) (a n v full : Nat) :
    State × List PeerByte × Option Stop :=
  match d.space with
  | 0 =>
    let r := engXlate s core c a n true
    match r.2 with
    | .error x => (r.1, [], some x)
    | .ok p =>
      if b.pv ≠ p.pr ∨ (b.pv ∧ p.peer ≠ b.peer) then (r.1, [], some (.fail 1 a))
      else if d.fem ≤ 2 ∧ !p.fek then (r.1, [], some (.fail 1 a))
      else if p.pr then
        (r.1, (List.range n).map fun i => ⟨p.peer, p.pa + i, BitVec.ofNat 8 (v / 2 ^ (8 * i)), full.testBit i⟩, none)
      else if p.hb && (clcap s 0).testBit 2 && d.cmpr then
        (r.1, (List.range n).map fun i => ⟨16, p.pa + i, BitVec.ofNat 8 (v / 2 ^ (8 * i)), full.testBit i⟩, none)
      else if p.hb then (r.1.send (.hostWrite p.pa (bytesOfWord n v)), [], none)
      else
        let s := homeWrite r.1 c.ctx p.pa n v d.cpol
        (engSetFE s ((wordStates p.pa n full).map fun w => (.mem w.1, w.2)) d.fem, [], none)
  | 1 =>
    let t := s.team c.team
    let k := cmdCore s c
    if t.size < a + n ∨ clobbers t a n then (s, [], some (.fail 1 a))
    else (engSetFE (winWrite (clusterWork s k n) t k a n v) ((wordStates a n full).map fun w => (winObj t k w.1, w.2)) d.fem, [], none)
  | 2 =>
    let t := s.team c.team
    let k := cmdCore s c
    let tile := b.dst + a / Config.tileBytes
    if (tilesOn t k).length ≤ tile then (s, [], some (.fail 4 a))
    else
      let off := physTile t k tile * Config.tileBytes + a % Config.tileBytes
      (s.modCore k fun x => { x with veneer := mwrite x.veneer off n v }, [], none)
  | _ =>
    match c.region with
    | some (base, len) =>
      if len < a + n then (s, [], some (.fail 3 a))
      else (s.modCore core fun x => { x with chainBuf := mwrite x.chainBuf (base + a) n v }, [], none)
    | none => (s, [], some (.fail 3 a))

/-- The pieces of n bytes at offset off of row r of an end, swizzled where the record says (11 R277). -/
def endPieces (x : End) (r off n : Nat) : List (Nat × Nat) :=
  let row := x.base + r * x.stride
  if x.swz = 0 then
    let a := row + off
    let ls := pieces (a % 32) n
    (ls.zip (List.range ls.length)).map fun l => (a + (ls.take l.2).foldl (· + ·) 0, l.1)
  else
    let m := if x.swz = 1 then 8 else 32
    (List.range n).map fun i =>
      let u := (off + i) / 16
      (row + Nat.xor u (r % m) * 16 + (off + i) % 16, 1)

/-- Is a piece outside the end's bound, or a column beyond EPR (11 R277)? -/
def outOfEnd (x : End) (col a n : Nat) : Bool :=
  (match x.hi with | some h => a < x.lo || h < a + n | none => false) || (x.epr != 0 && x.epr ≤ col)

/-- A run of a block: the state, bytes for peers, what stopped it. -/
structure CRun where
  s : State
  c : Cmd
  pw : List PeerByte := []
  stop : Option Stop := none

/-- Read the n bytes of column col at offset off of row r. -/
def endRead (s : State) (core : Nat) (c : Cmd) (x : End) (r col off n : Nat) (states : Bool := false) : State × ERes :=
  let ps := endPieces x r off n
  match ps.find? fun p => outOfEnd x col p.1 p.2 with
  | some p => (s, .stop (.fail 4 p.1))
  | none =>
    let q := ps.foldl (fun (acc : State × ERes × Nat) p =>
      match acc.2.1 with
      | .stop _ => acc
      | .ok v f =>
        let e := engRead acc.1 core c x.space p.1 p.2 x.cpol states
        match e.2 with
        | .stop y => (e.1, .stop y, acc.2.2)
        | .ok w f' => (e.1, .ok (v + w * 2 ^ (8 * acc.2.2)) (f + f' * 2 ^ acc.2.2), acc.2.2 + p.2)) (s, .ok 0 0, 0)
    (q.1, q.2.1)

/-- Write the n bytes of column col at offset off of row r; every piece is checked before one is written. -/
def endWrite (k : CRun) (core : Nat) (b : Blk) (x : End) (r col off n v full : Nat) : CRun :=
  let ps := endPieces x r off n
  match ps.find? fun p => outOfEnd x col p.1 p.2 with
  | some p => { k with stop := some (.fail 4 p.1) }
  | none =>
    let go (k : CRun) : CRun × Nat := ps.foldl (fun (acc : CRun × Nat) p =>
      match acc.1.stop with
      | some _ => acc
      | none =>
        let w := engWrite acc.1.s core acc.1.c b x p.1 p.2 (v / 2 ^ (8 * acc.2) % 2 ^ (8 * p.2)) (full / 2 ^ acc.2)
        ({ acc.1 with s := w.1, pw := acc.1.pw ++ w.2.1, stop := w.2.2 }, acc.2 + p.2)) (k, 0)
    let try_ := (go k).1
    match try_.stop with
    | none => try_
    | some e => { k with stop := some e }

/-- Read a scale word: a strong 4-byte device-scope read at its home, once for the command (10 R261, R264, 11 R298). -/
def readScale (k : CRun) (core a : Nat) : CRun :=
  if k.stop.isSome || k.c.scales.any fun e => e.1 == a then k
  else if a % 4 ≠ 0 then { k with stop := some (.fail 3 a) }
  else
    let x := engXlate k.s core k.c a 4 false
    match x.2 with
    | .error y => { k with s := x.1, stop := some y }
    | .ok p =>
      let v := engRead (if p.pr || p.hb then x.1 else promoteRead x.1 core (p.pa / 256)) core k.c 0 a 4
      match v.2 with
      | .stop y => { k with s := v.1, stop := some y }
      | .ok w _ => { k with s := v.1, c := { k.c with scales := tset k.c.scales a w } }

/-- The address of an end's scale word for row r (11 R298). -/
def scaleAt (x : End) (r : Nat) : Nat :=
  let row := if x.rstride = 0 then 0 else (x.base + r * x.stride - x.lo) / x.rstride
  if x.scm = 2 then x.scaddr + 4 * row else x.scaddr

/-- The scale of an end for row r. -/
def scaleOf (k : CRun) (core : Nat) (x : End) (r : Nat) : CRun × Option LV :=
  if x.scm = 0 then (k, none)
  else
    let k := readScale k core (scaleAt x r)
    (k, (k.c.scales.find? fun e => e.1 == scaleAt x r).map fun e => Log.decode .l32 e.2)

/-- Does a block move its elements' bytes unchanged, so that no scale applies: a copy or a transpose (11 R279, R283,
R298)? -/
def unscaled (b : Blk) : Bool := b.xf == 0 || b.xf == 3

/-- The scale words a block uses are read at its start, where its rows name them (11 R298). -/
def startScales (core : Nat) (b : Blk) (s d : End) (k : CRun) : CRun :=
  let rows (x : End) (fixed : Bool) (k : CRun) : CRun :=
    if x.scm = 0 ∨ (x.scm = 2 ∧ !fixed) then k
    else if x.scm = 2 then (List.range b.nrow).foldl (fun k r => readScale k core (scaleAt x r)) k
    else readScale k core x.scaddr
  if unscaled b ∨ k.c.prog ≠ 0 then k
  else
    let k := rows s (b.xf != 4) k
    if b.xf = 6 then k
    else
      let k := rows d (b.xf != 5) k
      if b.xf = 2 ∧ b.dri ∧ b.aux ≠ 0 then readScale k core b.aux else k

/-- Convert one element between the ends with their scales: equal encodings without a scale move
unchanged (11 R279, R280, R298). -/
def convElem (s d : End) (ss ds : Option LV) (code : Nat) : Nat × Flags :=
  if s.enc = d.enc ∧ ss.isNone ∧ ds.isNone then (code, 0)
  else match ss, ds with
    | none, none => Cv.step s.enc d.enc d.sat d.rto none code
    | some l, none => Cv.step s.enc d.enc d.sat d.rto (some (false, l)) code
    | none, some l => Cv.step s.enc d.enc d.sat d.rto (some (true, l)) code
    | some l, some m =>
      let v := Cv.scaled false (Cv.decode s.enc code) l
      let w := Cv.scaled true v.1 m
      let r := Cv.encode d.enc d.sat d.rto w.1
      (r.1, v.2 ||| w.2 ||| r.2)

def addFlg (k : CRun) (fl : Flags) : CRun := { k with c := { k.c with flg := k.c.flg ||| fl } }

/-- Move element j from its place in the source to its place in the destination (11 R277, R280). -/
def moveElem (k : CRun) (core : Nat) (b : Blk) (s d : End) (j sr sc dr dc : Nat) : CRun :=
  match k.stop with
  | some _ => k
  | none =>
    let v := endRead k.s core k.c s sr sc (sc * s.e) s.e (d.fem == 0 && decide (d.space ≤ 1))
    match v.2 with
    | .stop y => { k with s := v.1, stop := some y }
    | .ok code full =>
      let k := { k with s := v.1 }
      let q := if unscaled b then (k, none) else scaleOf k core s sr
      let p := if unscaled b then (k, none) else scaleOf q.1 core d dr
      match p.1.stop with
      | some _ => p.1
      | none =>
        let w := convElem s d q.2 p.2 code
        -- a veneer destination has no stride (11 R284)
        let w' := if d.space = 2 then endWrite p.1 core b { d with base := 0 } 0 0 (j * d.e) d.e w.1 full
          else endWrite p.1 core b d dr dc (dc * d.e) d.e w.1 full
        match w'.stop with
        | some _ => w'
        | none => let k := addFlg w' w.2; { k with c := { k.c with prog := j + 1 } }

/-- The elements from PROG on and below `n`, in order. -/
def fromProg (c : Cmd) (n : Nat) : List Nat := (List.range n).drop c.prog

/-- Copy and convert: element by element, below element `n` (11 R279, R280). -/
def runMove (core : Nat) (b : Blk) (s d : End) (n : Nat) (k : CRun) : CRun :=
  (fromProg k.c n).foldl (fun k j =>
    moveElem k core b s d j (j / b.ncol) (j % b.ncol) (j / b.ncol) (j % b.ncol)) k

/-- Transpose: element (r, c) to (c, r), below element `n` (11 R283). -/
def runTranspose (core : Nat) (b : Blk) (s d : End) (n : Nat) (k : CRun) : CRun :=
  (fromProg k.c n).foldl (fun k j =>
    let r := j / b.ncol
    let c := j % b.ncol
    if d.space = 2 then
      -- the bytes in order of the destination's rows
      let k' := moveElem k core b s { d with base := 0 } (c * b.nrow + r) r c 0 0
      match k'.stop with
      | some _ => k'
      | none => { k' with c := { k'.c with prog := j + 1 } }
    else moveElem k core b s d j r c c r) k

/-- Word j of the index list (11 R283). -/
def indexOf (k : CRun) (core : Nat) (b : Blk) (j : Nat) : CRun × Nat :=
  let a := b.aux + 4 * j
  let v := (pieces (a % 32) 4).foldl (fun (acc : State × ERes × Nat) n =>
    match acc.2.1 with
    | .stop _ => acc
    | .ok x _ =>
      let e := engRead acc.1 core k.c 0 (a + acc.2.2) n
      match e.2 with
      | .stop y => (e.1, .stop y, acc.2.2)
      | .ok w _ => (e.1, .ok (x + w * 2 ^ (8 * acc.2.2)) 0, acc.2.2 + n)) (k.s, .ok 0 0, 0)
  match v.2.1 with
  | .stop y => ({ k with s := v.1, stop := some y }, 0)
  | .ok x _ => ({ k with s := v.1 }, x)

/-- Gather and scatter: rows by an index list, in ascending order (11 R283). DESIGN CHOICE (log entry 62): of a row that
lies only partly outside its end's bound, the elements before it are moved, and PROG names the first that is not. -/
def runIndexed (core : Nat) (b : Blk) (s d : End) (gather : Bool) (k : CRun) : CRun :=
  (List.range b.nrow).foldl (fun k j =>
    if k.stop.isSome ∨ (j + 1) * b.ncol ≤ k.c.prog then k
    else
      let ix := indexOf k core b j
      (List.range b.ncol).foldl (fun k c =>
        if j * b.ncol + c < k.c.prog then k
        else if gather then moveElem k core b s d (j * b.ncol + c) ix.2 c j c
        else moveElem k core b s d (j * b.ncol + c) j c ix.2 c) ix.1) k

/-- The scale σ of a quantise: log16, +1.0 when there is none (11 R281, R298). -/
def sigmaOf (k : CRun) (core : Nat) (b : Blk) (d : End) (r : Nat) : CRun × LV :=
  let narrow (v : Option LV) : LV := match v with
    | some x => (Log.convert .l32 .l16 false 0 x).1
    | none => .fin false 0
  if b.dri then
    if b.aux = 0 then (k, .fin false 0)
    else
      let q := scaleOf k core { d with scm := 1, scaddr := b.aux } r
      (q.1, narrow q.2)
  else
    let q := scaleOf k core d r
    (q.1, narrow q.2)

/-- Read the values of 32 elements of a row, scaled by the source's scale. -/
def readGroup (k : CRun) (core : Nat) (s : End) (r c0 : Nat) : CRun × List Cv.XV :=
  let sc := scaleOf k core s r
  (List.range 32).foldl (fun (acc : CRun × List Cv.XV) i =>
    match acc.1.stop with
    | some _ => acc
    | none =>
      let v := endRead acc.1.s core acc.1.c s r (c0 + i) ((c0 + i) * s.e) s.e
      match v.2 with
      | .stop y => ({ acc.1 with s := v.1, stop := some y }, acc.2)
      | .ok code _ =>
        let x := Cv.decode s.enc code
        let y := match sc.2 with | some l => Cv.scaled false x l | none => (x, 0)
        (addFlg { acc.1 with s := v.1 } y.2, acc.2 ++ [y.1])) (sc.1, [])

/-- Quantise: rows in groups of 32, below element `n` (11 R281). -/
def runQuantise (core : Nat) (b : Blk) (s d : End) (n : Nat) (k : CRun) : CRun :=
  let per := b.ncol / 32
  let bs := Cv.blockSize d.enc
  (List.range (b.nrow * per)).foldl (fun k t =>
    if k.stop.isSome ∨ (t + 1) * 32 ≤ k.c.prog ∨ n ≤ t * 32 then k
    else
      let r := t / per
      let g := t % per
      let flg := k.c.flg
      let sg := sigmaOf k core b d r
      let xs := readGroup sg.1 core s r (32 * g)
      match xs.1.stop with
      | some _ => { xs.1 with c := { xs.1.c with flg := flg } }
      | none =>
        let q := Cv.quantise d.enc d.sat sg.2 xs.2
        let w := if d.space = 2 then endWrite xs.1 core b { d with base := 0 } 0 0 (t * bs) bs q.1 (2 ^ bs - 1)
          else endWrite xs.1 core b d r (32 * g + 31) (g * bs) bs q.1 (2 ^ bs - 1)
        match w.stop with
        | some _ => { w with c := { w.c with flg := flg } }
        | none => let k := addFlg w q.2; { k with c := { k.c with prog := (t + 1) * 32 } }) k

/-- The larger magnitude of two values, skipping NaN (11 R282). -/
def magMax (a : Option Cv.XV) (x : Cv.XV) : Option Cv.XV :=
  match x, a with
  | .nan, a => a
  | x, none => some x
  | x, some y => if Cv.magLt y x then some x else some y

/-- A value without its sign. -/
def magOf : Cv.XV → Cv.XV
  | .nan => .nan | .inf _ => .inf false | .zero _ => .zero false | .val _ m t => .val false m t

/-- Fold-max: the largest magnitude into the scale word at its home (11 R282), once. A peer performs the update as it
does an atomic, and answers (16 R411). -/
def runFold (core : Nat) (b : Blk) (s : End) (k : CRun) : CRun :=
  let bs := Cv.blockSize s.enc
  if b.nrow * b.ncol ≤ k.c.prog then k
  else
  let q := (List.range (b.nrow * b.ncol)).foldl (fun (acc : CRun × Option Cv.XV) j =>
    match acc.1.stop with
    | some _ => acc
    | none =>
      let r := j / b.ncol
      let c := j % b.ncol
      let n := if Cv.isBlock s.enc then bs else s.e
      let off := if Cv.isBlock s.enc then c / 32 * bs else c * s.e
      let sc := scaleOf acc.1 core s r
      let v := endRead sc.1.s core sc.1.c s r c off n
      match sc.1.stop, v.2 with
      | some _, _ => (sc.1, acc.2)
      | none, .stop y => ({ sc.1 with s := v.1, stop := some y, c := { sc.1.c with prog := j } }, acc.2)
      | none, .ok code _ =>
        let x : Cv.XV × Flags :=
          if Cv.isBlock s.enc then
            Cv.blockValue (Cv.isBl8 s.enc) (code % 2 ^ 32) (Cv.blockCode s.enc code (c % 32))
          else (Cv.decode s.enc code, 0)
        let y := match sc.2 with | some l => Cv.scaled false x.1 l | none => (x.1, 0)
        (addFlg { sc.1 with s := v.1 } (x.2 ||| y.2), magMax acc.2 y.1)) (k, none)
  match q.1.stop with
  | some _ => q.1
  | none =>
    let total := b.nrow * b.ncol
    match q.2 with
    | none => { q.1 with c := { q.1.c with prog := total } }
    | some m =>
      let r := Cv.toLog .l32 0 false (magOf m)
      let x := engXlate q.1.s core q.1.c b.aux 4 true
      match x.2 with
      | .error e => { q.1 with s := x.1, stop := some e }
      | .ok p =>
        let k := addFlg { q.1 with s := x.1 } r.2
        let code := Log.encode .l32 r.1
        if p.pr then
          { k with s := (freshBytes (k.s.send (.atomicMsg p.peer core 0 p.pa 0x89 .l32 1 [(BitVec.ofNat 64 code, 0)])) 4).1,
                   c := { k.c with prog := total } }
        else if p.hb then { k with stop := some (.fail 1 b.aux) }
        else if memBad k.s p.pa 4 then { k with stop := some (.fail 5 b.aux) }
        else
          let s := promoteRead k.s core (p.pa / 256)
          let v := homeRead s k.c.ctx p.pa 4
          { k with s := homeWrite v.1 k.c.ctx p.pa 4 (afmaxOf .l32 true v.2 code), c := { k.c with prog := total } }

/-! ### Queues -/

/-- Change the commands of a core. -/
def modCmds (s : State) (core : Nat) (f : Cmd → Cmd) : State :=
  s.modCore core fun k => { k with cmds := k.cmds.map f }

/-- Is it the same command? -/
def sameCmd (a b : Cmd) : Bool :=
  a.entry == b.entry && a.team == b.team && a.q == b.q && a.slot == b.slot && a.seq == b.seq && a.addr == b.addr && a.links == b.links && a.k == b.k

/-- Replace a command by its new form. -/
def putCmd (s : State) (core : Nat) (old new : Cmd) : State :=
  modCmds s core fun d => if sameCmd d old then new else d

/-- Replace the head command of a queue. -/
def putHead (s : State) (core : Nat) (c : Cmd) : State :=
  let rec go : List Cmd → List Cmd
    | [] => []
    | d :: r => if d.q = c.q then c :: r else d :: go r
  s.modCore core fun k => { k with cmds := go k.cmds }

/-- The head command of a queue (11 R274). -/
def headCmd (s : State) (core q : Nat) : Option Cmd := (s.core core).cmds.find? (·.q == q)

/-- The event of a transformation (11 R279). -/
def xfEvent (xf core q : Nat) : Instr :=
  match xf with
  | 0 => .copy core q | 1 => .convert core q | 2 => .quantise core q | 3 => .tileTranspose core q
  | 4 => .gather core q | 5 => .scatter core q | _ => .foldMax core q

/-- A page an engine cannot reach is reported with it as waiter; the command waits (11 R287). -/
def engWait (s : State) (core : Nat) (c : Cmd) (a : Nat) (write : Bool) : State :=
  reportPage s {
    ctx := c.ctx, page := a / 65536, acc := if write then 4 else 8, seq := 0, core := core, slot := 0, eng := true,
    launch := c.launch, waiters := [.cmd core c.q] }

/-- The group that submitted a command, until it has exited (11 R289). -/
def submitter (s : State) (c : Cmd) : Option Nat :=
  let x := s.grp c.slot
  if x.st != .free && x.team == c.team then some c.slot else none

/-- A record of kind 2 names the command; its launch has faults (11 R287). -/
def cmdFault (s : State) (core : Nat) (c : Cmd) (fc : Nat) : State :=
  let b := blkOf c.block
  let addr := match c.addr with | some a => a | none => b.tag + c.q * 4096
  faultRecord s c.ctx { kind := 2, code := fc, addr := addr, core := core, slot := 0, eng := true,
                        psh := c.addr.isNone, launch := some c.launch, notice := submitter s c }

/-- OR conditions into CQST of the submitting group (11 R289). -/
def orCqst (s : State) (c : Cmd) (v : BitVec 7) : State :=
  match submitter s c with
  | some g => s.modGrp g fun x => { x with cqst := tset x.cqst c.q (tget x.cqst 0 c.q ||| v) }
  | none => s

/-- Read the 128 bytes of a block. -/
def readBlock (s : State) (core : Nat) (c : Cmd) (a : Nat) : State × Except Stop (List DWord) :=
  let r := engXlate s core c a 128 false
  match r.2 with
  | .error x => (r.1, .error x)
  | .ok p =>
    if memBad r.1 p.pa 128 then (r.1, .error (.fail 5 a))
    else
      let rd := (List.range 16).foldl (fun (acc : State × List DWord) j =>
        let v := if p.pr || p.hb then freshBytes acc.1 8 else homeRead acc.1 c.ctx (p.pa + 8 * j) 8
        (v.1, acc.2 ++ [BitVec.ofNat 64 v.2])) (if p.pr then r.1.send (.read p.peer p.pa 128) else r.1, [])
      (rd.1, .ok rd.2)

/-- The records a block names, as the kernel's table holds them (11 R296). -/
def takeRecs (s : State) (c : Cmd) : List (Nat × List DWord) :=
  let b := blkOf c.block
  let rs := (s.launch c.launch).records
  (([b.srec, b.drec].eraseDups).filter (· < rs.length)).map fun k => (k, rs.getD k [])

/-! ### Veneer tiles (07 R177, 11 R284) -/

/-- The tiles a block writes, but for those that lie below byte `done` of its destination. -/
def tilesFrom (s : State) (c : Cmd) (done : Nat) : List Nat :=
  let b := blkOf c.block
  if b.dsp ≠ 2 ∨ b.xf = 6 then []
  else
    let d := dstEnd c b
    let n := b.nrow * (if b.xf = 2 then b.ncol / 32 * Cv.blockSize d.enc else b.ncol * d.e)
    let all := tilesOn (s.team c.team) (cmdCore s c)
    (((List.range ((n + 4095) / 4096)).drop (done / 4096)).map (b.dst + ·)).filterMap fun j => all[j]?

/-- The bytes of its destination that a command has written in order from the first. -/
def bytesDone (c : Cmd) : Nat :=
  let b := blkOf c.block
  let d := dstEnd c b
  match b.xf with
  | 2 => c.prog / 32 * Cv.blockSize d.enc
  | 3 => 0
  | _ => c.prog * d.e

/-- The tiles an accepted command still has to write. -/
def tilesLeft (s : State) (c : Cmd) : List Nat :=
  if c.block.isEmpty ∨ c.ending then [] else tilesFrom s c (bytesDone c)

/-- The tiles a command has to write are the engine's, but for those that an `mldb` is still loading. -/
def claimTiles (s : State) (c : Cmd) : State :=
  let ts := tilesLeft s c
  s.modCore (cmdCore s c) fun k =>
    { k with tileSt := ts.foldl (fun a p => if tget a .ready p = .loading then a else tset a p .engine) k.tileSt }

/-- Tiles that a command no longer writes are Ready, but for those that another accepted command still writes. -/
def releaseTiles (s : State) (c : Cmd) (ts : List Nat) : State :=
  let k := cmdCore s c
  let others := (s.cores.flatMap fun e => e.2.cmds).filter fun d => !sameCmd d c && cmdCore s d == k
  let kept := others.flatMap (tilesLeft s)
  let free (a : Tab TileSt) (p : Nat) : Tab TileSt := if tget a .ready p = .engine then tdel a p else a
  s.modCore k fun y => { y with tileSt := (ts.filter fun p => !kept.contains p).foldl free y.tileSt }

/-- May a command write its tiles: none is Loading, and no command accepted before it still writes one of them? -/
def tilesOpen (s : State) (core : Nat) (c : Cmd) : Bool :=
  let k := cmdCore s c
  let before := ((s.core core).cmds.takeWhile fun d => !sameCmd d c).filter fun d => cmdCore s d == k
  (tilesLeft s c).all fun p =>
    tget (s.core k).tileSt .ready p != .loading && !(before.any fun d => (tilesLeft s d).contains p)

/-! ### Acceptance and start -/

/-- The steps of a `cpi` applied to a block (11 R301). -/
def stepBlock (k : Nat) (d : List DWord) : List DWord :=
  let b := blkOf d
  let put (w : DWord) (v : Nat) : DWord := BitVec.ofNat 64 (w.toNat / 2 ^ 57 * 2 ^ 57 + v % 2 ^ 57)
  (d.set 1 (put (Cv.dw d 1) (b.src + k * b.sstep * 256))).set 2 (put (Cv.dw d 2) (b.dst + k * b.dstep * 256))

/-- Find a free run of the chain buffer, lowest first (11 R285). -/
def findRegion (k : Core) (len : Nat) : Option Nat :=
  let used := k.cmds.filterMap (·.region)
  (List.range 65).map (· * 1024) |>.find? fun b =>
    b + len ≤ 65536 && used.all fun u => b + len ≤ u.1 || u.1 + u.2 ≤ b

/-- Start the head command of a queue when its block has been read: its chain-buffer region, the format rules,
then its transformation (11 R274, R276, R285). -/
def startHead (s : State) (core q : Nat) : State :=
  match headCmd s core q with
  | none => s
  | some c =>
    if c.started ∨ c.block.isEmpty ∨ c.wait.isSome ∨ c.ending ∨ c.cancel then s
    else
      let b := blkOf c.block
      let len := min b.cbuf 64 * 1024
      match findRegion (s.core core) len with
      | none => s
      | some base =>
        let c := { c with started := true, region := some (base, len), recs := takeRecs s c }
        let s := s.modCore core fun k => { k with chainBuf := mclear k.chainBuf base len }
        if blockOk c b then (putHead s core c).post (xfEvent b.xf core q)
        else
          let s := releaseTiles s c (tilesFrom s c 0)
          (putHead s core { c with ending := true, st := 4, fc := 3 }).post (.commandEnd core q)

/-- Move a queue on: the event its head command waits for. -/
def kick (s : State) (core q : Nat) : State :=
  match headCmd s core q with
  | none => s
  | some c =>
    if c.wait.isSome then s
    else if c.block.isEmpty then s.post (.commandAccept core)
    else if c.stage = 5 then s.post (.chainNextBlock core q)
    else if c.ending then s.post (.commandEnd core q)
    else if c.started then s.post (xfEvent (blkOf c.block).xf core q)
    else startHead s core q

/-- Move every queue of a core on: what a command gave back may be what another waits for (01 R26, 11 R285). -/
def kickAll (s : State) (core : Nat) : State := eachDo (List.range 4) s fun s q => kick s core q

/-- Tell the `cpf` of the submitting group that a command has ended (11 R305). -/
def tellCpf (s : State) (c : Cmd) (bad : Bool) : State :=
  match submitter s c with
  | none => s
  | some g =>
    let s := s.modGrp g fun x =>
      let mark (p : Pend) : Pend :=
        if p.kind = .cpf ∧ !p.ready ∧ p.aux = c.q ∧ c.seq < p.seq then { p with aux2 := p.aux2 + b2n bad } else p
      { x with cpFail := tset x.cpFail c.q (tget x.cpFail 0 c.q + b2n bad), pend := x.pend.map mark }
    let left (p : Pend) : Bool :=
      s.cores.any fun k => k.2.cmds.any fun d => d.slot == g && d.team == c.team && d.q == p.aux && d.seq < p.seq
    let due := (s.grp g).pend.filter fun p => p.kind == .cpf && !p.ready && !left p
    eachDo due s fun s p =>
      let v := BitVec.ofNat 64 (min p.aux2 63)
      let p' := { p with ready := true, sregs := p.sregs.map fun r => (r.1, v) }
      let s := acquireHalf (s.modGrp g fun x => { x with pend := x.pend.map fun q => if q = p then p' else q }) g 2 2
      if (s.grp g).st = .saved then deliver s g p' else s.post (.atomicReturn (g / 32) (g % 32) p.seq)

/-- The entry is freed; the queues of the core move on (11 R272, R286). -/
def freeEntry (s : State) (core : Nat) (c : Cmd) : State :=
  let s := s.modCore core fun k => { k with cmds := k.cmds.filter fun d => !sameCmd d c }
  let s := s.modTeam c.team fun t => { t with cmdsOut := t.cmdsOut - 1 }
  let s := s.modLaunch c.launch fun l => { l with cmdsOut := l.cmdsOut - 1 }
  let s := tellCpf s c c.bad
  let s := ((s.post (.teamRetire c.team)).post (.producerTeamFinish c.team)).post (.launchEnd c.launch)
  kickAll s core

/-- Drop a block that could not be read at acceptance: a command that did not end with ST = 3 (11 R287, R305). -/
def dropCmd (s : State) (core : Nat) (c : Cmd) (fc : Nat) : State :=
  freeEntry (orCqst (cmdFault s core c fc) c 0x40) core { c with bad := true }

/-- The block of a command is read at its acceptance; a cancellation that came before it acts (11 R273, R287, R304). -/
def acceptOne (s : State) (core : Nat) (c : Cmd) : State :=
  match c.addr with
  | none => s
  | some a =>
    let r := readBlock s core c a
    match r.2 with
    | .error (.page p w) => engWait (putCmd r.1 core c { c with wait := some (p / 65536) }) core c p w
    | .error (.fail fc _) => dropCmd r.1 core c fc
    | .ok ws =>
      let c' := { c with block := stepBlock c.k ws, cancel := c.cancel || c.ctags.contains (blkOf ws).tag }
      let s := claimTiles (putCmd r.1 core c c') c'
      if c'.cancel then s.post (.commandEnd core c.q) else s

/-- A submission of the group has been accepted: WC (02 R35). -/
def acceptPend (s : State) (c : Cmd) : State :=
  match submitter s c with
  | none => s
  | some g => match (s.grp g).pend.find? fun p => p.kind == .copySub && p.seq == c.seq with
    | some p => deliver s g p
    | none => s

/-- The copy unit accepts the submissions that hold entries and reads their blocks; commands that waited for a tile or a
run of the chain buffer go on (11 R272, R273, R284, R287). -/
def execCommandAccept (core : Nat) (s : State) : Host.Outcome State Fault Refusal :=
  let new := (s.core core).cmds.filter fun c => c.block.isEmpty && c.wait.isNone
  let s := eachDo new s fun s c => acceptPend (acceptOne s core c) c
  done (kickAll (eachDo (s.core core).cmds s claimTiles) core)

/-- A pushed command is accepted (11 R278). -/
def execPushedCommand (core : Nat) (s : State) : Host.Outcome State Fault Refusal :=
  let new := (s.core core).cmds.filter fun c => c.addr.isNone && !c.started
  let s := eachDo new s fun s c => acceptPend (claimTiles s c) c
  done (eachDo (List.range 4) s fun s q => startHead s core q)

/-! ### Running a block -/

/-- The runs of adjacent offsets of a line that hold bytes. -/
def byteRuns (f : Nat → Option PeerByte) : List (Nat × List PeerByte) :=
  (List.range 256).foldr (fun i acc =>
    match f i, acc with
    | none, _ => acc
    | some b, (j, bs) :: r => if j = i + 1 then (i, b :: bs) :: r else (i, [b]) :: (j, bs) :: r
    | some b, [] => [(i, [b])]) []

/-- The messages for one line of a peer, or of the host as number 16: whole and compressed where the block and the port
allow, one for each run of bytes otherwise, with the states of mode 0 to 2 (08 R207, 09 R235, 11 R292). -/
def lineMsgs (s : State) (cmpr : Bool) (fem peer line : Nat) (ws : List PeerByte) : List OutMsg :=
  let at_ (i : Nat) : Option PeerByte := (ws.filter fun w => w.pa % 256 == i).getLast?
  let runs := byteRuns at_
  let states (bs : List PeerByte) : List (Nat × Bool) :=
    ((bs.map fun w => w.pa / 4 * 4).eraseDups).map fun w =>
      (w, if fem = 0 then (bs.filter fun m => m.pa / 4 * 4 == w).all (·.full) else fem == 1)
  let port := fld s.dev.peermap (4 * peer) 4
  match runs with
  | [(0, bs)] =>
    let data := bs.map (·.b)
    let num := (data.zip (List.range data.length)).foldl (fun a d => a + d.1.toNat * 2 ^ (8 * d.2)) 0
    let cl := compressLine num
    let packed := bytesOfWord (32 * cl.2.1) cl.2.2
    if peer = 16 then [if data.length = 256 then .hostLine (line * 256) cl.1 packed else .hostWrite (line * 256) data]
    else if data.length = 256 ∧ cmpr ∧ (clcap s (port + 1)).testBit 2 then
      [if fem ≤ 2 then .feLine peer (line * 256) cl.1 packed (states bs) else .line peer (line * 256) cl.1 packed]
    else [if fem ≤ 2 then .feLine peer (line * 256) 0 data (states bs) else .write peer (line * 256) data]
  | runs => runs.map fun r =>
    let data := r.2.map (·.b)
    let pa := line * 256 + r.1
    if peer = 16 then .hostWrite pa data
    else if fem ≤ 2 then .feLine peer pa 0 data (states r.2) else .write peer pa data

/-- An item of a command. -/
def engItem (core : Nat) (c : Cmd) : PItem := { launch := c.launch, team := c.team, eng := some (core, c.q) }

/-- Send what a run wrote outside the device, line by line; the answer counts the items (11 R292, 16 R411). -/
def sendLines (s : State) (core : Nat) (c : Cmd) (cmpr : Bool) (fem : Nat) (ws : List PeerByte) : State × Nat :=
  let lines := (ws.map fun w => (w.peer, w.pa / 256)).eraseDups
  lines.foldl (fun (acc : State × Nat) l =>
    let ms := lineMsgs s cmpr fem l.1 l.2 (ws.filter fun w => w.peer == l.1 && w.pa / 256 == l.2)
    if l.1 = 16 then (eachDo ms acc.1 fun s m => s.send m, acc.2)
    else (eachDo ms acc.1 fun s m => sendItem s l.1 (engItem core c) m, acc.2 + ms.length)) (s, 0)

/-- May the next block of a chain be read (11 R285)? -/
def chainCheck (s : State) (core : Nat) (c : Cmd) (b : Blk) : State × Option Stop :=
  if !b.lnk then (s, none)
  else if 64 ≤ c.links ∨ b.next % 128 ≠ 0 then (s, some (.fail 8 0))
  else
    let r := readBlock s core c b.next
    match r.2 with
    | .ok _ => (r.1, none)
    | .error (.page a w) => (r.1, some (.page a w))
    | .error (.fail _ _) => (r.1, some (.fail 8 0))

/-- What a run of a block leaves: the command waits for a page, or begins to end (11 R286, R287). A tile is Ready when its
last byte is written, or when the command ends (07 R177). -/
def settleRun (core : Nat) (b : Blk) (cmpr : Bool) (fem : Nat) (k : CRun) : State :=
  let sent := sendLines k.s core k.c cmpr fem k.pw
  let c := { k.c with peerOut := k.c.peerOut + sent.2 }
  let all := tilesFrom k.s c 0
  let fin (c : Cmd) (s : State) : State :=
    (putHead (releaseTiles s c all) core { c with ending := true, stage := 1 }).post (.commandEnd core c.q)
  let wait (a : Nat) (w : Bool) (s : State) : State :=
    let s := releaseTiles s c (all.filter fun p => !(tilesLeft s c).contains p)
    engWait (putHead s core { c with wait := some (a / 65536) }) core c a w
  match k.stop with
  | some (.page a w) => wait a w sent.1
  | some (.fail fc a) => fin { c with st := 4, fc := fc, faddr := if fc = 3 then 0 else a } sent.1
  | none =>
    let q := chainCheck sent.1 core c b
    match q.2 with
    | none => fin { c with st := 3 } q.1
    | some (.page a w) => wait a w q.1
    | some (.fail fc _) => fin { c with st := 4, fc := fc } q.1

/-- The 32-byte sectors of the source and the 256-byte units of a destination in memory that element j touches, for a
transformation whose elements have fixed places (10 R262 to R264). -/
def elemKeys (b : Blk) (s d : End) (j : Nat) : List (Bool × Nat) :=
  let r := j / b.ncol
  let c := j % b.ncol
  let bs := Cv.blockSize d.enc
  let src := (endPieces s r (c * s.e) s.e).map fun p => (false, p.1 / 32)
  let dst : List (Nat × Nat) :=
    if 2 ≤ d.space then []
    else if b.xf = 2 then endPieces d r (c / 32 * bs) bs
    else if b.xf = 3 then endPieces d c (r * d.e) d.e
    else endPieces d r (c * d.e) d.e
  src ++ dst.map fun p => (true, p.1 / 256)

/-- The last element up to p before which every sector and unit is whole: none of them is touched on both sides of it. -/
def wholeUpto (keys : Nat → List (Bool × Nat)) (total : Nat) : Nat → Nat → Nat
  | 0, p => p
  | n + 1, p =>
    let after := ((List.range total).drop p).flatMap keys
    match (List.range p).find? fun j => (keys j).any fun x => after.contains x with
    | none => p
    | some j => wholeUpto keys total n j

/-- A run up to where a page stopped it: it writes a line, and reads a sector, whole or not at all, so it goes back to the
last element before which all are whole (10 R262 to R264, 11 R288). Gather and scatter may come back to a line until their
list is done, and go back to where they began (log entry 56). -/
def wholeRun (b : Blk) (s d : End) (start : CRun) (go : Nat → CRun → CRun) : CRun :=
  let total := b.nrow * b.ncol
  let k := go total start
  match k.stop with
  | some (.page a w) =>
    let back : CRun := { start with c := { start.c with scales := k.c.scales } }
    let p := if b.xf ≤ 3 then wholeUpto (elemKeys b s d) total k.c.prog k.c.prog else start.c.prog
    { (if p ≤ start.c.prog then back else go p back) with stop := some (.page a w) }
  | some (.fail _ _) => k
  | none => k

/-- Run the head command of a queue when its block has this transformation. -/
def runXf (core q xf : Nat) (s : State) (go : Blk → End → End → Nat → CRun → CRun) : Host.Outcome State Fault Refusal :=
  match headCmd s core q with
  | none => .next s
  | some c =>
    let b := blkOf c.block
    if !c.started ∨ c.ending ∨ c.wait.isSome ∨ c.cancel ∨ b.xf ≠ xf ∨ !tilesOpen s core c then .next s
    else
      let x := srcEnd c b
      let d := dstEnd c b
      let k := startScales core b x d { s := s, c := c }
      done (settleRun core b d.cmpr (if xf = 6 then 3 else d.fem)
        (if k.stop.isSome then k else wholeRun b x d k (go b x d)))

/-- Copy (11 R279). -/
def execCopy (core q : Nat) (s : State) : Host.Outcome State Fault Refusal := runXf core q 0 s (runMove core)

/-- Convert (11 R280). -/
def execConvert (core q : Nat) (s : State) : Host.Outcome State Fault Refusal := runXf core q 1 s (runMove core)

/-- Quantise (11 R281). -/
def execQuantise (core q : Nat) (s : State) : Host.Outcome State Fault Refusal := runXf core q 2 s (runQuantise core)

/-- Tile transpose (11 R283). -/
def execTileTranspose (core q : Nat) (s : State) : Host.Outcome State Fault Refusal :=
  runXf core q 3 s (runTranspose core)

/-- Gather (11 R283). -/
def execGather (core q : Nat) (s : State) : Host.Outcome State Fault Refusal :=
  runXf core q 4 s fun b x d _ => runIndexed core b x d true

/-- Scatter (11 R283). -/
def execScatter (core q : Nat) (s : State) : Host.Outcome State Fault Refusal :=
  runXf core q 5 s fun b x d _ => runIndexed core b x d false

/-- Fold-max (11 R282). -/
def execFoldMax (core q : Nat) (s : State) : Host.Outcome State Fault Refusal :=
  runXf core q 6 s fun b x _ _ => runFold core b x

/-! ### Endings -/

/-- The place of a completion word. -/
inductive CWord where
  | store (off : Nat)
  | mem (p : Phys)

/-- Resolve the completion word, or what its fault is (11 R445). -/
def cwordOf (s : State) (core : Nat) (c : Cmd) (b : Blk) : State × Except Stop CWord :=
  if b.csp then
    let t := s.team c.team
    if t.size < b.cwa + 4 ∨ clobbers t b.cwa 4 then (s, .error (.fail 1 b.cwa)) else (s, .ok (.store b.cwa))
  else
    let r := engXlate s core c b.cwa 4 true
    match r.2 with
    | .error x => (r.1, .error x)
    | .ok p => if p.fek then (r.1, .ok (.mem p)) else (r.1, .error (.fail 1 b.cwa))

/-- What a status write comes to: written, an item on its way to a peer, or why it cannot be written. -/
inductive StatusX where
  | written
  | sent
  | stop (x : Stop)
  deriving DecidableEq, Repr

/-- The status write of a block: DW8 to DW10, or why it cannot be written (11 R275, R286, R445). One to a peer is an item,
whose acknowledgement the ending waits for (11 R286, R292). -/
def writeStatus (s : State) (core : Nat) (c : Cmd) (a : Nat) : State × StatusX :=
  let r := engXlate s core c a 128 true
  match r.2 with
  | .error x => (r.1, .stop x)
  | .ok p =>
    let d8 := c.st * 2 ^ 60 + c.fc * 2 ^ 52 + c.flg.toNat * 2 ^ 48
    let ds := [d8, c.prog, c.faddr % 2 ^ 57]
    if p.pr || p.hb then
      let bs := ds.flatMap (bytesOfWord 8)
      if p.hb then (r.1.send (.hostWrite (p.pa + 64) bs), .written)
      else (sendItem r.1 p.peer (engItem core c) (.write p.peer (p.pa + 64) bs), .sent)
    else if memBad r.1 (p.pa + 64) 24 then (r.1, .stop (.fail 5 a))
    else (writeDws r.1 c.ctx (p.pa + 64) ds, .written)

/-- What a completion fill comes to: performed, waiting for its word to be empty, here or at a peer, or performed by a
peer, which has to acknowledge it. -/
inductive FillX where
  | performed
  | waits (o : WObj)
  | waitsPeer (peer pa : Nat)
  | sent
  deriving DecidableEq, Repr

/-- The slot that a message of a command names, beyond those of groups (08 R210; log entry 44). -/
def engSlot (c : Cmd) : Nat := 64 + c.entry

/-- The completion fill, with release at device scope (08 R208, 10 R260, 11 R286). -/
def fillWord (s : State) (core : Nat) (c : Cmd) (b : Blk) (w : CWord) : State × FillX :=
  let v := if c.st = 3 ∧ !c.skip then b.cval else Nat.xor b.cval 0x80000000
  match w with
  | .store off =>
    let t := s.team c.team
    let k := cmdCore s c
    let o := winObj t k off
    if isFull s o then (s, .waits (wordOf o)) else (setFE (winWrite s t k off 4 v) o true, .performed)
  | .mem p =>
    if p.pr then
      -- whether the word was empty is the peer's answer (log entry 7)
      let m : OutMsg := .feMsg p.peer core (engSlot c) p.pa (.write 3 (bytesOfWord 4 v))
      let ok := freshBytes s 1
      if ok.2 % 2 = 1 then (sendItem ok.1 p.peer (engItem core c) m, .sent) else (ok.1.send m, .waitsPeer p.peer p.pa)
    else if isFull s (.mem p.pa) then (s, .waits (.mem (p.pa / 4 * 4)))
    else (setFE (setPromo (homeWrite s c.ctx p.pa 4 v) (p.pa / 256) none) (.mem p.pa) true, .performed)

/-- The outcome of a block is counted: CQST, the fault queue and the launch (11 R286, R287, R289). -/
def countEnd (s : State) (core : Nat) (c : Cmd) : State :=
  let v : Nat := c.flg.toNat + (if c.st = 4 ∨ c.st = 6 then 16 else 0) + (if c.st = 5 then 32 else 0)
  let s := orCqst s c (BitVec.ofNat 7 v)
  if c.st = 4 then cmdFault (if c.fc = 5 then deviceError s else s) core c c.fc else s

/-- The step after a block's ending: the next block of its chain, or the entry is freed (11 R285, R286). -/
def afterEnd (s : State) (core : Nat) (c : Cmd) (b : Blk) : State :=
  let c := { c with bad := c.bad || c.st != 3, chainFlg := c.chainFlg ||| c.flg }
  if b.lnk && c.fc != 8 && c.links < 64 && b.next % 128 == 0 then
    (putCmd s core c { c with stage := 5, ending := true, fillAt := none }).post (.chainNextBlock core c.q)
  else freeEntry s core c

/-- Perform the completion fill of a command, or leave it where it waits: a fill that was woken returns to its place
(08 R203, R208; log entry 56). `old` is the command as its entry holds it. -/
def fillStep (s : State) (core : Nat) (old c : Cmd) (b : Blk) (w : CWord) : State :=
  let f := fillWord s core c b w
  match f.2 with
  | .performed => afterEnd f.1 core c b
  | .sent => putCmd f.1 core old { c with fillAt := none, fillPeer := none, stage := 4, peerOut := 1 }
  | .waitsPeer peer pa => putCmd f.1 core old { c with fillAt := none, fillPeer := some (peer, pa), stage := 3 }
  | .waits o =>
    let n := if old.fillAt = some o then (f.1, old.fillArr) else nextArrival f.1
    linkWaiter (putCmd n.1 core old { c with fillAt := some o, fillArr := n.2, stage := 3 })
      { obj := o, who := .engine core c.q, fe := 3, arr := n.2 }

/-- Step 3 of R286 and what follows it. -/
def fillEnd (s : State) (core : Nat) (old c : Cmd) (cw : Except Stop CWord) : State :=
  let b := blkOf c.block
  match cw with
  | .ok place => fillStep s core old c b place
  | .error _ => afterEnd s core c b

/-- One command ends under R286, as far as it can go. DESIGN CHOICE (log entry 61): the completion word of a block that was
not run and that cannot be filled leaves it ST = 6, without a fault record. -/
def endCmd (s : State) (core : Nat) (c : Cmd) : State :=
  let b := blkOf c.block
  if c.stage ≠ 1 ∨ c.peerOut ≠ 0 ∨ c.wait.isSome then s
  else if c.skip && !b.cv then afterEnd s core c b
  else
    let w : State × Except Stop CWord := if b.cv then cwordOf s core c b else (s, .error (.fail 0 0))
    match w.2, b.cv with
    | .error (.page a wr), true =>
      engWait (putCmd w.1 core c { c with wait := some (a / 65536) }) core c a wr
    | cw, _ =>
      -- a completion word that cannot be filled ends the command with a fault
      let c' := match cw with
        | .error (.fail fc a) => if b.cv ∧ !c.skip then { c with st := 4, fc := fc, faddr := a } else c
        | .error (.page _ _) => c
        | .ok _ => c
      let st : State × StatusX := match c.addr with
        | some a => writeStatus w.1 core c' a
        | none => (w.1, .written)
      match st.2 with
      | .stop (.page a wr) => engWait (putCmd st.1 core c { c with wait := some (a / 65536) }) core c a wr
      | .stop (.fail fc _) =>
        let c' := { c' with st := 4, fc := fc }
        fillEnd (countEnd st.1 core c') core c c' cw
      | .sent => putCmd (countEnd st.1 core c') core c { c' with stage := 2, peerOut := 1 }
      | .written => fillEnd (countEnd st.1 core c') core c c' cw

/-- The peer has acknowledged the status: step 3 (11 R286). -/
def statusDone (s : State) (core : Nat) (c : Cmd) : State :=
  let b := blkOf c.block
  if !b.cv then afterEnd s core c b
  else
    let w := cwordOf s core c b
    match w.2 with
    | .error (.page a wr) => engWait (putCmd w.1 core c { c with wait := some (a / 65536) }) core c a wr
    | cw => fillEnd w.1 core c c cw

/-- Was a command's waiting fill woken: fewer entries stand at its word than fills of its queue wait there? One that waits
at a peer is woken by a message; one that waited for a page stands nowhere. -/
def fillWoken (s : State) (core : Nat) (c : Cmd) : Bool :=
  match c.fillAt with
  | none => c.fillPeer.isNone
  | some o =>
    let fills := (s.core core).cmds.filter fun d => d.q == c.q && d.fillAt == some o
    let entries := s.headland.filter fun w => w.who == .engine core c.q && w.obj == o
    decide (entries.length < fills.length)

/-- A fill that waited is tried again. A word that it may not fill any more ends the command with a fault (11 R445). -/
def retryFill (s : State) (core : Nat) (c : Cmd) : State :=
  let b := blkOf c.block
  let w := cwordOf s core c b
  match w.2 with
  | .ok place => fillStep w.1 core c c b place
  | .error (.page a wr) =>
    engWait (putCmd w.1 core c { c with wait := some (a / 65536), fillPeer := none }) core c a wr
  | .error (.fail _ _) =>
    let c' := { c with stage := 1, fillAt := none, fillPeer := none }
    endCmd (putCmd w.1 core c c') core c'

/-- One step of the ending of a command (11 R286). -/
def endStep (s : State) (core : Nat) (c : Cmd) : State :=
  if c.stage = 1 then endCmd s core c
  else if c.stage = 2 then (if c.peerOut = 0 ∧ c.wait.isNone then statusDone s core c else s)
  else if c.stage = 3 then (if c.wait.isNone && fillWoken s core c then retryFill s core c else s)
  else if c.stage = 4 ∧ c.peerOut = 0 then afterEnd s core c (blkOf c.block)
  else s

/-- A command's fill waits at a peer's word, by a proxy there (08 R208, R210). -/
def fillAtPeer (c : Cmd) : Bool := c.fillPeer.isSome

/-- A message about the proxy of a command's fill at a peer's word (08 R203, R210; log entry 44). -/
def tellFill (s : State) (core : Nat) (c : Cmd) (m : PeerAccess) : State :=
  match c.fillPeer with
  | some (peer, pa) => s.send (.feMsg peer core (engSlot c) pa m)
  | none => s

/-- The peer did not acknowledge a fill: the command ends with FC = 7 (16 R411). -/
def fillLost (s : State) (core : Nat) (c : Cmd) : State :=
  let c' := { c with st := 4, fc := 7, peerOut := 0, fillPeer := none }
  let s := match c.addr with | some a => (writeStatus s core c' a).1 | none => s
  afterEnd (countEnd s core c') core c' (blkOf c.block)

/-- Cancel a command that has not ended: its tiles are released (11 R290). -/
def cancelOne (s : State) (core : Nat) (c : Cmd) : State :=
  let own (f : OpenFault) : Bool := f.ctx == c.ctx && c.wait == some f.page
  let leave (f : OpenFault) : OpenFault :=
    if own f then { f with waiters := f.waiters.filter (· != .cmd core c.q) } else f
  let s := { s with faults := s.faults.map leave }
  putCmd (releaseTiles s c (tilesFrom s c 0)) core c
    { c with ending := true, stage := 1, st := 5, fc := 6, wait := none, cancel := false }

/-- Commands of a queue end under R286: cancelled ones, and the one whose payload has ended. -/
def execCommandEnd (core q : Nat) (s : State) : Host.Outcome State Fault Refusal :=
  let hit := (s.core core).cmds.filter fun c => c.q == q && c.cancel && !c.ending && !c.block.isEmpty
  let s := eachDo hit s fun s c => cancelOne s core c
  let due := (s.core core).cmds.filter fun c => c.q == q && c.ending
  done (eachDo due s fun s c => endStep s core c)

/-- A completion fill that waited is performed (08 R208, 11 R286); one of a saved team waits for its restore. -/
def execEngineCompletionFill (core q : Nat) (s : State) : Host.Outcome State Fault Refusal :=
  if Config.numCores ≤ core then .next s
  else
    let due := (s.core core).cmds.filter fun c => c.q == q && c.ending && c.stage == 3
    done (eachDo due s fun s c => endStep s core c)

/-- The next block of a chain is read: it runs, or ends unrun after a block that did not end with ST = 3, or after a
cancellation (11 R285, R286, R290). -/
def execChainNextBlock (core q : Nat) (s : State) : Host.Outcome State Fault Refusal :=
  match (s.core core).cmds.find? fun c => c.q == q && c.stage == 5 && c.wait.isNone with
  | none => .next s
  | some c =>
    let b := blkOf c.block
    let r := readBlock s core c b.next
    match r.2 with
    | .error (.page a w) => done (engWait (putCmd r.1 core c { c with wait := some (a / 65536) }) core c a w)
    | .error (.fail _ _) =>
      if c.bad ∨ c.cancel then done (freeEntry r.1 core c)
      else
        -- NEXT, which could be read before the ending, cannot be read any more
        let c' := { c with st := 4, fc := 8, bad := true }
        let s := match c.addr with | some a => (writeStatus r.1 core c' a).1 | none => r.1
        done (freeEntry (countEnd s core c') core c')
    | .ok ws =>
      let n : Cmd := { c with addr := some b.next, block := ws, links := c.links + 1, prog := 0, flg := 0,
                              faddr := 0, st := 0, fc := 0, ending := false, stage := 1, scales := [], cancel := false }
      if c.bad ∨ c.cancel then
        let s := if c.cancel then orCqst r.1 c 0x20 else r.1
        done ((putCmd s core c { n with ending := true, st := 6, fc := 9, skip := true }).post (.commandEnd core q))
      else
        let n := { n with recs := takeRecs r.1 n }
        let nb := blkOf ws
        let s := claimTiles (putCmd r.1 core c n) n
        if blockOk n nb then done (s.post (xfEvent nb.xf core q))
        else
          let s := releaseTiles s n (tilesFrom s n 0)
          done ((putCmd s core n { n with ending := true, st := 4, fc := 3 }).post (.commandEnd core q))

/-! ### Instructions -/

/-- A block address: MISALIGN, then PROT (11 R300). -/
def blockAddrCheck (a : Nat) : Option Nat :=
  if a % 128 ≠ 0 then some 0x05 else if 2 ^ 57 ≤ a then some 0x06 else none

/-- Submit n consecutive blocks as n commands (11 R300, R301). -/
def submit (s : State) (f : FmtC) (n k : Nat) : Host.Outcome State Fault Refusal :=
  let g := s.cur
  let a := (readS s g f.sa.toNat).toNat
  match blockAddrCheck a with
  | some code => done (trap s g code a s.g.em)
  | none =>
    if !entriesFree s g n then .next (waitEntries s g)
    else
      let s := eachDo (List.range n) s fun s j =>
        takeEntry s g { q := f.qn.toNat, ctx := 0, launch := 0, team := 0, slot := g, seq := 0,
                        addr := some (a + 128 * j), block := [], k := k }
      let s := addPend s g { kind := .copySub, ready := false }
      .next (finishVar (s.post (.commandAccept (g / 32))) g 1 2 1)

/-- `cpq` (11 R300). -/
def execCpq (f : FmtC) (s : State) : Host.Outcome State Fault Refusal := submit s f f.cnt.toNat 0

/-- `cpi` (11 R301). -/
def execCpi (f : FmtC) (s : State) : Host.Outcome State Fault Refusal := submit s f 1 f.imm.toNat

/-- The commands a group submitted that have not ended, of one queue or of all; after a migration some are on
the core it left (11 R291). -/
def groupCmds (s : State) (g : Nat) (q : Option Nat) : List Cmd :=
  (s.cores.flatMap fun k => k.2.cmds).filter fun c => c.slot == g && c.team == (s.grp g).team && q.all (· == c.q)

/-- A fixed-latency scalar result of class TC1 (03 R69). -/
def copyScalar (s : State) (f : FmtC) (v : Nat) : Host.Outcome State Fault Refusal :=
  let g := s.cur
  .next (finish (writeS s g f.sa.toNat (BitVec.ofNat 64 v)) g 2 1 2 1 1 0 [.s f.sa.toNat])

/-- `cpl`: the level of the copy unit (11 R302, 14 R381). -/
def execCpl (f : FmtC) (s : State) : Host.Outcome State Fault Refusal :=
  let g := s.cur
  if isDet s g then
    if (groupCmds s g none).isEmpty then copyScalar s f 0x30 else .next (hold s g)
  else
    copyScalar s f (Config.numEntries - (s.core (g / 32)).cmds.length +
      (groupCmds s g (some f.qn.toNat)).length * 2 ^ 8 + (groupCmds s g none).length * 2 ^ 16)

/-- `cps`: CQST, cleared under `.clr` (11 R303, 14 R381). -/
def execCps (f : FmtC) (s : State) : Host.Outcome State Fault Refusal :=
  let g := s.cur
  let q := f.qn.toNat
  if isDet s g && !(groupCmds s g (some q)).isEmpty then .next (hold s g)
  else
    let v := tget s.g.cqst 0 q
    let s := if f.cnt.getLsbD 0 then s.modGrp g fun x => { x with cqst := tset x.cqst q 0 } else s
    copyScalar s f v.toNat

/-- A cancellation of a queue by tag, or of all of it, as it reaches a command: a block that has not been read takes it
when it is; a chain whose present block is ending runs no further one (11 R290, R304). -/
def cancelMark (q tm tag : Nat) (all : Bool) (d : Cmd) : Cmd :=
  if d.q ≠ q ∨ d.team ≠ tm ∨ (d.ending ∧ !(blkOf d.block).lnk) then d
  else if all then { d with cancel := true }
  else if d.block.isEmpty then { d with ctags := tag :: d.ctags }
  else if (blkOf d.block).tag = tag then { d with cancel := true } else d

/-- `cpc`: cancel the team's commands of a queue (11 R304). -/
def execCpc (f : FmtC) (s : State) : Host.Outcome State Fault Refusal :=
  let g := s.cur
  let q := f.qn.toNat
  let tm := s.g.team
  let cores := (s.cores.filter fun k => k.2.cmds.any fun d => d.q == q && d.team == tm).map Prod.fst
  let s := eachDo cores s fun s c =>
    (modCmds s c (cancelMark q tm (f.imm.toNat % 2 ^ 12) (f.imm.getLsbD 12))).post (.commandEnd c q)
  .next (finishVar (retireNow s g) g 1 2 1)

/-- `cpf`: wait for the commands submitted to a queue; the answer counts those that failed (11 R305). -/
def execCpf (f : FmtC) (s : State) : Host.Outcome State Fault Refusal :=
  let g := s.cur
  let q := f.qn.toNat
  let n := tget s.g.cpFail 0 q
  let due := (groupCmds s g (some q)).isEmpty
  let p : Pend := { kind := .cpf, ready := due, aux := q, aux2 := n,
                    sregs := [(f.sa.toNat, BitVec.ofNat 64 (min n 63))] }
  let x := s.g
  let s := addPend s g p
  let s := if due then (acquireHalf s g 2 2).post (.atomicReturn (g / 32) (g % 32) x.seq) else s
  .next (finishVar s g 1 2 1)

end Sys2Proof.Machine
end

