-- ==== Sys2Proof/Machine/Sync.lean ====
section
/-! DEFINITION. Fences, team barriers, wide and grid barriers, monitors, and tasks from programs
(10 R265 to R270, 12 R324 to R338). -/

namespace Sys2Proof.Machine

open State

/-! ### Fences -/

/-- `fence`: complete at once, or outstanding until the work before it has come to its end (10 R270). -/
def fenceOp (s : State) (f : FmtY) (sq : Bool) : Host.Outcome State Fault Refusal :=
  let g := s.cur
  let as := f.imm.toNat / 4 % 4
  let ss := f.imm.toNat % 4
  let ready := fenceReady s.g as ss s.g.seq
  let s := releaseHalf s g as ss
  if ready then .next (finishVar (retireNow (completeFence s g as ss sq) g) g 1 2 1)
  else
    .next (finishVar (addPend (askRelease s g as ss) g { kind := .fence, ready := false, aux := as * 4 + ss, aux2 := b2n sq }) g 1 2 1)

/-- `fence` (10 R269). -/
def execFence (f : FmtY) (s : State) : Host.Outcome State Fault Refusal := fenceOp s f false

/-- `fence.sc`: with a ticket of the SC sequencer (10 R266, R269). -/
def execFenceSc (f : FmtY) (s : State) : Host.Outcome State Fault Refusal := fenceOp s f true

/-! ### Team barriers -/

/-- The address of a barrier object (12 R326). -/
def barAddr (s : State) (f : FmtY) : Nat := (readS s s.cur f.s.toNat).toNat + 16 * f.idx.toNat

/-- A scalar or predicate result of a synchronisation instruction, variable-latency (12 R324). -/
def syncResult (s : State) (g : Nat) (sregs : List (Nat × DWord)) (preds : List (Nat × Bool)) : State :=
  let x := s.grp g
  let low := lowMask x.gw
  let ps := preds.map fun p => (p.1, BitVec.allOnes 64, if p.2 then low else 0)
  let s := addPend s g { kind := .sync, sregs := sregs, preds := ps }
  finishVar (s.post (.atomicReturn (g / 32) (g % 32) x.seq)) g 1 2 1

/-- A synchronisation instruction without a result goes on. -/
def syncDone (s : State) (g : Nat) : State := finishVar (retireNow s g) g 1 2 1

/-- A barrier object (12 R326). -/
structure BarObj where
  ph : Nat
  exp : Nat
  arr : Nat
  obs : Nat
  nr : Nat
  nw : Nat
  sh : Bool
  deriving DecidableEq, Repr

/-- The object in the 16 bytes of the window (12 R326). -/
def barOf (v : Nat) : BarObj :=
  { exp := v % 2 ^ 16, ph := v / 2 ^ 16 % 2 ^ 16, obs := v / 2 ^ 32 % 2 ^ 16, arr := v / 2 ^ 48 % 2 ^ 16,
    nw := v / 2 ^ 64 % 64, nr := v / 2 ^ 72 % 64, sh := v / 2 ^ 96 % 2 == 1 }

/-- The 16 bytes of an object. -/
def barBytes (b : BarObj) : Nat :=
  b.exp % 2 ^ 16 + b.ph % 2 ^ 16 * 2 ^ 16 + b.obs % 2 ^ 16 * 2 ^ 32 + b.arr % 2 ^ 16 * 2 ^ 48 + b.nw % 64 * 2 ^ 64 +
    b.nr % 64 * 2 ^ 72 + b2n b.sh * 2 ^ 96

/-- Read an object. -/
def barRead (s : State) (tm e : Nat) : BarObj :=
  let t := s.team tm
  barOf (winRead s t t.core e 16)

/-- Write an object; the team knows which objects are sync-held. -/
def barWrite (s : State) (tm e : Nat) (b : BarObj) : State :=
  let t := s.team tm
  let s := winWrite s t t.core e 16 (barBytes b)
  s.modTeam tm fun t => { t with barriers := if b.sh then sins t.barriers e else sdel t.barriers e }

/-- Wake the members that wait at an object, as arrivals or as waiters, in park order. -/
def barWake (s : State) (tm e : Nat) (arrivals : Bool) : State :=
  let t := s.team tm
  let here (q : Nat × Nat × Bool) : Bool := q.1 == e && q.2.2 == arrivals
  let s := s.modTeam tm fun t => { t with barQ := t.barQ.filter fun q => !here q }
  eachDo (t.barQ.filter here) s fun s q => wakeGroup s ((teamGroups t).getD q.2.1 0)

/-- Complete the phase (12 R328). -/
def barComplete (s : State) (tm e : Nat) (b : BarObj) : State :=
  let s := barWrite s tm e { b with ph := (b.ph + 1) % 2 ^ 16, arr := 0, obs := b.nw, nw := 0 }
  barWake s tm e false

/-- Park at an object (12 R328, R329). -/
def barPark (s : State) (g e : Nat) (arrival : Bool) : State :=
  let x := s.grp g
  let tm := x.team
  let s := charge (occupy s g 1 2 1) g 1
  let s := s.modTeam tm fun t => { t with barQ := t.barQ ++ [(e, x.member, arrival)] }
  park s g { cause := if arrival then .barArrive tm e else .barWait tm e, mask := x.em, pc := x.pc }

/-- The checks every barrier instruction shares: MISALIGN, and PROT outside the scratchpad (12 R326). -/
def barCheck (s : State) (e : Nat) : Option Nat :=
  if e % 16 ≠ 0 then some 0x05 else if (s.teamOf s.cur).scr < e + 16 then some 0x06 else none

/-- Do the 16 bytes of an object hold an uncorrectable error (13 R361)? -/
def barBad (s : State) (tm e : Nat) : Bool :=
  let t := s.team tm
  storeBad s (storeCore t t.core e) (t.frame + e) 16

/-- A barrier instruction: its checks, then its step on the object at address e. -/
def barInstr (s : State) (f : FmtY) (op : Nat → BarObj → State) : Host.Outcome State Fault Refusal :=
  let g := s.cur
  let e := barAddr s f
  match barCheck s e with
  | some code => done (trap s g code e s.g.em)
  | none =>
    if barBad s s.g.team e then done (trap s g 0x0E e s.g.em) else done (op e (barRead s s.g.team e))

/-- PROT at an object (12 R328). -/
def barProt (s : State) (e : Nat) : State := trap s s.cur 0x06 e s.g.em

/-- `bara.init` (12 R328). -/
def execBaraInit (f : FmtY) (s : State) : Host.Outcome State Fault Refusal :=
  barInstr s f fun e b =>
    let n := f.imm.toNat / 4 % 32 + 1
    if !b.sh then
      syncDone (barWrite s s.g.team e { ph := 0, exp := n, arr := 0, obs := 0, nr := 0, nw := 0, sh := true }) s.cur
    else if b.exp ≠ n then barProt s e
    else syncDone s s.cur

/-- `bara.free` (12 R328). -/
def execBaraFree (f : FmtY) (s : State) : Host.Outcome State Fault Refusal :=
  barInstr s f fun e b =>
    if b.sh ∧ (b.nw ≠ 0 ∨ b.nr ≠ 0 ∨ b.obs ≠ 0) then barProt s e
    else syncDone (barWrite s s.g.team e (barOf 0)) s.cur

/-- An accepted arrival, or a departure: the object afterwards, completed when all have arrived (12 R328). -/
def barStep (s : State) (tm e : Nat) (b : BarObj) (drop : Bool) : State :=
  let b := if drop then { b with exp := b.exp - 1 } else { b with arr := b.arr + 1 }
  if 0 < b.exp ∧ b.exp ≤ b.arr then barComplete s tm e b else barWrite s tm e b

/-- `bara.arr` and `bara.drop` (12 R328): a release at team scope over both spaces. -/
def barArrive (s : State) (f : FmtY) (drop : Bool) : Host.Outcome State Fault Refusal :=
  barInstr s f fun e b =>
    let g := s.cur
    let tm := s.g.team
    if !b.sh ∨ b.exp = 0 then barProt s e
    else if !releaseReady s.g 1 2 then hold s g
    else
      let s := releaseHalf s g 1 2
      if 0 < b.obs then barPark (barWrite s tm e { b with nr := b.nr + 1 }) g e true
      else syncResult (barStep s tm e b drop) g [(f.d.toNat, BitVec.ofNat 64 b.ph)] []

/-- `bara.arr` (12 R328). -/
def execBaraArr (f : FmtY) (s : State) : Host.Outcome State Fault Refusal := barArrive s f false

/-- `bara.drop` (12 R328). -/
def execBaraDrop (f : FmtY) (s : State) : Host.Outcome State Fault Refusal := barArrive s f true

/-- `barw`: wait for the completion of a phase (12 R329). -/
def execBarw (f : FmtY) (s : State) : Host.Outcome State Fault Refusal :=
  barInstr s f fun e b =>
    let g := s.cur
    let tm := s.g.team
    let p := (readS s g f.a.toNat).toNat % 2 ^ 16
    if !b.sh then barProt s e
    else if b.ph ≠ p then
      let s := if s.g.replay then
          let b := { b with obs := b.obs - 1 }
          if b.obs = 0 then barWake (barWrite s tm e { b with nr := 0 }) tm e true else barWrite s tm e b
        else s
      syncDone (acquireHalf s g 1 2) g
    else barPark (barWrite s tm e { b with nw := b.nw + 1 }) g e false

/-- `bart.arr`: an arrival that is refused instead of parked (12 R330). -/
def execBartArr (f : FmtY) (s : State) : Host.Outcome State Fault Refusal :=
  barInstr s f fun e b =>
    let g := s.cur
    let r := [(f.d.toNat, BitVec.ofNat 64 b.ph)]
    let pb := f.b.toNat % 8
    if !b.sh ∨ b.exp = 0 then barProt s e
    else if !releaseReady s.g 1 2 then hold s g
    else if 0 < b.obs then syncResult s g r [(pb, false)]
    else syncResult (barStep (releaseHalf s g 1 2) s.g.team e b false) g r [(pb, true)]

/-- `bart.test` (12 R330). -/
def execBartTest (f : FmtY) (s : State) : Host.Outcome State Fault Refusal :=
  barInstr s f fun e b =>
    let g := s.cur
    let v := b.ph != (readS s g f.a.toNat).toNat % 2 ^ 16
    if !b.sh then barProt s e
    else syncResult (if v then acquireHalf s g 1 2 else s) g [] [(f.b.toNat % 8, v)]

/-! ### Grid barriers -/

/-- Post a `gbar` to the command processor; the group is held until it answers (12 R333). -/
def gbarSend (s : State) (f : FmtY) (form : Nat) (val : DWord) (release : Bool) : Host.Outcome State Fault Refusal :=
  let g := s.cur
  let x := s.g
  let c := s.ctxOf g
  let k := f.idx.toNat
  if isDet s g then done (trap s g 0x08 0 x.em)
  else if !(s.ctx c).bar then done (trap s g 0x06 k x.em)
  else if release && !releaseReady x 3 3 then .next (hold (askRelease s g 3 3) g)
  else if s.greqs.any fun r => r.core * 32 + r.slot == g then .next (hold s g)
  else
    let s := if release then releaseHalf s g 3 3 else s
    let r : GReq := { core := g / 32, slot := g % 32, ctx := c, k := k, form := form, val := val,
                      sd := f.d.toNat, seq := x.seq }
    .next (hold ({ s with greqs := s.greqs ++ [r] }.post .gridBarrierRequest) g)

/-- `gbar.init` (12 R333). -/
def execGbarInit (f : FmtY) (s : State) : Host.Outcome State Fault Refusal :=
  gbarSend s f 3 (readS s s.cur f.s.toNat) false

/-- `gbar.arr` (12 R333): a release at device scope (10 R254). -/
def execGbarArr (f : FmtY) (s : State) : Host.Outcome State Fault Refusal := gbarSend s f 0 0 true

/-- `gbar.ntf`: an arrival that asks for a message (12 R333). -/
def execGbarNtf (f : FmtY) (s : State) : Host.Outcome State Fault Refusal := gbarSend s f 2 0 true

/-- `gbar.wait` (12 R333). -/
def execGbarWait (f : FmtY) (s : State) : Host.Outcome State Fault Refusal :=
  gbarSend s f 1 (readS s s.cur f.a.toNat) false

/-- A message for a group's q15; a full queue delays it (12 R333, 16 R415). -/
def pushQ15 (s : State) (g : Nat) (e : QEntry) : State :=
  s.modGrp g fun x =>
    if x.q.q15in.length < 4 ∧ x.q.owed.isEmpty then { x with q := { x.q with q15in := x.q.q15in ++ [e] } }
    else { x with q := { x.q with owed := x.q.owed ++ [e] } }

/-- Change a counter of a context. -/
def setGctr (s : State) (c k : Nat) (q : GCtr) : State := s.modCtx c fun x => { x with gctrs := tset x.gctrs k q }

/-- Complete the phase of a counter (12 R333). A group that gets a message has acquired at device scope (10 R254). -/
def gctrComplete (s : State) (c k : Nat) (q : GCtr) : State :=
  let q' : GCtr := { q with ph := q.ph + 1, arr := 0, obs := q.waiters.length, waiters := [], owed := [] }
  let msg : QEntry := [BitVec.ofNat 32 (0x01 * 2 ^ 24 + k * 2 ^ 16 + q.ph.toNat)]
  let s := eachDo q.waiters (setGctr s c k q') wakeGroup
  eachDo q.owed s fun s g => acquireHalf (pushQ15 s g msg) g 2 2

/-- Park a group at a counter. -/
def gbarPark (s : State) (g : Nat) (cause : Cause) : State :=
  let x := s.grp g
  park (charge (occupy s g 1 2 1) g 1) g { cause := cause, mask := x.em, pc := x.pc }

/-- The command processor performs the oldest request of a group (12 R333). -/
def execGridBarrierRequest (s : State) : Host.Outcome State Fault Refusal :=
  match s.greqs with
  | [] => .next s
  | r :: rest =>
    let s := { s with greqs := rest }
    let g := r.core * 32 + r.slot
    let em := (s.grp g).em
    let q := tget (s.ctx r.ctx).gctrs {} r.k
    let prot := trap s g 0x06 r.k em
    done (match r.form with
      | 3 =>
        let n := r.val.toNat
        if n = 0 ∨ 2 ^ 24 ≤ n ∨ !q.waiters.isEmpty then prot
        else
          let s := setGctr s r.ctx r.k { q with ph := 0, exp := n, arr := 0, obs := 0, refused := [] }
          syncDone (eachDo q.refused s wakeGroup) g
      | 1 =>
        if q.ph.toNat ≠ r.val.toNat % 2 ^ 16 then
          let s := if (s.grp g).replay then
              if q.obs - 1 = 0 then
                eachDo q.refused (setGctr s r.ctx r.k { q with obs := 0, refused := [] }) wakeGroup
              else setGctr s r.ctx r.k { q with obs := q.obs - 1 }
            else s
          syncDone (acquireHalf s g 2 2) g
        else gbarPark (setGctr s r.ctx r.k { q with waiters := q.waiters ++ [g] }) g (.gbarWait r.ctx r.k)
      | form =>
        if q.exp = 0 then prot
        else if 0 < q.obs then
          gbarPark (setGctr s r.ctx r.k { q with refused := q.refused ++ [g] }) g (.gbarArrive r.ctx r.k)
        else
          let q' := { q with arr := q.arr + 1, owed := if form = 2 then q.owed ++ [g] else q.owed }
          let s := if q'.exp ≤ q'.arr then gctrComplete s r.ctx r.k q' else setGctr s r.ctx r.k q'
          syncResult s g [(r.sd, BitVec.ofNat 64 q.ph.toNat)] [])

/-! ### Wide barriers -/

/-- Has a team arrived: every group of it that has not exited is parked at `tend` (12 R332)? -/
def teamArrived (s : State) (tm : Nat) (device : Bool) : Bool :=
  let gs := (membersOf s tm).filter fun g => (s.grp g).st != .exited
  !gs.isEmpty && gs.all fun g => parkedOn g device
where
  parkedOn (g : Nat) (device : Bool) : Bool :=
    match (s.grp g).park with
    | some r => r.cause == .wide device && !r.woken
    | none => false

/-- The teams of a launch that a wide barrier of one scope waits for (12 R332). -/
def wideTeams (s : State) (l : Nat) (device : Bool) (k : Nat) : List Nat :=
  (s.teams.filter fun e => e.2.launch == l && e.2.st != .retired && e.2.st != .none &&
    (device || e.2.cluster == k)).map Prod.fst

/-- A wide barrier completes: the phase rises, and each parked group becomes a phase task (12 R332). -/
def wideComplete (s : State) (l : Nat) (device : Bool) (k : Nat) (ts : List Nat) : State :=
  let x := s.launch l
  let ph := (if device then x.phaseDev else tget x.phaseClu 0 k) + 1
  let s := s.modLaunch l fun x =>
    if device then { x with phaseDev := ph } else { x with phaseClu := tset x.phaseClu k ph }
  eachDo ts s fun s tm =>
    let t := s.team tm
    let s := s.modTeam tm fun t => { t with wide := none }
    let gs := (membersOf s tm).filter fun g => (s.grp g).st == .parked || (s.grp g).st == .saved
    let s := eachDo gs s fun s g =>
      match (s.grp g).park with
      | some r =>
        let s := writeS s g r.futile (BitVec.ofNat 64 ph.toNat)
        let s := s.modGrp g fun y => { y with park := some { r with woken := true, counter := 0 } }
        if (s.grp g).st = .parked then furrowPut s t.cluster t.pri (.phase (g / 32) (g % 32)) else s
      | none => s
    s.post (.phaseAdmit t.cluster)

/-- Complete a wide barrier whose teams have all arrived (12 R332). -/
def checkWide (s : State) (l : Nat) (device : Bool) (k : Nat) : State :=
  let ts := wideTeams s l device k
  if !ts.isEmpty && ts.all (fun tm => (s.team tm).wide == some device && teamArrived s tm device) then
    wideComplete s l device k ts
  else s

/-- Complete whatever wide barrier of a launch a change may have completed. -/
def recheckWide (s : State) (l k : Nat) : State := checkWide (checkWide s l true k) l false k

/-- A team whose every group has parked at `tend` gives its reservation back (15 R389). -/
def restTeam (s : State) (tm : Nat) : State :=
  let t := s.team tm
  match t.wide with
  | some d => if t.reserved && teamArrived s tm d then (setReserved s tm t.cluster false).post (.teamPlace t.cluster) else s
  | none => s

/-- `tend`: arrive at the wide barrier as a phase task (12 R331, R332). -/
def tendOp (s : State) (f : FmtY) (device : Bool) : Host.Outcome State Fault Refusal :=
  let g := s.cur
  let x := s.g
  let t := s.teamOf g
  let gang := fld ((s.launch t.launch).dw.getD 0 0) 1 1 == 1
  if isDet s g then done (trap s g 0x08 0 x.em)
  else if (s.ctx t.ctx).bar || !gang then done (trap s g 0x06 0 x.em)
  else if t.wide == some (!device) then done (trap s g 0x06 0 x.em)
  else if !releaseReady x 3 3 then .next (hold (askRelease s g 3 3) g)
  else
    let s := charge (occupy (releaseHalf s g 3 3) g 1 2 1) g 1
    let s := s.modTeam x.team fun t => { t with wide := some device }
    let s := park s g { cause := .wide device, mask := x.em, pc := x.pc, futile := f.d.toNat }
    .next (checkWide (restTeam s x.team) t.launch device t.cluster)

/-- `tend.clu` (12 R332). -/
def execTendClu (f : FmtY) (s : State) : Host.Outcome State Fault Refusal := tendOp s f false

/-- `tend.dev` (12 R332). -/
def execTendDev (f : FmtY) (s : State) : Host.Outcome State Fault Refusal := tendOp s f true

/-! ### Monitors -/

/-- The watched word as an offset through its translation register (12 R335). -/
def watchAddr (s : State) (f : FmtY) : Int := (readS s s.cur f.s.toNat).toNat

/-- What a uniform address comes to: its object, what stops the instruction, or a place outside the device. -/
inductive UAddr where
  | word (o : WObj) (p : Place)
  | outside (p : Phys)
  | trap (code addr : Nat)
  | page (addr : Nat)

/-- Resolve the one address of `waitv` or `wake` (08 R197, 12 R335, 14 R378). -/
def uniformAddr (s : State) (f : FmtY) (reads : Bool) : State × UAddr :=
  let g := s.cur
  let x := s.g
  let t := f.idx.toNat % 8
  let q : AReq := {
    ps := 0, pn := false, t := t, as := f.imm.toNat / 4 % 4, ss := f.imm.toNat % 4, off := fun _ => watchAddr s f,
    bytes := 4, align := 4, use := { write := false, state := false, needWr := false }, reads := reads,
    writes := false, runs := [], srcs := [] }
  let a := laneAddr x q 0
  if isDet s g && t != 0 then (s, .trap 0x08 a)
  else
    let r := resolve s g t (watchAddr s f) 4 4 q.use
    match r.2 with
    | .misalign _ => (r.1, .trap 0x05 a)
    | .prot _ => (r.1, .trap 0x06 a)
    | .malformed b =>
      (malformedRecord r.1 g b 8, .trap 0x06 a)
    | .absent b => if watched x q a then (r.1, .trap 0x11 a) else (r.1, .page b)
    | .ok _ p =>
      if watched x q a then (r.1, .trap 0x11 a)
      else if reads && placeBad r.1 g 4 p then (r.1, .trap 0x0E a)
      else match p with
        | .mem m => if m.pr || m.hb then (r.1, .outside m) else (r.1, .word (.mem m.pa) p)
        | .store off => (r.1, .word (winObj (s.teamOf g) (g / 32) off) p)
        | .span _ => (r.1, .trap 0x06 a)

/-- Entries a context may hold on one core (12 R334). -/
def quotaOf (x : Ctx) : Nat := min x.monquota 64

/-- `waitv`: watch a word (12 R335). -/
def execWaitv (f : FmtY) (s : State) : Host.Outcome State Fault Refusal :=
  let g := s.cur
  let c := g / 32
  let em := s.g.em
  let as := f.imm.toNat / 4 % 4
  let ss := f.imm.toNat % 4
  let pd := f.d.toNat % 8
  let xv := (readS s g f.a.toNat).setWidth 32
  let r := uniformAddr s f true
  let s := r.1
  match r.2 with
  | .trap code a => done (trap s g code a em)
  | .page a => done (parkPages (charge (occupy s g 1 2 1) g 1) g em ((lanesOf em 64).map fun i => (i, a)) [a] 8)
  | .outside p =>
    -- no transaction arms a monitor outside the device: the answer is a free bit (log entry 7)
    let v := freshBytes (s.send (.read p.peer p.pa 4)) 8
    done (syncResult (acquireHalf v.1 g as ss) g [] [(pd, v.2 % 2 == 1)])
  | .word o p =>
    let ctx := s.ctxOf g
    let here := s.monitors.filter fun m => m.core == c
    if Config.numMonitors ≤ here.length ∨ quotaOf (s.ctx ctx) ≤ (here.filter fun m => m.ctx == ctx).length then
      done (syncResult s g [] [(pd, true)])
    else
      let rd : State × Nat := match p with
        | .store off => (s, winRead s (s.teamOf g) c off 4)
        | .mem m => homeOf g 0 (homeAccess s g as m) m 4
        | .span _ => (s, 0)
      let s := rd.1
      if rd.2 ≠ xv.toNat then done (syncResult (acquireHalf s g as ss) g [] [(pd, false)])
      else
        let m : Monitor := { core := c, slot := g % 32, ctx := ctx, obj := wordOf o, x := xv, pred := pd, fired := false }
        let s := charge (occupy s g 1 2 1) g 1
        let s := { s with monitors := s.monitors ++ [m] }
        done (park s g { cause := .monitor, mask := em, pc := s.g.pc, futile := as * 4 + ss })

/-- The acquire of a `waitv` that fires reads its word at the home: a team-scope release by another pair is promoted
(10 R253, R261). -/
def monitorRead (s : State) (m : Monitor) (as : Nat) : State :=
  match m.obj with
  | .mem pa => if 2 ≤ effAs (s.teamOf (m.core * 32 + m.slot)) as then promoteRead s m.core (pa / 256) else s
  | .store _ _ => s

/-- A monitor fires: its entry is freed, pD is zero, and its group goes on after `waitv` (12 R335), having acquired at
the scope of the `wake` that fired it too (10 R254). -/
def execMonitorFire (n : Nat) (s : State) : Host.Outcome State Fault Refusal :=
  match s.monitors.find? fun m => m.core * 32 + m.slot == n && m.fired with
  | none => .next s
  | some m =>
    let as := ((s.grp n).park.map fun r => r.futile / 4 % 4).getD 0
    let s := monitorRead { s with monitors := s.monitors.filter (· != m) } m as
    let by_ (r : ParkRec) : ParkRec := { r with futile := m.scope * 16 + r.futile % 16 }
    let s := (writePU s n m.pred false).modGrp n fun x => { x with park := x.park.map by_ }
    done (wakeGroup s n)

/-- `wake`: fire monitors of a word, after a release at its agent scope over every space (10 R254, 12 R336). -/
def wakeOp (s : State) (f : FmtY) (all : Bool) : Host.Outcome State Fault Refusal :=
  let g := s.cur
  let em := s.g.em
  let as := f.imm.toNat / 4 % 4
  if !releaseReady s.g as 3 then .next (hold (askRelease s g as 3) g)
  else
    let r := uniformAddr s f false
    let s := r.1
    match r.2 with
    | .trap code a => done (trap s g code a em)
    | .page a => done (parkPages (charge (occupy s g 1 2 1) g 1) g em ((lanesOf em 64).map fun i => (i, a)) [a] 8)
    | .outside p =>
      let s := releaseHalf s g as 3
      let m : OutMsg := .feMsg p.peer (g / 32) (g % 32) p.pa (.wake all)
      let v := freshBytes (if p.pr then s.send m else s) 8
      done (syncResult v.1 g [(f.d.toNat, BitVec.ofNat 64 v.2)] [])
    | .word o _ =>
      let s := releaseHalf s g as 3
      let ms := s.monitors.filter fun m => m.obj == wordOf o && !m.fired
      let ms := if all then ms else ms.take 1
      done (syncResult (eachDo ms s fun s m => fireMonitor s m as) g [(f.d.toNat, BitVec.ofNat 64 ms.length)] [])

/-- `wake.one` (12 R336). -/
def execWakeOne (f : FmtY) (s : State) : Host.Outcome State Fault Refusal := wakeOp s f false

/-- `wake.all` (12 R336). -/
def execWakeAll (f : FmtY) (s : State) : Host.Outcome State Fault Refusal := wakeOp s f true

/-! ### Tasks from programs -/

/-- A request to the command processor after a release at device scope (12 R337, R338). -/
def taskOp (s : State) (f : FmtY) (req : Nat → CpReq) : Host.Outcome State Fault Refusal :=
  let g := s.cur
  let a := (readS s g f.s.toNat).toNat
  if a % 64 ≠ 0 then done (trap s g 0x05 a s.g.em)
  else if 2 ^ 57 ≤ a then done (trap s g 0x06 a s.g.em)
  else if !releaseReady s.g 3 3 then .next (hold (askRelease s g 3 3) g)
  else
    let s := releaseHalf s g 3 3
    let r := { req a with grp := some (s.g.team, s.g.member) }
    .next (syncDone ({ s with decs := s.decs ++ [r] }.post .taskDecrement) g)

/-- `tdec` (12 R337). -/
def execTdec (f : FmtY) (s : State) : Host.Outcome State Fault Refusal :=
  taskOp s f fun a => { ctx := s.ctxOf s.cur, rec_ := a, n := f.imm.toNat % 4096 + 1, src := some (s.teamOf s.cur).launch }

/-- `tspn` (12 R338). -/
def execTspn (f : FmtY) (s : State) : Host.Outcome State Fault Refusal :=
  taskOp s f fun a => { spawn := true, ctx := s.ctxOf s.cur, rec_ := a, src := some (s.teamOf s.cur).launch }

end Sys2Proof.Machine
end

