-- ==== Sys2Proof/Machine/Tasks.lean ====
section
/-! DEFINITION. Task records, counters, link objects, furrows, placement, waking, retirement and the ending
of launches (01 R14 to R28, 04 R95 to R99, 08 R205, R206, 12 R306 to R323, R332, R446, 14 R371 to R376,
R383, R384, 15 R389). -/

namespace Sys2Proof.Machine

open State

/-! ### Memory as the command processor reaches it (12 R446) -/

/-- What stops a step of the command processor: a page that is not present, or an address it cannot use: 0 for
want of a page or a permission, 1 for an uncorrectable error, 2 for a peer it cannot reach, 3 for a malformed entry. -/
inductive CpStop where
  | page (a : Nat)
  | bad (a : Nat) (why : Nat)
  deriving DecidableEq, Repr

/-- Reach n bytes within one page of a context. -/
def cpReach (s : State) (c a n : Nat) (rd wr : Bool) (bad : List Nat) : State × Except CpStop Phys :=
  if 2 ^ 57 < a + n then (s, .error (.bad a 0))
  else match walk s c a with
    | .absent => (s, .error (if bad.contains (a / 65536) then .bad a 0 else .page a))
    | .malformed => (s, .error (.bad a 3))
    | .leaf e at_ big =>
      let p := leafPhys e big a
      if (rd && !p.r) || (wr && !p.w) then (s, .error (.bad a 0))
      else if p.pr && !peerUp s p.peer then (s, .error (.bad a 2))
      else if !p.pr && !p.hb && memBad s p.pa n then (s, .error (.bad a 1))
      else (setAD s c at_ wr, .ok p)

/-- Read n bytes of one line at a place the command processor reached. -/
def cpLoad (s : State) (c : Nat) (p : Phys) (n : Nat) : State × Nat :=
  if p.pr then freshBytes (s.send (.read p.peer p.pa n)) n
  else if p.hb then freshBytes s n
  else homeRead s c p.pa n

/-- Write n bytes of one line at a place the command processor reached. A posted write to a peer is an item of no kernel
(16 R411). -/
def cpStore (s : State) (c : Nat) (p : Phys) (n v : Nat) : State :=
  if p.pr then queueItem s p.peer { launch := 0, team := 0 } (.write p.peer p.pa (bytesOfWord n v))
  else if p.hb then s.send (.hostWrite p.pa (bytesOfWord n v))
  else homeWrite s c p.pa n v

/-- Read one naturally aligned unit. -/
def cpRead (s : State) (c a n : Nat) (bad : List Nat) : State × Except CpStop Nat :=
  let r := cpReach s c a n true false bad
  match r.2 with
  | .error e => (r.1, .error e)
  | .ok p => let v := cpLoad r.1 c p n; (v.1, .ok v.2)

/-- Read n doublewords from an address that is a multiple of 8. -/
def cpDws (s : State) (c a : Nat) (bad : List Nat) : Nat → State × Except CpStop (List DWord)
  | 0 => (s, .ok [])
  | n + 1 =>
    let r := cpRead s c a 8 bad
    match r.2 with
    | .error e => (r.1, .error e)
    | .ok v =>
      let q := cpDws r.1 c (a + 8) bad n
      (q.1, match q.2 with | .ok vs => .ok (BitVec.ofNat 64 v :: vs) | .error e => .error e)

/-- The step waits for a page: a report with the command processor as waiter (13 R347). -/
def cpWait (s : State) (c a : Nat) (write : Bool) (launch : Nat) (w : FWaiter) : State :=
  let here (f : OpenFault) : Bool := f.ctx == c && f.page == a / 65536 && f.waiters.contains w
  if s.faults.any here || s.faultWait.any here then s
  else reportPage s { ctx := c, page := a / 65536, acc := if write then 4 else 8, seq := 0, core := 0, slot := 0,
                      eng := true, launch := launch, waiters := [w] }

/-- A step of a launch waits for a page. -/
def launchWait (s : State) (l a : Nat) (write : Bool) : State :=
  cpWait (s.modLaunch l fun x => { x with waitPage := some (a / 65536) }) (s.launch l).ctx a write l (.launch l)

/-- A task fault: a record of kind 4 (13 R349). -/
def taskFault (s : State) (c addr : Nat) (l : Option Nat) : State :=
  faultRecord s c { kind := 4, addr := addr, eng := true, launch := l }

/-- The record of a malformed entry that the command processor met (13 R344). -/
def cpMalformed (s : State) (c addr : Nat) (l : Option Nat) : State :=
  reportPage s { ctx := c, page := addr / 65536, acc := 8, seq := 0, core := 0, slot := 0, eng := true,
                 launch := l.getD 0, waiters := [], code := 0x06 }

/-- The records of an address that stopped a step: kind 4, or 6 for a peer; a malformed entry has one of its own before
it, and an uncorrectable error is an error of the device (12 R446, 13 R344, 16 R404, R410). -/
def stopFault (why : Nat) (s : State) (c addr : Nat) (l : Option Nat) : State :=
  match why with
  | 1 => taskFault (deviceError s) c addr l
  | 2 => faultRecord s c { kind := 6, code := 7, addr := addr, eng := true, launch := l }
  | 3 => taskFault (cpMalformed s c addr l) c addr l
  | _ => taskFault s c addr l

/-! ### The fields of a task record (12 R307) -/

def dwOf (d : List DWord) (k : Nat) : DWord := d.getD k 0
def recGroups (d : List DWord) : Nat := fld (dwOf d 2) 53 5 + 1
def recTeams (d : List DWord) : Nat := fld (dwOf d 3) 44 20 + 1
def recPri (d : List DWord) : Nat := fld (dwOf d 0) 26 2
def recPcc (d : List DWord) : Nat := fld (dwOf d 0) 22 4
def recEnergy (d : List DWord) : Nat := fld (dwOf d 0) 6 16
def recPair (d : List DWord) : Bool := fld (dwOf d 0) 3 1 == 1
def recGang (d : List DWord) : Bool := fld (dwOf d 0) 1 1 == 1
def recRole (d : List DWord) : Nat := fld (dwOf d 5) 58 2
def recLink (d : List DWord) : Nat := fld (dwOf d 5) 0 57
def recMapf (d : List DWord) : Nat := fld (dwOf d 5) 60 4
def recCrec (d : List DWord) : Nat := fld (dwOf d 7) 0 57

/-- What one team asks of its core or pair (04 R95). -/
structure Shape where
  n : Nat
  gw : Nat
  regs : Nat
  hregs : Nat
  ven : Nat
  scr : Nat
  hr : Nat
  win : Nat
  size : Nat
  pair : Bool
  deriving DecidableEq, Repr

def stripes (n : Nat) : Nat := (n + 511) / 512 * 512

def shapeOf (d : List DWord) : Shape :=
  let gw := 16 * 2 ^ fld (dwOf d 0) 4 2
  let n := recGroups d
  let regs := fld (dwOf d 2) 45 8
  let hregs := fld (dwOf d 2) 39 6
  let scr := fld (dwOf d 2) 20 11 * 512
  let hr := stripes (hregs * gw * 4)
  let win := stripes (regs * gw * 4)
  { n := n, gw := gw, regs := regs, hregs := hregs, ven := fld (dwOf d 2) 31 8, scr := scr, hr := hr, win := win,
    size := scr + hr + n * win, pair := recPair d }

/-! ### Room on cores and pairs -/

/-- Free slots in the numbering of 04 R99, windows held, free physical tiles. -/
structure Room where
  slots : List Nat
  wins : List (Nat × Nat)
  tiles : List Nat
  tilesUpper : List Nat
  deriving DecidableEq, Repr

/-- Does a team hold a window and tiles on a core (01 R25)? -/
def holdsOn (t : Team) (c : Nat) : Bool :=
  (t.st == .resident || t.windowHeld) && (t.core == c || (t.pair && t.core + 1 == c))

/-- The physical tiles a team holds on a core. -/
def tilesHeld (t : Team) (c : Nat) : List Nat := if t.core = c then t.tiles else t.tilesUpper

def freeSlots (s : State) (c : Nat) : List Nat :=
  (List.range Config.numSlots).filter fun k => (s.grp (c * 32 + k)).st == .free

def freeTiles (s : State) (c : Nat) : List Nat :=
  let held := ((s.teams.map Prod.snd).filter fun t => holdsOn t c).flatMap fun t => tilesHeld t c
  (List.range Config.numTiles).filter fun k => !held.contains k

/-- The room on a unit as it stands. -/
def roomOf (s : State) (u : Nat) (pair : Bool) : Room :=
  let ts := (s.teams.map Prod.snd).filter fun t => holdsOn t u || (pair && holdsOn t (u + 1))
  { slots := freeSlots s u ++ (if pair then (freeSlots s (u + 1)).map (· + 32) else []),
    wins := ts.map fun t => (t.frame, t.size), tiles := freeTiles s u,
    tilesUpper := if pair then freeTiles s (u + 1) else [] }

/-- The room on an empty unit. -/
def emptyRoom (pair : Bool) : Room :=
  { slots := List.range (if pair then 64 else 32), wins := [], tiles := List.range Config.numTiles,
    tilesUpper := if pair then List.range Config.numTiles else [] }

/-- The lowest free run of stripes long enough for a window (04 R96). -/
def findFrame (wins : List (Nat × Nat)) (size : Nat) : Option Nat :=
  let starts := sortBy (· ≤ ·) (0 :: wins.map fun w => w.1 + w.2)
  starts.find? fun a => a + size ≤ Config.storeBytes && wins.all fun w => a + size ≤ w.1 || w.1 + w.2 ≤ a

/-- Does a team fit a unit, and where (01 R14)? -/
def fitRoom (r : Room) (h : Shape) : Option Nat :=
  if r.slots.length < h.n ∨ r.tiles.length < h.ven ∨ (h.pair ∧ r.tilesUpper.length < h.ven) then none
  else findFrame r.wins h.size

/-- The room left after a team takes its place. -/
def takeRoom (r : Room) (h : Shape) (frame : Nat) : Room :=
  { slots := r.slots.drop h.n, wins := (frame, h.size) :: r.wins, tiles := r.tiles.drop h.ven,
    tilesUpper := r.tilesUpper.drop h.ven }

/-- The clusters of a context's partition, ascending (01 R18). -/
def partClusters (s : State) (c : Nat) : List Nat :=
  (List.range Config.numClusters).filter fun k => tget s.dev.parts 0 k == (s.ctx c).part

/-- The placement units of a cluster: enabled cores, or enabled pairs by their lower core, without the
translator's pair (14 R373, 16 R418). -/
def clusterUnits (s : State) (k : Nat) (pair : Bool) : List Nat :=
  ((List.range 16).map (· + 16 * k)).filter fun c =>
    s.enabled c && c / 2 * 2 != s.dev.xlPair && (!pair || (c % 2 == 0 && s.enabled (c + 1)))

def partUnits (s : State) (c : Nat) (pair : Bool) : List Nat :=
  (partClusters s c).flatMap fun k => clusterUnits s k pair

/-- Place teams one by one from given rooms, each on the first unit of its cluster where it fits and `ok`
holds with the teams already planned there; none when a team finds no place (12 R308, R322). -/
def planTeams (s : State) (h : Shape) (room : Nat → Room) (ok : Nat → Nat → Bool) :
    List (Nat × Nat) → Tab Room → Tab Nat → Option (List (Nat × Nat))
  | [], _, _ => some []
  | (t, k) :: rest, rooms, cnt =>
    let at_ (u : Nat) : Room := match rooms.find? fun e => e.1 == u with | some e => e.2 | none => room u
    let n := tget cnt 0 k
    match (clusterUnits s k h.pair).find? fun u => ok u n && (fitRoom (at_ u) h).isSome with
    | none => none
    | some u =>
      let f := (fitRoom (at_ u) h).getD 0
      (planTeams s h room ok rest (tset rooms u (takeRoom (at_ u) h f)) (tset cnt k (n + 1))).map ((t, u) :: ·)

/-- Deal teams 0 to n − 1 to clusters in turn, the first at index `k0` (12 R319). -/
def dealt (cls : List Nat) (k0 n : Nat) : List (Nat × Nat) :=
  if cls.isEmpty then [] else (List.range n).map fun t => (t, cls.getD ((k0 + t) % cls.length) 0)

/-! ### Arming (12 R308, R309, 14 R371, R383) -/

/-- Does a launch run in deterministic mode (14 R371)? -/
def detOf (mode : Nat) (d : List DWord) : Bool := mode == 1 || (mode == 0 && fld (dwOf d 0) 2 1 == 1)

/-- Logical cores of a deterministic launch (14 R371). -/
def lcnOf (mode : Nat) (d : List DWord) : Nat :=
  if mode = 1 ∧ fld (dwOf d 0) 2 1 = 0 then recTeams d else fld (dwOf d 3) 20 12

/-- The rules of R308 and R371 that the record alone and the partition decide. -/
def recordOk (s : State) (c : Nat) (d : List DWord) : Bool :=
  let h := shapeOf d
  let mode := (s.ctx c).detMode
  let lcn := lcnOf mode d
  let units := partUnits s c h.pair
  let cls := partClusters s c
  let role := recRole d
  fld (dwOf d 0) 28 4 == 0 && fld (dwOf d 0) 4 2 != 3 && fld (dwOf d 0) 0 1 == 0 && fld (dwOf d 1) 57 7 == 0 &&
    fld (dwOf d 2) 0 20 == 0 && fld (dwOf d 4) 57 7 == 0 && fld (dwOf d 5) 57 1 == 0 && fld (dwOf d 7) 57 3 == 0 &&
    role != 3 && 1 ≤ h.regs && h.regs ≤ 192 && fld (dwOf d 6) 57 7 ≤ 64 && h.hregs ≤ 32 && h.ven ≤ Config.numTiles &&
    (h.pair || h.n ≤ 16) &&
    (!h.pair || cls.any fun k => ((List.range 8).any fun j => s.enabled (16 * k + 2 * j) && s.enabled (16 * k + 2 * j + 1))) &&
    h.size ≤ Config.storeBytes && fld (dwOf d 1) 0 57 % 8 == 0 && fld (dwOf d 4) 0 57 % 8 == 0 && recLink d % 64 == 0 &&
    fld (dwOf d 6) 0 57 % 8 == 0 && recCrec d % 64 == 0 &&
    (!recGang d || detOf mode d ||
      (!cls.isEmpty &&
        (planTeams s h (fun _ => emptyRoom h.pair) (fun _ _ => true) (dealt cls 0 (recTeams d)) [] []).isSome)) &&
    (role != 2 || (1 ≤ recMapf d && recMapf d ≤ 6)) && !(mode == 2 && fld (dwOf d 0) 2 1 == 1) &&
    (!detOf mode d || (recTeams d == lcn && lcn != 0 && lcn ≤ 2 * units.length))

/-- The header of a link object (12 R315). DESIGN CHOICE (log entry 64): NTP is not held against the producer's team count. -/
def linkOk (d : List DWord) (mapf : Nat) (consumer : Bool) : Bool :=
  let table := fld (dwOf d 1) 0 57
  fld (dwOf d 0) 24 20 != 0 && fld (dwOf d 0) 0 24 == 0 && fld (dwOf d 1) 57 7 == 0 && table % 8 == 0 &&
    (!consumer || mapf == 6 || table == 0) && (d.drop 2).all (· == 0)

/-- An entry of the output-range list: base, owner, encoding, length; none when it breaks a rule (14 R383). -/
def rangeOf (a b : DWord) (lcn : Nat) : Option (Nat × Nat × Nat × Nat) :=
  let base := fld a 0 57
  let lc := fld b 52 12
  let enc := fld b 50 2
  let len := fld b 0 40
  let e := if enc = 0 then 1 else 2 ^ (enc - 1)
  if fld a 57 7 != 0 || fld b 40 10 != 0 || lcn ≤ lc || len == 0 || 2 ^ 57 < base + len || base % e != 0 || len % e != 0
  then none else some (base, lc, enc, len)

/-- The entries of an output-range list as pairs of doublewords. -/
def rangesOf (lcn : Nat) : List DWord → Option (List (Nat × Nat × Nat × Nat))
  | a :: b :: r => match rangeOf a b lcn, rangesOf lcn r with
    | some x, some xs => some (x :: xs)
    | _, _ => none
  | _ => some []

/-- What the validation of a record comes to. -/
inductive ArmX where
  | ok (outs : List (Nat × Nat × Nat × Nat))
  | refused
  | stop (e : CpStop)

/-- Validate a record with its link object and its output ranges (12 R308, R315, 14 R371, R383). -/
def validate (s : State) (r : CpReq) (d : List DWord) : State × ArmX :=
  if !recordOk s r.ctx d then (s, .refused)
  else
    let role := recRole d
    let k : State × Except CpStop Bool :=
      if role = 0 then (s, .ok true)
      else
        let q := cpDws s r.ctx (recLink d) r.bad 8
        (q.1, match q.2 with | .ok ws => .ok (linkOk ws (recMapf d) (role == 2)) | .error e => .error e)
    match k.2 with
    | .error e => (k.1, .stop e)
    | .ok false => (k.1, .refused)
    | .ok true =>
      let mode := (s.ctx r.ctx).detMode
      if !detOf mode d then (k.1, .ok [])
      else
        let a := recCrec d + 64
        let q := cpRead k.1 r.ctx a 8 r.bad
        match q.2 with
        | .error e => (q.1, .stop e)
        | .ok n =>
          if 2 ^ 8 ≤ n then (q.1, .refused)
          else
            let w := cpDws q.1 r.ctx (a + 8) r.bad (2 * n)
            match w.2 with
            | .error e => (w.1, .stop e)
            | .ok ws => match rangesOf (lcnOf mode d) ws with
              | some xs => (w.1, .ok xs)
              | none => (w.1, .refused)

/-- Write ST of a task record whose DW7 lies at a place. -/
def putSt (s : State) (c : Nat) (p : Phys) (d7 : DWord) (st : Nat) : State :=
  cpStore s c { p with pa := p.pa + 63 } 1 (st * 16 + fld d7 56 4)

/-- Put a launch on the launch furrow (12 R309, R318). -/
def launchReady (s : State) (c : Nat) (p : Phys) (l : Nat) : State :=
  let d := (s.launch l).dw
  let s := putSt s c p (dwOf d 7) 2
  let s := s.modLaunch l fun x => { x with st := 2 }
  { s with launchQ := s.launchQ ++ [(recPri d, l, 0)] }.post .launchAdmit

/-- A new launch for a record (12 R309). DESIGN CHOICE (log entry 63): the fields of DW0 other than CNT are those the arming
read. -/
def newLaunch (s : State) (r : CpReq) (d : List DWord) (outs : List (Nat × Nat × Nat × Nat)) (refused : Bool) :
    State × Nat :=
  let l := s.nextLaunch
  let mode := (s.ctx r.ctx).detMode
  let x : Launch := {
    rec_ := r.rec_, ctx := r.ctx, dw := d, det := !refused && detOf mode d, st := if refused then 7 else 1,
    lcn := lcnOf mode d, outs := outs, refused := refused }
  ({ s.setLaunch l x with nextLaunch := l + 1 }, l)

/-- Mark the launch that issued a request as having faults (12 R337). -/
def markSrc (s : State) (r : CpReq) : State :=
  match r.src with
  | some l => s.modLaunch l fun x => { x with faulted := true }
  | none => s

/-- Arm a record, or refuse it; `k` goes on with the armed launch (12 R308, R309). The second part is a page
the step waits for; `pre` is what a spawn has written first. -/
def armRecord (s : State) (r : CpReq) (p : Phys) (d : List DWord) (pre : State → State) (k : State → Nat → State) :
    State × Option Nat :=
  let v := validate s r d
  match v.2 with
  | .stop (.page a) => (v.1, some a)
  | .stop (.bad a why) => (stopFault why v.1 r.ctx a r.src, none)
  | .refused =>
    let n := newLaunch (pre v.1) r d [] true
    (((taskFault (markSrc n.1 r) r.ctx r.rec_ (some n.2)).post (.launchEnd n.2)), none)
  | .ok outs =>
    let n := newLaunch (pre v.1) r d outs false
    (k (putSt n.1 r.ctx p (dwOf d 7) 1) n.2, none)

/-- The launch the device armed from a record and still counts down (12 R309). -/
def armedOf (s : State) (r : CpReq) : Option Nat :=
  (s.launches.find? fun e => e.2.ctx == r.ctx && e.2.rec_ == r.rec_ && !e.2.ended && !e.2.killed && e.2.st == 1).map
    Prod.fst

/-- Was a decrement accepted before its context was killed, or the newest launch of its record killed with the context
(12 R310; log entry 35)? A record in state 0 that is decremented for the first time after the kill is a new one. -/
def killedRec (s : State) (r : CpReq) (st : Nat) : Bool :=
  let ls := s.launches.filter fun e => e.2.ctx == r.ctx && e.2.rec_ == r.rec_
  st ≤ 3 && (r.stale || (st != 0 && match ls.getLast? with
    | some e => e.2.killed
    | none => false))

/-- The count of a decrement (12 R309). -/
def countDown (r : CpReq) (p : Phys) (cnt : Nat) (s : State) (l : Nat) : State :=
  if cnt ≤ r.n then
    let s := launchReady (cpStore s r.ctx { p with pa := p.pa + 4 } 4 0) r.ctx p l
    if cnt < r.n then taskFault s r.ctx r.rec_ (some (r.src.getD l)) else s
  else cpStore s r.ctx { p with pa := p.pa + 4 } 4 (cnt - r.n)

/-- Perform a decrement or a spawn; the answer is a page it waits for (12 R309, R338, R446). -/
def performReq (s : State) (r : CpReq) : State × Option Nat :=
  let x := cpReach s r.ctx r.rec_ 64 true true r.bad
  match x.2 with
  | .error (.page a) => (x.1, some a)
  | .error (.bad a why) => (stopFault why x.1 r.ctx a r.src, none)
  | .ok p =>
    let q := (List.range 8).foldl (fun (acc : State × List DWord) j =>
      let v := cpLoad acc.1 r.ctx { p with pa := p.pa + 8 * j } 8
      (v.1, acc.2 ++ [BitVec.ofNat 64 v.2])) (x.1, [])
    let s := q.1
    let d := q.2
    let st := fld (dwOf d 7) 60 4
    let owner := fld (dwOf d 2) 58 6
    -- the device keeps CTX of a record that it armed
    let armed := if st = 1 then armedOf s r else none
    if r.spawn then
      if st ≠ 0 then (taskFault s r.ctx r.rec_ r.src, none)
      else
        let low := fld (dwOf d 2) 56 2
        let d := d.set 2 (BitVec.ofNat 64 ((dwOf d 2).toNat % 2 ^ 58 + r.ctx * 2 ^ 58))
        armRecord s r p d (fun s => cpStore s r.ctx { p with pa := p.pa + 23 } 1 (r.ctx * 4 + low)) fun s l =>
          if fld (dwOf d 0) 32 32 = 0 then launchReady s r.ctx p l else s
    else if armed.isNone ∧ owner ≠ r.ctx then
      let s := taskFault s r.ctx r.rec_ r.src
      (if (s.ctx owner).en then taskFault s owner r.rec_ none else s, none)
    else if killedRec s r st then (taskFault (putSt s r.ctx p (dwOf d 7) 6) r.ctx r.rec_ r.src, none)
    else if st = 0 then armRecord s r p d id (countDown r p (fld (dwOf d 0) 32 32))
    else match armed with
      | some l => (countDown r p (fld (dwOf d 0) 32 32) s l, none)
      | none => (taskFault s r.ctx r.rec_ r.src, none)

/-- Do two decrements come from one source, which keeps them in order: the arrivals of a context, the decrements of a
group, a successor list (12 R311, R314, R337)? -/
def sameSource (a b : CpReq) : Bool :=
  !a.spawn && !b.spawn && a.ctx == b.ctx && a.host == b.host && a.src == b.src && a.grp == b.grp

/-- Must a request wait: for a page, behind an earlier one of its record or of its source, or for a refusal still to be
written (12 R446)? -/
def reqBlocked (s : State) (before : List CpReq) (r : CpReq) : Bool :=
  r.wait.isSome || (before.any fun q => (q.ctx == r.ctx && q.rec_ == r.rec_) || sameSource q r) ||
    s.launches.any fun e => e.2.ctx == r.ctx && e.2.rec_ == r.rec_ && e.2.refused && !e.2.ended

/-- The requests before the first that may be performed, that one, and those after it. -/
def nextReq (s : State) : List CpReq → List CpReq → Option (List CpReq × CpReq × List CpReq)
  | _, [] => none
  | before, r :: rest =>
    if reqBlocked s before r then nextReq s (before ++ [r]) rest else some (before, r, rest)

/-- The command processor performs the oldest decrement or spawn that may be performed (12 R309, R314, R338). -/
def execTaskDecrement (s : State) : Host.Outcome State Fault Refusal :=
  match nextReq s [] s.decs with
  | none => .next s
  | some (before, r, rest) =>
    let v := performReq { s with decs := before ++ rest } r
    match v.2 with
    | some a =>
      let s := { v.1 with decs := before ++ { r with wait := some (a / 65536) } :: rest }
      done ((cpWait s r.ctx a true (r.src.getD 0) .decs).post .taskDecrement)
    | none =>
      let s := if r.host then v.1.modCtx r.ctx fun x => { x with arrivals := x.arrivals - 1 } else v.1
      let s := match r.src with | some l => s.post (.launchEnd l) | none => s
      done (if s.decs.isEmpty then s else s.post .taskDecrement)

/-! ### Admission (12 R317 to R320, 14 R373 to R375) -/

/-- Producer teams a consumer team needs under a mapping function other than the table (12 R316). -/
def mapNeeds (mapf gx ntp c : Nat) : List Nat :=
  let x := c % gx
  let y := c / gx
  let near (a b : Nat) : Bool := a ≤ b + 1 && b ≤ a + 1
  (List.range (ntp + 1)).filter fun t =>
    match mapf with
    | 1 => t == c
    | 2 => t / gx == y
    | 3 => t % gx == x
    | 4 => near (t % gx) x && near (t / gx) y
    | _ => true

/-- Words of a table list. -/
def cpWords (s : State) (c a : Nat) (bad : List Nat) : Nat → State × Except CpStop (List Nat)
  | 0 => (s, .ok [])
  | n + 1 =>
    let r := cpRead s c a 4 bad
    match r.2 with
    | .error e => (r.1, .error e)
    | .ok v =>
      let q := cpWords r.1 c (a + 4) bad n
      (q.1, match q.2 with | .ok vs => .ok (v :: vs) | .error e => .error e)

/-- Producer teams of table entry c (12 R316). -/
def tableNeeds (s : State) (c table ntp k : Nat) (bad : List Nat) : State × Except CpStop (List Nat) :=
  let r := cpRead s c (table + 8 * k) 8 bad
  match r.2 with
  | .error e => (r.1, .error e)
  | .ok e =>
    let off := e % 2 ^ 52
    if off % 4 ≠ 0 then (r.1, .error (.bad (table + 8 * k) 0))
    else
      let q := cpWords r.1 c (table + off) bad (e / 2 ^ 52)
      (q.1, match q.2 with | .ok ws => .ok (ws.eraseDups.filter (· ≤ ntp)) | .error x => .error x)

/-- Those of a list of producer teams whose DONE bit is clear (12 R317). -/
def undone (s : State) (c link : Nat) (bad : List Nat) : List Nat → State × Except CpStop (List Nat)
  | [] => (s, .ok [])
  | t :: r =>
    let v := cpRead s c (link + 64 + t / 8) 1 bad
    match v.2 with
    | .error e => (v.1, .error e)
    | .ok b =>
      let q := undone v.1 c link bad r
      (q.1, match q.2 with
        | .ok ts => .ok (if b / 2 ^ (t % 8) % 2 = 1 then ts else t :: ts)
        | .error e => .error e)

/-- What each consumer team waits for; a list that cannot be read is a fault of the launch and counts none
(12 R316, R317). -/
def consumerNeeds (s : State) (l : Nat) (hdr : List DWord) : List Nat → State × Except Nat (List (List Nat))
  | [] => (s, .ok [])
  | c :: r =>
    let x := s.launch l
    let ntp := fld (dwOf hdr 0) 44 20
    let need : State × Except CpStop (List Nat) :=
      if recMapf x.dw = 6 then tableNeeds s x.ctx (fld (dwOf hdr 1) 0 57) ntp c x.badPages
      else (s, .ok (mapNeeds (recMapf x.dw) (fld (dwOf hdr 0) 24 20) ntp c))
    let left : State × Except CpStop (List Nat) := match need.2 with
      | .ok ts => undone need.1 x.ctx (recLink x.dw) x.badPages ts
      | .error e => (need.1, .error e)
    match left.2 with
    | .error (.page a) => (left.1, .error a)
    | .error (.bad a why) =>
      let q := consumerNeeds (stopFault why left.1 x.ctx a (some l)) l hdr r
      (q.1, match q.2 with | .ok ns => .ok ([] :: ns) | .error b => .error b)
    | .ok ts =>
      let q := consumerNeeds left.1 l hdr r
      (q.1, match q.2 with | .ok ns => .ok (ts :: ns) | .error b => .error b)

/-- Counts of every team of a launch at its admission (12 R317). -/
def launchNeeds (s : State) (l : Nat) : State × Except Nat (List (List Nat)) :=
  let x := s.launch l
  let ts := List.range (recTeams x.dw)
  if recRole x.dw ≠ 2 then (s, .ok (ts.map fun _ => []))
  else
    let h := cpDws s x.ctx (recLink x.dw) x.badPages 8
    match h.2 with
    | .error (.page a) => (h.1, .error a)
    | .error (.bad a why) => (stopFault why h.1 x.ctx a (some l), .ok (ts.map fun _ => []))
    | .ok hdr => if linkOk hdr (recMapf x.dw) true then consumerNeeds h.1 l hdr ts
      else (taskFault h.1 x.ctx (recLink x.dw) (some l), .ok (ts.map fun _ => []))

/-- Where each team goes: its cluster, and its unit under the jig (12 R319, 14 R373). -/
def dealLaunch (s : State) (l : Nat) : List (Nat × Nat) × List (Nat × Nat) :=
  let x := s.launch l
  let n := recTeams x.dw
  if x.det then
    let us := partUnits s x.ctx (recPair x.dw)
    let un := (List.range n).map fun t => (t, us.getD (t % max 1 us.length) 0)
    (un.map fun e => (e.1, e.2 / 16), un)
  else
    let cls := partClusters s x.ctx
    let k0 := match (s.ctx x.ctx).lastCluster with
      | some k => (cls.filter fun j => j ≤ k).length
      | none => 0
    (dealt cls k0 n, [])

/-- Create the team tasks of a launch (12 R317, R319). -/
def createTeams (s : State) (l : Nat) (needs : List (List Nat)) : State :=
  let x := s.launch l
  let deal := dealLaunch s l
  let gang := recGang x.dw && !x.det
  let base := s.nextTeam
  let top := (s.launches.map fun e => e.2.order).foldl max 0
  let s := { s with nextTeam := base + recTeams x.dw }
  let s := s.modLaunch l fun y =>
    { y with units := deal.2, reserved := (deal.2.map Prod.snd).eraseDups, gangWait := gang, order := top + 1 }
  let s := s.modCtx x.ctx fun c =>
    { c with lastCluster := (deal.1.getLast?.map Prod.snd).orElse fun _ => c.lastCluster }
  let s := eachDo deal.1 s fun s e =>
    let need := needs.getD e.1 []
    let t : Team := { st := if need.isEmpty then .queued else .waiting, launch := l, ctx := x.ctx, number := e.1,
                      needs := need, cluster := e.2, pri := recPri x.dw }
    let s := s.setTeam (base + e.1) t
    if need.isEmpty then furrowPut s e.2 t.pri (.team (base + e.1)) else s
  if gang then s.post .gangPlace
  else eachDo ((deal.1.map Prod.snd).eraseDups) s fun s k => s.post (.teamPlace k)

/-- Does the context of a furrow entry run? The entries of the others are passed over (12 R323, 13 R365). -/
def entryRuns (s : State) (f : FEntry) : Bool :=
  match f.task with
  | .team t => (s.ctx (s.team t).ctx).state == 0
  | .cont c k => (s.ctx (s.ctxOf (c * 32 + k))).state == 0
  | .phase c k => (s.ctx (s.ctxOf (c * 32 + k))).state == 0

/-- One admission at a level ages the tasks below it (12 R320). -/
def agedBy (s : State) (level : Nat) (f : List FEntry) : List FEntry :=
  f.map fun e => if e.level < level && entryRuns s e then { e with age := e.age + 1 } else e

/-- Move the tasks whose count is full to the tail of the next level (12 R320). -/
def raiseAged (f : List FEntry) : List FEntry :=
  let due (e : FEntry) : Bool := 64 ≤ e.age && e.level < 3
  (f.filter fun e => !due e) ++ (f.filter due).map fun e => { e with level := e.level + 1, age := 0 }

/-- The first entry of the highest level that a predicate accepts (12 R319). -/
def furrowHead (f : List FEntry) (p : FEntry → Bool) : Option FEntry :=
  [3, 2, 1, 0].findSome? fun lv => f.find? fun e => e.level == lv && p e

/-- Take an entry off a cluster's furrow: one admission. -/
def furrowTake (s : State) (k : Nat) (e : FEntry) : State :=
  let s := s.modCluster k fun x => { x with furrow := agedBy s e.level (x.furrow.erase e) }
  if (s.cluster k).furrow.any fun f => 64 ≤ f.age && f.level < 3 then s.post (.furrowAgeing k) else s

/-- Ageing on a cluster's furrows (12 R320). -/
def execFurrowAgeing (k : Nat) (s : State) : Host.Outcome State Fault Refusal :=
  .next (s.modCluster k fun x => { x with furrow := raiseAged x.furrow })

/-- Ageing on the launch furrow (12 R320); the launches of a context that does not run keep their places (12 R323). -/
def ageLaunches (s : State) (level : Nat) (q : List (Nat × Nat × Nat)) : List (Nat × Nat × Nat) :=
  let runs (l : Nat) : Bool := (s.ctx (s.launch l).ctx).state == 0
  let q := q.map fun e => if e.1 < level && runs e.2.1 then (e.1, e.2.1, e.2.2 + 1) else e
  let due (e : Nat × Nat × Nat) : Bool := 64 ≤ e.2.2 && e.1 < 3
  (q.filter fun e => !due e) ++ (q.filter due).map fun e => (e.1 + 1, e.2.1, 0)

/-- The launch the command processor admits next: the oldest of the highest level whose context runs (12 R319). -/
def nextLaunchOf (s : State) : Option (Nat × Nat × Nat) :=
  let ok (e : Nat × Nat × Nat) : Bool :=
    let x := s.launch e.2.1
    x.waitPage.isNone && (s.ctx x.ctx).state == 0
  [3, 2, 1, 0].findSome? fun lv => s.launchQ.find? fun e => e.1 == lv && ok e

/-- The command processor admits a launch: its counts, ST = 3, its team tasks (12 R317, R319). -/
def execLaunchAdmit (s : State) : Host.Outcome State Fault Refusal :=
  match nextLaunchOf s with
  | none => .next s
  | some e =>
    let l := e.2.1
    let take (s : State) : State := { s with launchQ := ageLaunches s e.1 (s.launchQ.erase e) }.post .launchAdmit
    if (s.launch l).ended || (s.launch l).aborted then .next (take s)
    else
      let n := launchNeeds s l
      match n.2 with
      | .error a => done ((launchWait n.1 l a false).post .launchAdmit)
      | .ok needs =>
        let x := n.1.launch l
        let r := cpReach n.1 x.ctx x.rec_ 64 false true x.badPages
        match r.2 with
        | .error (.page a) => done ((launchWait r.1 l a true).post .launchAdmit)
        | .error (.bad a why) =>
          -- ST cannot be written; the launch runs and has a fault (12 R446)
          let s := (stopFault why r.1 x.ctx a (some l)).modLaunch l fun y => { y with st := 3 }
          done (take (createTeams s l needs))
        | .ok p =>
          let s := (putSt r.1 x.ctx p (dwOf x.dw 7) 3).modLaunch l fun y => { y with st := 3 }
          done (take (createTeams s l needs))

/-! ### Placement (12 R321, R322, 14 R373 to R376, 15 R389) -/

/-- Energy and peak current of R389 on a cluster, with n more such teams already counted. -/
def energyFits (s : State) (k e pcc n : Nat) : Bool :=
  let x := s.cluster k
  let amps := (clusterTeams s k).foldl (fun a t => a + 4 * (recPcc (s.launch t.launch).dw + 1)) 0
  (e == 0 || e ≤ x.allot - (reservedSum s k + n * e)) && 4 * (pcc + 1) * (n + 1) + amps ≤ (if x.hi then 64 else 48)

/-- The deterministic launch a unit's core is reserved for: the earliest admitted (14 R375). -/
def ownerOf (s : State) (u : Nat) (pair : Bool) : Option Nat :=
  let on (l : Launch) : Bool := l.reserved.any fun v =>
    v == u || (pair && v == u + 1) || (recPair l.dw && (v + 1 == u || (pair && v == u)))
  let ls := s.launches.filter fun e => e.2.det && !e.2.ended && on e.2
  (ls.foldl (fun (b : Option (Nat × Nat)) e => match b with
    | none => some (e.1, e.2.order)
    | some x => if e.2.order < x.2 then some (e.1, e.2.order) else b) none).map Prod.fst

/-- Does a unit hold a team of another launch that has not retired (14 R375)? -/
def holdsOther (s : State) (u : Nat) (pair : Bool) (l : Nat) : Bool :=
  (s.teams.map Prod.snd).any fun t => t.launch != l && t.st == .resident && (holdsOn t u || (pair && holdsOn t (u + 1)))

/-- Does a unit hold a resident team of a launch? -/
def holdsSame (s : State) (u : Nat) (pair : Bool) (l : Nat) : Bool :=
  (s.teams.map Prod.snd).any fun t => t.launch == l && t.st == .resident && (holdsOn t u || (pair && holdsOn t (u + 1)))

/-- May a team of launch l be placed on unit u as far as reservations go (14 R373 to R375)? A unit runs one logical core
at a time, also where a migration has given it those of another unit (14 R376, R380). -/
def unitOpen (s : State) (l u : Nat) (pair : Bool) : Bool :=
  if (s.launch l).det then ownerOf s u pair == some l && !holdsOther s u pair l && !holdsSame s u pair l
  else (ownerOf s u pair).isNone

/-- The unit a head team task goes to now, if any (12 R321, 14 R373, R374). -/
def unitFor (s : State) (tm : Nat) : Option Nat :=
  let t := s.team tm
  let x := s.launch t.launch
  let h := shapeOf x.dw
  let e := recEnergy x.dw
  let ok (u : Nat) : Bool := unitOpen s t.launch u h.pair && (fitRoom (roomOf s u h.pair) h).isSome
  if x.det then
    let n := (partUnits s t.ctx h.pair).length
    let first := n ≤ t.number && (s.teams.any fun p => p.2.launch == t.launch && p.2.number + n == t.number &&
      p.2.st != .retired)
    -- the unit that the jig assigns now may lie on another cluster (14 R376)
    let u := tget x.units 0 t.number
    if !first && ok u && energyFits s (u / 16) e (recPcc x.dw) 0 then some u else none
  else if energyFits s t.cluster e (recPcc x.dw) 0 then (clusterUnits s t.cluster h.pair).find? ok
  else none

/-- Zero the store of a window, its bits full (04 R97). -/
def clearWindow (s : State) (c frame size : Nat) : State :=
  let out (w : Nat) : Bool := w < frame || frame + size ≤ w
  s.modCore c fun k => { k with store := mclear k.store frame size, storeEmpty := k.storeEmpty.filter out,
                                badStore := k.badStore.filter out, softStore := k.softStore.filter out }

/-- Zero the tiles of a team on a core (07 R178). -/
def clearTiles (s : State) (c : Nat) (ts : List Nat) : State :=
  s.modCore c fun k => eachDo ts k fun k p =>
    { k with veneer := mclear k.veneer (p * Config.tileBytes) Config.tileBytes, tileSt := tdel k.tileSt p }

/-- A new group of a team (01 R20, 04 R97, 13 R339). -/
def freshGroup (h : Shape) (tm member slot entry rec_ : Nat) : Group :=
  { st := .eligible, pc := entry, team := tm, member := member, vgrp := slot, gw := h.gw, nregs := h.regs, nhregs := h.hregs,
    em := lowMask h.gw, live := lowMask h.gw, sregs := if rec_ = 0 then [] else [(0, BitVec.ofNat 64 rec_)],
    tregs := [(0, { val := true, limit := h.size, wr := true })] }

/-- Put a team on a unit (12 R321, 04 R95 to R97, 07 R178). -/
def placeTeam (s : State) (tm u : Nat) : State :=
  let t := s.team tm
  let x := s.launch t.launch
  let h := shapeOf x.dw
  let r := roomOf s u h.pair
  let frame := (fitRoom r h).getD 0
  let slots := r.slots.take h.n
  let tiles := r.tiles.take h.ven
  let upper := if h.pair then r.tilesUpper.take h.ven else []
  let t' : Team := { t with st := .resident, cluster := u / 16, core := u, pair := h.pair, slots := slots, frame := frame,
                            size := h.size, gw := h.gw, scr := h.scr, hr := h.hr, win := h.win, tiles := tiles, tilesUpper := upper,
                            reserved := true, meter := 0, throttled := false }
  let s := s.setTeam tm t'
  let cores := if h.pair then [u, u + 1] else [u]
  -- the L1 gives up its stripes (04 R96); what the host wrote before it submitted the launch is seen, clauses among it
  -- (10 R254)
  let s := eachDo cores s fun s c =>
    (clearWindow (l1Drop s c fun _ => true) c frame h.size).modCore c fun k =>
      { k with ccache := k.ccache.filter fun e => e.1 != t.ctx }
  let s := clearTiles s u tiles
  let s := if h.pair then clearTiles s (u + 1) upper else s
  let s := if x.det then eachDo cores s fun s c => s.modCore c fun k => { k with ptr := 0 } else s
  let gs := teamGroups t'
  eachDo (gs.zip (List.range gs.length)) s fun s e =>
    s.setGrp e.1 (freshGroup h tm e.2 (slots.getD e.2 0) (fld (dwOf x.dw 1) 0 57) x.rec_)

/-- Doublewords cut into records of 40 bytes (11 R293). -/
def cutRecs : Nat → List DWord → List (List DWord)
  | 0, _ => []
  | n + 1, ws => ws.take 5 :: cutRecs n (ws.drop 5)

/-- Read the buffer-record table of a launch at its first placement (11 R296). True: the team may be placed. -/
def readTable (s : State) (tm : Nat) : State × Bool :=
  let t := s.team tm
  let x := s.launch t.launch
  let n := fld (dwOf x.dw 6) 57 7
  if n ≤ x.records.length then (s, true)
  else
    let r := cpDws s t.ctx (fld (dwOf x.dw 6) 0 57) [] (5 * n)
    match r.2 with
    | .ok ws => (r.1.modLaunch t.launch fun y => { y with records := cutRecs n ws }, true)
    | .error (.page a) => (cpWait r.1 t.ctx a false t.launch (.team tm), false)
    | .error (.bad a why) =>
      let s := if why = 1 then deviceError r.1 else if why = 3 then cpMalformed r.1 t.ctx a (some t.launch) else r.1
      (abortLaunch s t.launch (if why = 1 then 0x0E else 0x06) 0 0 true, false)

/-- Does a launch that waits to be placed whole hold a cluster (12 R322)? -/
def gangHolds (s : State) (k : Nat) : Bool :=
  s.launches.any fun e => e.2.gangWait && !e.2.ended && !e.2.aborted && (s.ctx e.2.ctx).state == 0 &&
    (partClusters s e.2.ctx).contains k

/-- Is it a team task, and not of a launch that waits to be placed whole (12 R322)? -/
def isTeamTask (s : State) (f : FEntry) : Bool := match f.task with
  | .team t => !(s.launch (s.team t).launch).gangWait
  | .cont _ _ => false
  | .phase _ _ => false

/-- Take a team's task off its furrow. -/
def takeTask (s : State) (tm : Nat) : State :=
  let k := (s.team tm).cluster
  match (s.cluster k).furrow.find? fun f => f.task == .team tm with
  | some e => furrowTake s k e
  | none => s

/-- A cluster's distributor places its head team task (12 R319, R321). -/
def execTeamPlace (cluster : Nat) (s : State) : Host.Outcome State Fault Refusal :=
  if gangHolds s cluster then .next s
  else match furrowHead (s.cluster cluster).furrow (fun f => isTeamTask s f && entryRuns s f) with
    | none => .next s
    | some e => match e.task with
      | .team tm => match unitFor s tm with
        | none => .next s
        | some u =>
          let r := readTable s tm
          if r.2 then
            done ((settleIn (placeTeam (furrowTake r.1 cluster e) tm u) tm (u / 16)).post (.teamPlace cluster))
          else done r.1
      | .cont _ _ => .next s
      | .phase _ _ => .next s

/-- A launch with GANG = 1 is placed whole when every team fits at once (12 R322). -/
def execGangPlace (s : State) : Host.Outcome State Fault Refusal :=
  let wait := s.launches.filter fun e => e.2.gangWait && !e.2.ended && !e.2.aborted && (s.ctx e.2.ctx).state == 0
  let fits (e : Nat × Launch) : Option (List (Nat × Nat)) :=
    let h := shapeOf e.2.dw
    let mine := s.teams.filter fun p => p.2.launch == e.1
    if mine.any fun p => p.2.st != .queued then none
    else planTeams s h (fun u => roomOf s u h.pair)
      (fun u n => unitOpen s e.1 u h.pair && energyFits s (u / 16) (recEnergy e.2.dw) (recPcc e.2.dw) n)
      (mine.map fun p => (p.1, p.2.cluster)) [] []
  -- an earlier launch of the same partition keeps a later one waiting
  let first (e : Nat × Launch) : Bool := wait.all fun f => e.2.order ≤ f.2.order || (s.ctx f.2.ctx).part != (s.ctx e.2.ctx).part
  match wait.findSome? fun e => if first e then (fits e).map fun p => (e.1, p) else none with
  | none => .next s
  | some (l, plan) =>
    match plan with
    | [] => .next s
    | (t0, _) :: _ =>
      let r := readTable s t0
      if !r.2 then done r.1
      else
        let s := eachDo plan r.1 fun s p => placeTeam (takeTask s p.1) p.1 p.2
        let s := eachDo plan s fun s p => settleIn s p.1 (p.2 / 16)
        let s := (s.modLaunch l fun x => { x with gangWait := false }).post .gangPlace
        done (eachDo (partClusters s (s.launch l).ctx) s fun s k => s.post (.teamPlace k))

/-- Try again every placement, and every migration that found no target, that a change may allow (15 R399). -/
def postPlaces (s : State) (ks : List Nat) : State :=
  let s := eachDo ks s throttlePoke
  let s := eachDo (s.teams.filter fun e => e.2.st == .resident && e.2.stuck) s fun s e => s.post (.teamMigrate e.1)
  let s := eachDo (s.ctxs.filter fun e => e.2.state == 3) s fun s e => s.post (.cctlRestore e.1)
  eachDo ks (if s.launches.any fun e => e.2.gangWait then s.post .gangPlace else s) fun s k => s.post (.teamPlace k)

/-! ### Waking (01 R20, 08 R205, R206, 12 R319, R329, R332, 13 R351) -/

/-- The pages a group waited for are closed: it replays, or traps for a page declared unresolvable (13 R351). A fetch
leaves what the group still owed, and the clause it was to begin is the trap's THDR (13 R345, R355). -/
def admitPages (s : State) (g : Nat) (r : ParkRec) : State :=
  let bad := r.addrs.filter fun a => r.badPages.contains (a.2 / 65536)
  match bad with
  | [] => s.modGrp g fun x => { x with st := .eligible, park := none, redo := if r.fetch then x.redo else some r }
  | a :: _ =>
    let hdr := (s.grp g).hdr
    trapAt s g 0x06 a.2 (maskOf (bad.map Prod.fst)) r.pc (if r.fetch ∧ hdr = 0 then r.pc else hdr)

/-- A group goes on after the instruction it parked at. -/
def admitPast (s : State) (g : Nat) : State :=
  let s := (retireNow s g).modGrp g fun x => { x with st := .eligible, park := none, seq := x.seq + 1 }
  advance s g

/-- A woken group becomes Eligible again (01 R20). -/
def admitGroup (s : State) (g : Nat) : State :=
  match (s.grp g).park with
  | none => s
  | some r =>
    let back (f : Group → Group) : State := s.modGrp g fun x => { f x with st := .eligible, park := none }
    match r.cause with
    | .feStore _ _ _ => back fun x => { x with redo := some r }
    | .feMem _ _ => back fun x => { x with redo := some r }
    | .fePeer _ _ _ => back fun x => { x with redo := some r }
    | .pages _ _ => admitPages s g r
    | .barWait _ _ => back fun x => { x with replay := true }
    | .gbarWait _ _ => back fun x => { x with replay := true }
    | .barArrive _ _ => back id
    | .gbarArrive _ _ => back id
    | .monitor => admitPast (acquireHalf (acquireHalf s g (r.futile / 4 % 4) (r.futile % 4)) g (r.futile / 16) 3) g
    | .sleep _ _ => admitPast s g
    | .wide _ => admitPast (acquireHalf s g 2 2) g
    | .marker => back id
    | .regroup => back id
    | .rejoin => back id
    | .queue => back id
    | .reply => back id

/-- The continuation tasks of a cluster become Eligible in their furrow order (12 R319). -/
def execContinuationAdmit (cluster : Nat) (s : State) : Host.Outcome State Fault Refusal :=
  let isCont (f : FEntry) : Bool :=
    entryRuns s f && match f.task with | .cont _ _ => true | .team _ => false | .phase _ _ => false
  match furrowHead (s.cluster cluster).furrow isCont with
  | none => .next s
  | some e => match e.task with
    | .cont c k =>
      let s := furrowTake s cluster e
      let g := c * 32 + k
      let s := if (s.grp g).st = .parked then admitGroup s g else s
      done (if (s.cluster cluster).furrow.any isCont then s.post (.continuationAdmit cluster) else s)
    | .team _ => .next s
    | .phase _ _ => .next s

/-- The phase tasks of a cluster: the team reserves again, then its group resumes (12 R319, R332, 15 R389). -/
def execPhaseAdmit (cluster : Nat) (s : State) : Host.Outcome State Fault Refusal :=
  let isPhase (f : FEntry) : Bool :=
    entryRuns s f && match f.task with | .phase _ _ => true | .team _ => false | .cont _ _ => false
  match furrowHead (s.cluster cluster).furrow isPhase with
  | none => .next s
  | some e => match e.task with
    | .phase c k =>
      let g := c * 32 + k
      let tm := (s.grp g).team
      let d := (s.launchOf g).dw
      if !(s.team tm).reserved && !energyFits s cluster (recEnergy d) (recPcc d) 0 then .next s
      else
        let s := limitPoke (setReserved (furrowTake s cluster e) tm cluster true) tm
        let s := if (s.grp g).st = .parked then admitGroup s g else s
        done (if (s.cluster cluster).furrow.any isPhase then s.post (.phaseAdmit cluster) else s)
    | .team _ => .next s
    | .cont _ _ => .next s

/-- FE_BUDGET is raised in place of a re-park (08 R205, R206). -/
def execFeBudget (core slot : Nat) (s : State) : Host.Outcome State Fault Refusal :=
  let g := core * 32 + slot
  let x := s.grp g
  match x.park with
  | none => .next s
  | some r =>
    let fe := match r.cause with
      | .feStore _ _ _ => true | .feMem _ _ => true | .fePeer _ _ _ => true | _ => false
    let limit := (s.ctx (s.ctxOf g)).feretry
    if !fe || limit == 0 || r.futile < limit || x.st != .parked then .next s
    else done (trapAt (unlinkGroup s g) g 0x07 r.lead r.mask r.pc x.hdr)

/-! ### Exit and retirement (01 R15, R20, R25, 12 R317, R332) -/

/-- A group whose lanes have all exited leaves its slot; the last of a team retires it (01 R20, R25). A
group of a regroup batch keeps its slot for the threads that return to it (03 R92). -/
def execGroupExit (core slot : Nat) (s : State) : Host.Outcome State Fault Refusal :=
  let g := core * 32 + slot
  let x := s.grp g
  if !x.exiting ∨ x.pend.any fun p => isResult p.kind || p.kind == .store then .next s
  else if !x.origin.isEmpty then
    let s := s.modGrp g fun x => { settleFlight x with st := .exited, running := false, exiting := false }
    let t := s.team x.team
    .next (recheckWide ((restTeam s x.team).post (.regroupRejoin x.team)) t.launch t.cluster)
  else
    let s := savePoke (freeSlot s g) core slot
    let t := s.team x.team
    let rest := membersOf s x.team
    if rest.isEmpty then .next (s.post (.teamRetire x.team))
    else if rest.any fun h => parkedOn (s.grp h) .regroup then .next (s.post (.regroupRendezvous x.team))
    else .next (recheckWide (restTeam s x.team) t.launch t.cluster)

/-- May a command still write its team's window or tiles (01 R25)? DESIGN CHOICE (log entry 56): a command whose block
has not been read, or whose chain goes on, counts as one that may, since the manual does not say when its ends are known. -/
def cmdLocal (c : Cmd) : Bool :=
  let b := blkOf c.block
  c.block.isEmpty || b.ssp == 1 || b.dsp == 1 || b.dsp == 2 || (b.cv && b.csp) || b.lnk

/-- Does a team still own such a command? -/
def teamLocal (s : State) (tm : Nat) : Bool :=
  s.cores.any fun k => k.2.cmds.any fun d => d.team == tm && cmdLocal d

/-- Write DONE of a launch's record (12 R307). -/
def writeDone (s : State) (l : Nat) : State :=
  let x := s.launch l
  let r := cpReach s x.ctx x.rec_ 64 true true x.badPages
  match r.2 with
  | .error (.page a) => launchWait (r.1.modLaunch l fun y => { y with doneOwed := true }) l a true
  | .error (.bad a why) => stopFault why (r.1.modLaunch l fun y => { y with doneOwed := false }) x.ctx a (some l)
  | .ok p =>
    let v := cpLoad r.1 x.ctx { p with pa := p.pa + 24 } 4
    cpStore (v.1.modLaunch l fun y => { y with doneOwed := false }) x.ctx { p with pa := p.pa + 24 } 4
      (v.2 / 2 ^ 20 * 2 ^ 20 + x.nret % 2 ^ 20)

/-- Units still to be used or in use by a deterministic launch (14 R375). -/
def unitsLeft (s : State) (l : Nat) : List Nat :=
  let open_ := (s.teams.map Prod.snd).filter fun t => t.launch == l && t.st != .retired && t.st != .none
  ((s.launch l).units.filter fun u => open_.any fun t => t.number == u.1).map Prod.snd

/-- The cores that give a team's window back: their L1 has other sets (09 R223). -/
def dropCarve (s : State) (t : Team) : State :=
  eachDo (if t.pair then [t.core, t.core + 1] else [t.core]) s fun s c => l1Drop s c fun _ => true

/-- A team retires when its last group has exited; its window and tiles follow its last local command
(01 R25, 04 R98). -/
def execTeamRetire (team : Nat) (s : State) : Host.Outcome State Fault Refusal :=
  let t := s.team team
  let l := t.launch
  let groups := (teamGroups t).filter fun g => (s.grp g).st != .free && (s.grp g).team == team
  if t.st = .resident ∧ groups.isEmpty then
    let cores := if t.pair then [t.core, t.core + 1] else [t.core]
    -- every access of the team happens before what its end allows (10 R254)
    let s := eachDo cores s l1WriteAll
    let gone := (s.launch l).aborted
    let held := teamLocal s team
    -- a team that its launch's abort stopped has not done its work: it sets no DONE bit (12 R317)
    let s := s.modTeam team fun y =>
      { y with st := .retired, reserved := false, windowHeld := held, finished := y.finished || gone }
    let s := if held then s else dropCarve s t
    let s := s.modLaunch l fun y =>
      { y with nret := if gone then y.nret else y.nret + 1 }
    let s := s.modLaunch l fun y => { y with reserved := (unitsLeft s l).eraseDups }
    let s := if gone then s else writeDone s l
    let s := recheckWide s l t.cluster
    let x := s.launch l
    let s := if x.nret = recTeams x.dw ∧ x.peerOut ≠ 0 then s.post (.drainSend l) else s
    done (((postPlaces s (partClusters s t.ctx)).post (.producerTeamFinish team)).post (.launchEnd l))
  else if t.windowHeld && !teamLocal s team then
    let s := dropCarve (s.modTeam team fun y => { y with windowHeld := false }) t
    done (postPlaces s (partClusters s t.ctx))
  else .next s

/-- A producer team finishes: DONE is set and the consumer teams that need it are counted down (12 R317). -/
def execProducerTeamFinish (team : Nat) (s : State) : Host.Outcome State Fault Refusal :=
  let t := s.team team
  let x := s.launch t.launch
  if t.st ≠ .retired ∨ t.finished ∨ t.cmdsOut ≠ 0 ∨ t.peerOut ≠ 0 ∨ recRole x.dw ≠ 1 ∨ x.killed then .next s
  else
    let link := recLink x.dw
    let a := link + 64 + t.number / 8
    let r := cpReach s t.ctx a 1 true true x.badPages
    match r.2 with
    | .error (.page b) => done (launchWait r.1 t.launch b true)
    | .error (.bad b why) =>
      let s := stopFault why r.1 t.ctx b (some t.launch)
      done ((s.modTeam team fun y => { y with finished := true }).post (.launchEnd t.launch))
    | .ok p =>
      let v := cpLoad r.1 t.ctx p 1
      let s := cpStore v.1 t.ctx p 1 (Nat.lor v.2 (2 ^ (t.number % 8)))
      let s := s.modTeam team fun y => { y with finished := true }
      let hit := s.teams.filter fun e =>
        let y := s.launch e.2.launch
        e.2.st == .waiting && e.2.ctx == t.ctx && recLink y.dw == link && recRole y.dw == 2 && e.2.needs.contains t.number
      let s := eachDo hit s fun s e =>
        let c := e.2
        let left := c.needs.filter (· != t.number)
        let s := s.setTeam e.1 { c with needs := left, st := if left.isEmpty then .queued else .waiting }
        if left.isEmpty then
          let s := furrowPut s c.cluster c.pri (.team e.1)
          s.post (if (s.launch c.launch).gangWait then .gangPlace else .teamPlace c.cluster)
        else s
      done (s.post (.launchEnd t.launch))

/-! ### The ending of a launch (12 R311 to R313, 14 R384) -/

/-- One byte through the CRC-64 of ECMA-182, most significant bit first (14 R384). -/
def crc64Byte (c : Nat) (b : Nat) : Nat :=
  (List.range 8).foldl (fun c _ =>
    if c / 2 ^ 63 % 2 = 1 then Nat.xor (c * 2 % 2 ^ 64) 0x42F0E1EBA9EA3693 else c * 2 % 2 ^ 64)
    (Nat.xor c (b % 256 * 2 ^ 56))

def crc64 (bs : List Nat) : Nat := bs.foldl crc64Byte 0

/-- Read n bytes; what stops the reading. -/
def cpBytes (s : State) (c a : Nat) (bad : List Nat) : Nat → State × Except CpStop (List Nat)
  | 0 => (s, .ok [])
  | n + 1 =>
    let r := cpRead s c a 1 bad
    match r.2 with
    | .error e => (r.1, .error e)
    | .ok v =>
      let q := cpBytes r.1 c (a + 1) bad n
      (q.1, match q.2 with | .ok vs => .ok (v :: vs) | .error e => .error e)

/-- Elements of a log format with every NaN made canonical (14 R384). -/
def canonBytes (enc : Nat) : Nat → List Nat → List Nat
  | 0, bs => bs
  | n + 1, bs =>
    let w := 2 ^ (enc - 1)
    if enc = 0 ∨ bs.isEmpty then bs
    else
      let ty : LFmt := if enc = 1 then .l8 else if enc = 2 then .l16 else .l32
      let v := ((bs.take w).zip (List.range w)).foldl (fun a b => a + b.1 * 2 ^ (8 * b.2)) 0
      let v := if Log.decode ty v = .nan then Log.encode ty .nan else v
      (List.range w).map (fun i => v / 2 ^ (8 * i) % 256) ++ canonBytes enc n (bs.drop w)

/-- The bytes of the ranges of one logical core. -/
def rangeBytes (s : State) (c : Nat) (bad : List Nat) : List (Nat × Nat × Nat × Nat) → State × Except CpStop (List Nat)
  | [] => (s, .ok [])
  | (base, _, enc, len) :: r =>
    let v := cpBytes s c base bad len
    match v.2 with
    | .error e => (v.1, .error e)
    | .ok bs =>
      let q := rangeBytes v.1 c bad r
      (q.1, match q.2 with | .ok xs => .ok (canonBytes enc len bs ++ xs) | .error e => .error e)

/-- d(ℓ) of the logical cores, as bytes (14 R384). -/
def coreDigests (s : State) (x : Launch) : List Nat → State × Except CpStop (List Nat)
  | [] => (s, .ok [])
  | k :: r =>
    let v := rangeBytes s x.ctx x.badPages (x.outs.filter fun o => o.2.1 == k)
    match v.2 with
    | .error e => (v.1, .error e)
    | .ok bs =>
      let d := crc64 bs
      let q := coreDigests v.1 x r
      (q.1, match q.2 with
        | .ok xs => .ok ((List.range 8).map (fun i => d / 2 ^ (8 * i) % 256) ++ xs)
        | .error e => .error e)

/-- CST of a launch (12 R312, R313). -/
def cstOf (x : Launch) : Nat :=
  if x.killed then 3 else if x.refused then 4 else if x.faulted || x.aborted then 2 else 1

/-- May a launch end (01 R15, 12 R313, 13 R369)? -/
def launchOver (s : State) (l : Nat) : Bool :=
  let x := s.launch l
  let ts := (s.teams.map Prod.snd).filter fun t => t.launch == l
  x.refused || x.killed ||
    (x.st == 3 && x.cmdsOut == 0 && x.peerOut == 0 && !x.doneOwed && !(s.decs.any fun r => r.src == some l) &&
      (if x.aborted then ts.all fun t => t.st == .none || (t.st == .retired && (recRole x.dw != 1 || t.finished))
        else x.nret == recTeams x.dw && (recRole x.dw != 1 || ts.all fun t => t.finished)))

/-- Step 0: the digest (14 R384). An aborted launch never met R15: the manual states no digest of it, and the
word is a free value (log entry 7). -/
def endDigest (s : State) (l : Nat) : State × Bool :=
  let x := s.launch l
  let put (s : State) (v : DWord) : State := s.modLaunch l fun y => { y with digest := v, endStage := 1 }
  if !x.det || x.killed || x.refused then (put s 0, true)
  else if x.aborted then (put s.fresh (Config.freeWord s.freeCtr), true)
  else
    let s := eachDo (s.cores.map Prod.fst) s l1WriteAll
    let d := coreDigests s x (List.range x.lcn)
    match d.2 with
    | .ok bs => (put d.1 (BitVec.ofNat 64 (crc64 bs)), true)
    | .error (.page a) => (launchWait d.1 l a false, false)
    | .error (.bad a why) => (put (stopFault why d.1 x.ctx a (some l)) 0, true)

/-- Steps 1 and 2 of R313: the completion record, word 0 last. -/
def endRecord (s : State) (l : Nat) : State × Bool :=
  let x := s.launch l
  let next (s : State) : State := s.modLaunch l fun y => { y with endStage := 2 }
  let r := cpReach s x.ctx (recCrec x.dw) 64 false true x.badPages
  match r.2 with
  | .error (.page a) => (launchWait r.1 l a true, false)
  | .error (.bad _ why) => (next (stopFault why r.1 x.ctx (recCrec x.dw) (some l)), true)
  | .ok p =>
    let at_ (k : Nat) : Phys := { p with pa := p.pa + k }
    let s := cpStore r.1 x.ctx (at_ 8) 8 x.digest.toNat
    let s := cpStore s x.ctx (at_ 16) 8 (x.lack % 2 ^ 32 * 2 ^ 32)
    let s := eachDo [24, 32, 40, 48, 56] s fun s k => cpStore s x.ctx (at_ k) 8 0
    let s := cpStore s x.ctx (at_ 4) 4 (x.nret % 2 ^ 20)
    let w := cstOf x * 2 ^ 28 + min x.nflt 65535
    -- an empty word is filled and a full one is left full, at its home
    let s := if p.pr && p.fek then s.send (.feLine p.peer p.pa 0 (bytesOfWord 4 w) [(p.pa, true)])
      else
        let s := cpStore s x.ctx p 4 w
        if p.pr || p.hb then s
        else
          let s := setPromo s (p.pa / 256) none
          if p.fek then setFE s (.mem p.pa) true else s
    (next s, true)

/-- Step 3 of R313: ST of the task record. -/
def endState (s : State) (l : Nat) : State × Bool :=
  let x := s.launch l
  let st := match cstOf x with | 1 => 4 | 2 => 5 | 3 => 6 | _ => 7
  let next (s : State) : State := s.modLaunch l fun y => { y with endStage := 3, st := st }
  let r := cpReach s x.ctx x.rec_ 64 false true x.badPages
  match r.2 with
  | .error (.page a) => (launchWait r.1 l a true, false)
  | .error (.bad a why) => (next (stopFault why r.1 x.ctx a (some l)), true)
  | .ok p => (next (putSt r.1 x.ctx p (dwOf x.dw 7) st), true)

/-- The records of a successor list, and what stopped the list after them, if anything: 0 for a broken rule, else as
`CpStop` has it (12 R311). -/
def readSucc (s : State) (c a : Nat) (bad : List Nat) : Nat → State × Except Nat (List Nat × Option Nat)
  | 0 => (s, .ok ([], none))
  | n + 1 =>
    let r := cpRead s c a 8 bad
    match r.2 with
    | .error (.page b) => (r.1, .error b)
    | .error (.bad _ why) => (r.1, .ok ([], some why))
    | .ok v =>
      if 2 ^ 57 ≤ v ∨ v % 64 ≠ 0 then (r.1, .ok ([], some 0))
      else
        let q := readSucc r.1 c (a + 8) bad n
        (q.1, match q.2 with | .ok (xs, b) => .ok (v :: xs, b) | .error e => .error e)

/-- Step 4 of R313: each successor is decremented by 1, in list order (12 R311). -/
def endSucc (s : State) (l : Nat) : State × Bool :=
  let x := s.launch l
  let a := fld (dwOf x.dw 4) 0 57
  let next (s : State) : State := s.modLaunch l fun y => { y with endStage := 4 }
  if a = 0 ∨ x.killed ∨ x.refused then (next s, true)
  else
    let h := cpRead s x.ctx a 8 x.badPages
    match h.2 with
    | .error (.page b) => (launchWait h.1 l b false, false)
    | .error (.bad _ why) => (next (stopFault why h.1 x.ctx a (some l)), true)
    | .ok n =>
      if 2 ^ 8 ≤ n then (next (taskFault h.1 x.ctx a (some l)), true)
      else
        let r := readSucc h.1 x.ctx (a + 8) x.badPages n
        match r.2 with
        | .error b => (launchWait r.1 l b false, false)
        | .ok (recs, broken) =>
          let new : List CpReq := recs.map fun v => { ctx := x.ctx, rec_ := v, n := 1, src := some l }
          let s := if new.isEmpty then r.1 else { r.1 with decs := r.1.decs ++ new }.post .taskDecrement
          (next (match broken with | some why => stopFault why s x.ctx a (some l) | none => s), true)

/-- Run the steps of an ending from where it stands until it is over or waits for a page. -/
def endSteps (l : Nat) : Nat → State → State
  | 0, s => s
  | n + 1, s =>
    let r := match (s.launch l).endStage with
      | 0 => endDigest s l
      | 1 => endRecord s l
      | 2 => endState s l
      | 3 => endSucc s l
      | _ => (s, false)
    if r.2 then endSteps l n r.1 else r.1

/-- A launch ends: digest, completion record, state and successors (12 R313). -/
def execLaunchEnd (launch : Nat) (s : State) : Host.Outcome State Fault Refusal :=
  let x := s.launch launch
  let s := if x.doneOwed && x.waitPage.isNone && !x.ended then writeDone s launch else s
  let x := s.launch launch
  if x.ended ∨ x.waitPage.isSome ∨ !launchOver s launch then done s
  else
    let s := endSteps launch 4 s
    if (s.launch launch).endStage < 4 then done s
    else
      let s := s.modLaunch launch fun y => { y with ended := true, reserved := [], gangWait := false }
      let s := { s with launchQ := s.launchQ.filter fun e => e.2.1 != launch }
      let s := if s.decs.isEmpty then s else s.post .taskDecrement
      done (postPlaces (s.post .launchAdmit) (partClusters s x.ctx))

end Sys2Proof.Machine
end

