-- ==== Sys2Proof/Machine/System.lean ====
section
/-! DEFINITION. Translation registers, system registers, counters, the feature query, messages, and the
page-fault stage (03 R83, 13 R341, R342, R347, R348, R362, R363, 16 R413, R414). -/

namespace Sys2Proof.Machine

open State

/-- A fixed-latency scalar result of class TC1 on the scalar pipe (03 R69). -/
def sysScalar (s : State) (g n : Nat) (v : DWord) : Host.Outcome State Fault Refusal :=
  .next (finish (writeS s g n v) g 2 1 2 1 1 0 [.s n])

/-- The pages of a run from address a on: each present, next in physical address, of equal attributes and kind
(13 R341), to the end of the address space at most. The answer is the end of the run and the entries that were walked. -/
def runPages (s : State) (c : Nat) (ref : Phys) (big : Bool) :
    Nat → Nat → Nat → List Nat → Nat × List Nat
  | 0, a, _, es => (a, es)
  | n + 1, a, pa, es =>
    if 2 ^ 57 ≤ a then (a, es)
    else match walk s c a with
      | .absent => (a, es)
      | .malformed => (a, es)
      | .leaf e at_ b =>
        let p := leafPhys e b a
        let same := p.pa == pa && b == big && p.r == ref.r && p.w == ref.w && p.x == ref.x && p.pr == ref.pr &&
          p.peer == ref.peer && p.fek == ref.fek && p.hb == ref.hb
        if !same then (a, es)
        else
          let size := if b then 2 ^ 21 else 2 ^ 16
          let next := a / size * size + size
          runPages s c ref big n next (pa + (next - a)) (es ++ [at_])

/-- The walk of R341 for a translation register: the register and the limit, or what stops it. -/
inductive TlrX where
  | ok (t : TReg) (entries : List Nat)
  | absent
  | prot (malformed : Bool)
  deriving DecidableEq, Repr

def tlrWalk (s : State) (c v : Nat) (rw : Bool) : TlrX :=
  match walk s c v with
  | .absent => .absent
  | .malformed => .prot true
  | .leaf e _ big =>
    let p := leafPhys e big v
    if !p.r || (rw && !p.w) then .prot false
    else
      let r := runPages s c p big (2 ^ 41) v p.pa []
      .ok { val := true, vbase := v, pbase := p.pa, limit := min (2 ^ 21) (r.1 - v), wr := rw, pr := p.pr,
            peer := p.peer, fek := p.fek, hb := p.hb } r.2

/-- `tlr.r` and `tlr.rw` (13 R341). -/
def execTlr (f : FmtY) (s : State) : Host.Outcome State Fault Refusal :=
  let g := s.cur
  let x := s.g
  let c := s.ctxOf g
  let v := (readS s g f.s.toNat).toNat
  let rw := f.imm.getLsbD 0
  let n := f.idx.toNat % 8
  if 2 ^ 57 ≤ v then done (trap s g 0x06 v x.em)
  else match tlrWalk s c v rw with
    | .absent =>
      done (parkPages (charge (occupy s g 1 2 1) g 1) g x.live ((lanesOf x.live 64).map fun i => (i, v)) [v]
        (if rw then 12 else 8))
    | .prot malformed =>
      let s := if malformed then
          malformedRecord s g v (if rw then 12 else 8)
        else s
      done (trap s g 0x06 v x.em)
    | .ok t es =>
      let s := eachDo es s fun s e => setAD s c e rw
      let s := s.modGrp g fun x => { x with tregs := tset x.tregs n t }
      let s := writeS s g f.d.toNat (BitVec.ofNat 64 t.limit)
      done (finish s g 2 1 2 1 1 0 [.s f.d.toNat, .t n])

/-- `tlc` (13 R342). -/
def execTlc (f : FmtY) (s : State) : Host.Outcome State Fault Refusal :=
  let g := s.cur
  let n := f.idx.toNat % 8
  let s := s.modGrp g fun x => { x with tregs := tset x.tregs n { tget x.tregs {} n with val := false } }
  .next (finish s g 2 1 2 1 1 0 [.t n])

/-- The value of a system register (13 R362, R363, 14 R381). -/
def sysRead_ (s : State) (g idx : Nat) : DWord :=
  let x := s.grp g
  let c := s.ctxOf g
  let k := s.ctx c
  let det := isDet s g
  match idx with
  | 0x00 => BitVec.ofNat 64 c
  | 0x01 => BitVec.ofNat 64 (k.detMode + 4 * b2n det)
  | 0x02 => BitVec.ofNat 64 k.batchpol
  | 0x03 => BitVec.ofNat 64 k.leaseLim
  | 0x04 => BitVec.ofNat 64 k.feretry
  | 0x05 => BitVec.ofNat 64 k.monquota
  | 0x06 => BitVec.ofNat 64 k.tvec
  | 0x08 => x.lstat.setWidth 64
  | 0x09 => k.mastat.setWidth 64
  | 0x10 => x.trap.tcause
  | 0x11 => x.trap.tpc
  | 0x12 => x.trap.thdr
  | 0x13 => x.trap.taddr
  | 0x14 => x.trap.tlmask
  | 0x15 => x.trap.tem
  | 0x16 => BitVec.ofNat 64 (b2n x.trap.hmode)
  | 0x18 => x.trap.wpa0
  | 0x19 => x.trap.wpa1
  | 0x1A => x.trap.wpc
  | 0x20 => x.retc
  | 0x21 => if det then x.retc else (s.core (g / 32)).cyc
  | 0x22 => if det then x.retc else (s.core (g / 32)).elt
  | _ => 0

/-- `srd` (13 R363). -/
def execSrd (f : FmtY) (s : State) : Host.Outcome State Fault Refusal :=
  sysScalar s s.cur f.s.toNat (sysRead_ s s.cur f.idx.toNat)

/-- Is a register written by handlers only (13 R362)? -/
def handlerOnly (idx : Nat) : Bool := 0x10 ≤ idx && idx ≤ 0x15

/-- What `swr` leaves of a value in a trap register or watchpoint (13 R353, R360). -/
def trapRegsSet (t : TrapRegs) (idx gw : Nat) (v : DWord) : TrapRegs :=
  let low (n : Nat) : DWord := v &&& lowMask n
  match idx with
  | 0x10 => { t with tcause := low 8 }
  | 0x11 => { t with tpc := low 57 }
  | 0x12 => { t with thdr := low 57 }
  | 0x13 => { t with taddr := v }
  | 0x14 => { t with tlmask := low gw }
  | 0x15 => { t with tem := low gw }
  | 0x18 => { t with wpa0 := low 57 }
  | 0x19 => { t with wpa1 := low 57 }
  | 0x1A => { t with wpc := low 16 }
  | _ => t

/-- A context register is written at the end of the cycle, from which its other groups see it (13 R363). -/
def setCtxReg (s : State) (c idx : Nat) (v : DWord) : State :=
  s.modCore s.curCore fun k => { k with ctxSets := k.ctxSets ++ [(c, idx, v)] }

/-- The writes of context registers whose cycle ends are performed, in their order (13 R363, 03 R76, 09 R243). -/
def settleCtxRegs (s : State) (core : Nat) : State :=
  let sets := (s.core core).ctxSets
  if sets.isEmpty then s
  else eachDo sets (s.modCore core fun k => { k with ctxSets := [] }) fun s e =>
    s.modCtx e.1 fun k => if e.2.1 = 2 then { k with batchpol := fld e.2.2 0 2 } else { k with mastat := e.2.2.setWidth 4 }

/-- `swr` (13 R362, R363, 03 R76, 05 R138, 09 R243). A register of the group is written at once, since the group has no
other instruction in the cycle; one of the context at the end of the cycle. -/
def execSwr (f : FmtY) (s : State) : Host.Outcome State Fault Refusal :=
  let g := s.cur
  let x := s.g
  let c := s.ctxOf g
  let v := readS s g f.s.toNat
  let idx := f.idx.toNat
  let ok (s : State) : Host.Outcome State Fault Refusal := .next (finish s g 2 1 2 1 1 0 [])
  if idx = 0x02 then
    if fld v 0 2 = 3 then done (trap s g 0x06 0 x.em) else ok (setCtxReg s c idx v)
  else if idx = 0x08 then ok (setLstat s g (v.setWidth 4))
  else if idx = 0x09 then ok (setCtxReg s c idx v)
  else if (handlerOnly idx && x.trap.hmode) || (0x18 ≤ idx && idx ≤ 0x1A) then
    ok (s.modGrp g fun x => { x with trap := trapRegsSet x.trap idx x.gw v })
  else done (trap s g 0x03 0 x.em)

/-- Enabled cores among a list of clusters. -/
def enabledIn (s : State) (ks : List Nat) : Nat :=
  (ks.flatMap fun k => (List.range 16).filter fun j => s.enabled (16 * k + j)).length

/-- The peers PEERMAP names (16 R410, R413). -/
def namedPeers (s : State) : Nat := ((List.range 16).filter fun p => fld s.dev.peermap (4 * p) 4 < 8).length

/-- A feature word as a group reads it (16 R413). -/
def featWord (s : State) (g idx : Nat) : Nat :=
  let k := g / 32 / 16
  let cls := partClusters s (s.ctxOf g)
  if isDet s g && (idx == 1 || idx == 4) then 0
  else match idx with
    | 0 => 4 * 2 ^ 24 + s.dev.rev % 256 * 2 ^ 16
    | 1 =>
      s.dev.bin * 2 ^ 56 + enabledIn s (List.range Config.numClusters) * 2 ^ 47 + enabledIn s cls * 2 ^ 38 +
        cls.headD 0 * 2 ^ 33 + cls.length * 2 ^ 28 + s.dev.xlPair * 2 ^ 16 +
        (List.range 16).foldl (fun a j => a + b2n (s.enabled (16 * k + j)) * 2 ^ j) 0
    | 2 => 0x00000001007F007F
    | 3 => (List.range 4).foldl (fun a c =>
        a + Config.ticks true c * 2 ^ (16 * c) + Config.ticks false c * 2 ^ (16 * c + 8)) 0
    | 4 => s.dev.trained.toNat + s.dev.peerself * 2 ^ 8 + (namedPeers s - 1) * 2 ^ 12 + b2n s.dev.hostcap * 2 ^ 16 +
        b2n (namedPeers s == 0) * 2 ^ 17
    | 5 => Config.numSlots + Config.numEntries * 2 ^ 8 + Config.numMonitors * 2 ^ 16 + 64 * 2 ^ 24
    | _ => 0

/-- `feat` (16 R413). -/
def execFeat (f : FmtY) (s : State) : Host.Outcome State Fault Refusal :=
  sysScalar s s.cur f.s.toNat (BitVec.ofNat 64 (featWord s s.cur f.idx.toNat))

/-- `rdc` (03 R83). -/
def execRdc (f : FmtY) (s : State) : Host.Outcome State Fault Refusal :=
  let g := s.cur
  let k := s.core (g / 32)
  let idx := if isDet s g && f.idx.toNat < 2 then 2 else f.idx.toNat
  sysScalar s g f.s.toNat (match idx with | 0 => k.cyc | 1 => k.elt | _ => s.g.retc)

/-- `msg` (16 R414). -/
def execMsg (f : FmtY) (s : State) : Host.Outcome State Fault Refusal :=
  let g := s.cur
  if !releaseReady s.g 3 2 then .next (hold s g)
  else
    let s := releaseHalf s g 3 2
    let r := eventRecord s (s.ctxOf g) 0x10 (g / 32 / 16) f.imm.toNat 0 0 0 (readS s g f.a.toNat).toNat
    done (syncResult r.1 g [(f.d.toNat, BitVec.ofNat 64 (if isDet s g then 0 else r.2))] [])

/-- Reports that waited for room in the gathering stage are taken in arrival order (13 R347, R348, R350). -/
def execPageFaultReport (s : State) : Host.Outcome State Fault Refusal :=
  done (eachDo s.faultWait { s with faultWait := [] } reportPage)

end Sys2Proof.Machine
end

