-- ==== Sys2Proof/Machine/Energy.lean ====
section
/-! DEFINITION. Cycles of a core, intervals, allotments, throttling, rails, leases, thermal trips and sleep
(03 R68 to R71, R80, 15 R385 to R401). -/

namespace Sys2Proof.Machine

open State

/-! ### The end of a cycle -/

/-- The class of the cycle in progress on some cores (03 R68, R70). -/
def cycleClass (s : State) (cs : List Nat) : Nat :=
  cs.foldl (fun a c =>
    let k := s.core c
    max (max a (k.pipe.foldl (fun b p => max b p.1) 0)) (if k.matBusy ≠ 0 then 1 else 0)) 0

/-- Team-register writes whose cycle has ended are performed, a later slot after an earlier one (04 R106). -/
def settleTeamRegs (s : State) (tm now : Nat) : State :=
  let t := s.team tm
  let due := t.hpend.filter fun e => e.1 ≤ now
  if due.isEmpty then s
  else
    let order := sortBy (fun a b => a.1 < b.1 || (a.1 == b.1 && a.2.1 ≤ b.2.1)) due
    let s := s.modTeam tm fun t => { t with hpend := t.hpend.filter fun e => !(e.1 ≤ now) }
    eachDo order s fun s e => hregWrite s t t.gw e.2.2.1 e.2.2.2.1 e.2.2.2.2

/-- A group that is Held on a load, an atomic or the memory port (15 R387). -/
def heldOnMemory (x : Group) : Bool := x.st == .held && x.memHeld

/-- End the cycle in progress on a core, or on both cores of a pair, at a rail's period (03 R68, R80, 04 R99). The words of
the store with a correctable error are corrected by then (09 R231; log entry 52). -/
def closeCycle (s : State) (cs : List Nat) (hi : Bool) : State :=
  let ticks := Config.ticks hi (cycleClass s cs)
  eachDo cs s fun s c =>
    let s := settleCtxRegs (correctStore s c) c
    let k := s.core c
    let now := k.cyc.toNat
    let gs := (k.slots.map Prod.snd).filter fun x => x.st == .eligible || x.st == .held
    let s := s.modDev fun d => { d with occO := d.occO + gs.length, occH := d.occH + (gs.filter heldOnMemory).length }
    let tms := ((s.teams.filter fun e => e.2.st == .resident && e.2.core == c && !e.2.hpend.isEmpty).map Prod.fst)
    let s := eachDo tms s fun s tm => settleTeamRegs s tm now
    let settle (x : Group) : Group :=
      let x := retireDue now x
      { x with lat := x.lat.filter fun l => now + 1 < l.2 }
    s.modCore c fun k =>
      { k with slots := k.slots.map (fun e => (e.1, settle e.2)), cyc := k.cyc + 1, elt := k.elt + BitVec.ofNat 64 ticks,
               pipe := k.pipe.filterMap (fun p => if p.2 ≤ 1 then none else some (p.1, p.2 - 1)),
               matBusy := k.matBusy - 1, cycling := false }

/-- The cores whose clock generators act as one with a core's: itself, or the pair that a spanning team holds,
lower core first (04 R99). -/
def clockCores (s : State) (c : Nat) : List Nat :=
  let lo := c / 2 * 2
  if (s.teams.any fun e => e.2.st == .resident && e.2.pair && e.2.core == lo) then [lo, lo + 1] else [c]

/-- The rail of a core's cluster. -/
def railOf (s : State) (c : Nat) : Bool := (s.cluster (c / 16)).hi

/-- The clocks of a cluster start again on the new rail: the cycle in progress has ended at the old period, and
ELT has advanced by the stop (03 R71). -/
def execRailStopEnd (cluster : Nat) (s : State) : Host.Outcome State Fault Refusal :=
  let cs := ((List.range 16).map (· + 16 * cluster)).filter fun c => s.enabled c
  .next (eachDo cs s fun s c =>
    match (s.core c).railStop with
    | none => s
    | some old =>
      let both := clockCores s c
      eachDo both (closeCycle s both old) fun s c =>
        s.modCore c fun k => { k with elt := k.elt + BitVec.ofNat 64 Config.railStopTicks, railStop := none })

/-! ### Leases (15 R395, R396) -/

/-- The lease of a context on a cluster. -/
def leaseOf (s : State) (k c : Nat) : Option Lease := (s.cluster k).leases.find? fun x => x.ctx == c

/-- Remaining intervals. -/
def leaseLeft (s : State) (k c : Nat) : Nat := match leaseOf s k c with | some x => x.left | none => 0

def dropLease (s : State) (k c : Nat) : State :=
  s.modCluster k fun x => { x with leases := x.leases.filter fun y => y.ctx != c }

/-- Does a cluster count as high: on the high rail, or with a granted lease not yet applied (15 R396)? -/
def countsHigh (x : Cluster) : Bool := x.hi || x.leases.any fun y => !y.applied

/-- The outcome of a request of N intervals: code, and the lease it leaves (15 R396). -/
def leaseCode (s : State) (k c n : Nat) : Nat × Option Nat :=
  let x := s.cluster k
  let lim := (s.ctx c).leaseLim
  let near := (List.range 16).any fun j =>
    let y := s.core (16 * k + j)
    s.enabled (16 * k + j) && y.trip ≤ y.temp + 5
  let high := ((List.range Config.numClusters).filter fun j => countsHigh (s.cluster j)).length
  if n = 0 then (7, none)
  else if x.pol = 1 then (6, none)
  else if x.pol = 2 then (5, none)
  else if lim = 0 then (2, none)
  else if near then (4, none)
  else if !countsHigh x && s.dev.hmax ≤ high then (3, none)
  else (if lim < n then 1 else 0, some (max (leaseLeft s k c) (min n lim)))

/-- Grant or renew a lease. -/
def putLease (s : State) (k c left : Nat) : State :=
  s.modCluster k fun x =>
    if x.leases.any fun y => y.ctx == c then
      { x with leases := x.leases.map fun y => if y.ctx = c then { y with left := left } else y }
    else { x with leases := x.leases ++ [{ ctx := c, left := left, applied := false }] }

/-- A request for a lease: the state after it, its code. -/
def requestLease (s : State) (k c n : Nat) : State × Nat :=
  let r := leaseCode s k c n
  (match r.2 with | some left => putLease s k c left | none => s, r.1)

/-- `lease` (15 R396). -/
def execLease (f : FmtY) (s : State) : Host.Outcome State Fault Refusal :=
  let g := s.cur
  let k := g / 32 / 16
  let c := s.ctxOf g
  let r := requestLease s k c (fld (readS s g f.s.toNat) 0 16)
  let v := if isDet s g then 0 else r.2 * 2 ^ 16 + leaseLeft r.1 k c
  .next (syncResult r.1 g [(f.d.toNat, BitVec.ofNat 64 v)] [])

/-- `lrel` (15 R396). -/
def execLrel (f : FmtY) (s : State) : Host.Outcome State Fault Refusal :=
  let g := s.cur
  let k := g / 32 / 16
  let c := s.ctxOf g
  let v := if isDet s g then 0 else leaseLeft s k c
  .next (syncResult (dropLease s k c) g [(f.d.toNat, BitVec.ofNat 64 v)] [])

/-- The resident teams of a context on a cluster. -/
def teamsOn (s : State) (k c : Nat) : List Nat :=
  (s.teams.filter fun e => e.2.st == .resident && e.2.cluster == k && e.2.ctx == c).map Prod.fst

/-- A lease whose count has reached 0 ends, with a notice to the context's teams there (15 R392, R395). -/
def execLeaseExpire (cluster ctx : Nat) (s : State) : Host.Outcome State Fault Refusal :=
  match leaseOf s cluster ctx with
  | none => .next s
  | some x =>
    if x.left ≠ 0 then .next s
    else done (eachDo (teamsOn s cluster ctx) (dropLease s cluster ctx) fun s t => notice s t 3)

/-! ### Throttling and intervals (15 R385 to R394, R398, R399) -/

/-- Matrix credit of the cores of a throttled cluster (15 R391, 07 R185). -/
def setCredits (s : State) (k : Nat) : State :=
  let was := (s.cluster k).throttled
  let now := overReserved s k
  let s := s.modCluster k fun x => { x with throttled := now }
  let s := eachDo (List.range 16) s fun s j =>
    let c := 16 * k + j
    let ts := (s.teams.filter fun e => e.2.st == .resident && (e.2.core == c || (e.2.pair && e.2.core + 1 == c))).map Prod.fst
    let sum := ts.foldl (fun a t => a + teamLimit s t) 0
    s.modCore c fun y => { y with credit := if now then some (max 4096 (4096 * sum)) else none }
  if now && !was then
    eachDo ((s.teams.filter fun e => e.2.st == .resident && e.2.cluster == k).map Prod.fst) s fun s t => notice s t 2
  else s

/-- A cluster that has become throttled, or is so no longer, in the middle of an interval (15 R391). -/
def recheckThrottle (s : State) (k : Nat) : State :=
  if overReserved s k = (s.cluster k).throttled then s else setCredits s k

/-- A team's metered total has reached its limit, or the reservations of its cluster have changed (15 R390 to R392). -/
def execTeamThrottle (team : Nat) (s : State) : Host.Outcome State Fault Refusal :=
  let s := recheckThrottle s (s.team team).cluster
  if (s.team team).st ≠ .resident ∨ !limitReached s team then done s
  else done (notice (s.modTeam team fun t => { t with throttled := true }) team 1)

/-- The leases of a cluster at an interval start: returned without a team, counted down otherwise (15 R395). -/
def ageLeases (s : State) (k : Nat) : State :=
  let s := s.modCluster k fun x =>
    { x with leases := (x.leases.filter fun y => !(teamsOn s k y.ctx).isEmpty).map fun y =>
      { y with left := y.left - 1, applied := true } }
  eachDo ((s.cluster k).leases.filter fun y => y.left == 0) s fun s y => s.post (.leaseExpire k y.ctx)

/-- The rail a cluster takes at an interval start (15 R394). -/
def railChoice (x : Cluster) : Bool :=
  match x.pol with
  | 0 => x.leases.any fun y => 0 < y.left
  | 1 => true
  | _ => false

/-- Change the rail: every core of the cluster stops at its next cycle edge (03 R71). -/
def changeRail (s : State) (k : Nat) : State :=
  let old := (s.cluster k).hi
  let new := railChoice (s.cluster k)
  if old = new then s
  else
    let s := s.modCluster k fun x => { x with hi := new }
    let cs := ((List.range 16).map (· + 16 * k)).filter fun c => s.enabled c
    let s := eachDo cs s fun s c => s.modCore c fun y => { y with railStop := some (y.railStop.getD old) }
    -- the core whose cycle still has instructions to issue stops at its end; a pair's stand on its lower core
    let lead := (clockCores s s.curCore).headD s.curCore
    if lead / 16 = k && !(s.core lead).turn.isEmpty then s else s.post (.railStopEnd k)

/-- A temperature sample; TRP becoming 1 requests migration of the core's teams (15 R398, R399). -/
def sampleCore (s : State) (c temp : Nat) : State :=
  let k := s.core c
  let trp := if k.trip ≤ temp then true else if temp + 5 < k.trip then false else k.trp
  let s := s.modCore c fun k => { k with temp := temp, trp := trp, halfDuty := k.halfDuty && trp }
  if trp && !k.trp then
    let ts := (s.teams.filter fun e => e.2.st == .resident && (e.2.core == c || (e.2.pair && e.2.core + 1 == c))).map Prod.fst
    eachDo ts s fun s t => (notice (s.modTeam t fun x => { x with migrate := true }) t 5).post (.teamMigrate t)
  else s

/-- Sleeping groups of a cluster count an interval (15 R401). -/
def countSleep (s : State) (k : Nat) : State :=
  eachDo ((List.range 16).map (· + 16 * k)) s fun s c =>
    eachDo (s.core c).slots s fun s e =>
      let g := c * 32 + e.1
      match e.2.park with
      | some r => match r.cause with
        | .sleep left n =>
          let s := s.modGrp g fun x => { x with park := some { r with cause := .sleep (left - 1) n } }
          if left ≤ 1 then s.post (.sleepWake c e.1) else s
        | _ => s
      | none => s

/-- Samples of the cores of a cluster. -/
def sampleCores (s : State) (k : Nat) (temps : List (Nat × Nat)) : State :=
  eachDo ((List.range 16).map (· + 16 * k)) s fun s c =>
    match temps.find? fun e => e.1 == c with
    | some e => sampleCore s c e.2
    | none => s

/-- A control interval of a cluster starts (15 R385, R388, R390, R391, R394, R395, R398, R399, R401). -/
def startInterval (s : State) (k : Nat) (temps : List (Nat × Nat)) : State :=
  let s := s.modCluster k fun x => { x with interval := (x.interval + 1) % 2 ^ 32, allot := x.nextAllot, meter := 0 }
  let s := { s with teams := s.teams.map fun e =>
    if e.2.cluster = k ∧ (e.2.st = .resident ∨ e.2.st = .saved) then (e.1, { e.2 with meter := 0, throttled := false })
    else e }
  let s := eachDo ((List.range 16).map (· + 16 * k)) s fun s c => s.modCore c fun y => { y with exempt := [] }
  let s := ageLeases s k
  let s := changeRail s k
  let s := setCredits s k
  let s := countSleep (sampleCores s k temps) k
  -- a limit of 0 is reached at once (15 R390)
  let full := (s.teams.filter fun e => e.2.st == .resident && e.2.cluster == k && limitReached s e.1).map Prod.fst
  let s := eachDo full s fun s t => s.post (.teamThrottle t)
  let stand := (s.teams.filter fun e => e.2.st == .resident && e.2.cluster == k && e.2.migrate).map Prod.fst
  let s := eachDo stand s fun s t => s.post (.teamMigrate t)
  (postPlaces s [k]).post (.phaseAdmit k)

/-- A cluster's control interval starts, or only its temperature sample is taken: the sample of an interval may come
later in it (15 R398, 18 R438; log entry 16). -/
def execControlIntervalStart (cluster : Nat) (start : Bool) (temps : List (Nat × Nat)) (s : State) :
    Host.Outcome State Fault Refusal :=
  if start then done (startInterval s cluster temps) else done (sampleCores s cluster temps)

/-- The package controller computes the shares of the next interval; `leak` is the leakage measured and
`bandwidth` the HBM use in 1/256 (15 R387, R388). -/
def execPackageIntervalEnd (leak bandwidth : Nat) (s : State) : Host.Outcome State Fault Refusal :=
  let d := s.dev
  let t := if d.occO = 0 then 0 else 256 * d.occH / d.occO
  let b := max (d.plim * 500 - leak) 208000
  let m := min (120000 + 337500 * max (min bandwidth 256) t / 256) (b - 88000)
  let c := b - m
  let w (k : Nat) : Nat :=
    let x := s.cluster k
    let held := s.teams.any fun e => e.2.st == .resident && e.2.cluster == k
    if !held && x.furrow.isEmpty then 0 else if x.hi then 2 else 1
  let ks := List.range Config.numClusters
  let sum := ks.foldl (fun a k => a + w k) 0
  let share (k : Nat) : Nat := if sum = 0 then 4000 else 4000 + (c - 88000) * w k / sum
  let shares := ks.map fun k => (k, share k)
  let s := eachDo shares s fun s e => s.modCluster e.1 fun x => { x with nextAllot := e.2 }
  .next (s.modDev fun d => { d with pkgInterval := (d.pkgInterval + 1) % 2 ^ 32, mShare := m, cShare := c,
                                    occO := 0, occH := 0, island := 0 })

/-! ### Sleep (15 R401) -/

/-- `slp.iv` and `slp.ntc`: the group parks for some intervals, and for the first notice if that comes earlier. -/
def sleepOp (s : State) (f : FmtY) (notice : Bool) : Host.Outcome State Fault Refusal :=
  let g := s.cur
  let x := s.g
  let k := min (readS s g f.s.toNat).toNat 255
  if k = 0 then .next (finish s g 2 1 2 1 1 0 [])
  else .next (park (charge (occupy s g 1 2 1) g 1) g { cause := .sleep k notice, mask := x.em, pc := x.pc })

/-- `slp.iv` (15 R401). -/
def execSlpIv (f : FmtY) (s : State) : Host.Outcome State Fault Refusal := sleepOp s f false

/-- `slp.ntc` (15 R401). -/
def execSlpNtc (f : FmtY) (s : State) : Host.Outcome State Fault Refusal := sleepOp s f true

/-- A sleeping group wakes: its intervals have passed, or a notice came (15 R401). -/
def execSleepWake (core slot : Nat) (s : State) : Host.Outcome State Fault Refusal :=
  let g := core * 32 + slot
  match (s.grp g).park with
  | some r => match r.cause with
    | .sleep left n => if !r.woken && (left == 0 || n) then .next (wakeGroup s g) else .next s
    | _ => .next s
  | none => .next s

end Sys2Proof.Machine
end

