-- ==== Sys2Proof/Machine/Switch.lean ====
section
/-! DEFINITION. Pre-emption, the save area, restore, kill, creation and deletion of contexts, and migration
(01 R20 to R28, 08 R203, 10 R268, 11 R291, 12 R323, R334, 13 R364 to R367, 15 R397, R399).

A saved team stands on a pair of numbers beyond the physical cores, which hold its groups, store window, tiles
and commands at frame 0 (log entry 12); moving a team between cores, saving it and restoring it are then one
operation. -/

namespace Sys2Proof.Machine

open State

/-- The lower of the two numbers a saved team stands on. -/
def savedCore (tm : Nat) : Nat := 65536 + 2 * tm

/-! ### Moving a team -/

/-- Apply a function to every entry of a table. -/
def tmap {α : Type} (t : Tab α) (f : α → α) : Tab α := t.map fun e => (e.1, f e.2)

/-- Where a team goes. -/
structure Dest where
  cluster : Nat
  core : Nat
  frame : Nat
  slots : List Nat
  tiles : List Nat
  tilesUpper : List Nat
  deriving DecidableEq, Repr

/-- Move n bytes from `a` of one memory to `b` of another. -/
def moveMem (src dst : Mem) (a b n : Nat) : Mem :=
  (dst.filter fun e => e.1 < b) ++
    (src.filterMap fun e => if a ≤ e.1 ∧ e.1 < a + n then some (e.1 - a + b, e.2) else none) ++
    dst.filter fun e => b + n ≤ e.1

/-- Move the numbers of a range of one rising list to another. -/
def moveNats (src dst : List Nat) (a b n : Nat) : List Nat :=
  (dst.filter fun e => e < b) ++
    (src.filterMap fun e => if a ≤ e ∧ e < a + n then some (e - a + b) else none) ++ dst.filter fun e => b + n ≤ e

/-- Move a window from one core to another. -/
def moveWindow (s : State) (c frame c' frame' size : Nat) : State :=
  let k := s.core c
  let s := s.modCore c' fun y => { y with
    store := moveMem k.store y.store frame frame' size,
    storeEmpty := moveNats k.storeEmpty y.storeEmpty frame frame' size,
    badStore := moveNats k.badStore y.badStore frame frame' size,
    softStore := moveNats k.softStore y.softStore frame frame' size }
  clearWindow s c frame size

/-- Move the tiles of a team from one core to another. -/
def moveTiles (s : State) (c c' : Nat) (ts ts' : List Nat) : State :=
  let k := s.core c
  let s := s.modCore c' fun y => eachDo (ts.zip ts') y fun y p =>
    { y with veneer := moveMem k.veneer y.veneer (p.1 * Config.tileBytes) (p.2 * Config.tileBytes) Config.tileBytes,
             tileSt := tset y.tileSt p.2 (tget k.tileSt .ready p.1) }
  clearTiles s c ts

/-- The new number of a group. -/
def mapGid (m : List (Nat × Nat)) (g : Nat) : Nat := match m.find? fun e => e.1 == g with | some e => e.2 | none => g

/-- A word of a moved window. -/
def mapObj (t t' : Team) : WObj → WObj
  | .store c off =>
    if t.frame ≤ off && off < t.frame + t.size && (c == t.core || (t.pair && c == t.core + 1)) then
      .store (c - t.core + t'.core) (off - t.frame + t'.frame)
    else .store c off
  | .mem pa => .mem pa

def mapWho (m : List (Nat × Nat)) : Who → Who
  | .group c k => let g := mapGid m (c * 32 + k); .group (g / 32) (g % 32)
  | .engine c q => .engine c q
  | .peer d c k => .peer d c k

def mapWaiter (m : List (Nat × Nat)) : FWaiter → FWaiter
  | .group c k => let g := mapGid m (c * 32 + k); .group (g / 32) (g % 32)
  | w => w

def mapTask (m : List (Nat × Nat)) : Task → Task
  | .team t => .team t
  | .cont c k => let g := mapGid m (c * 32 + k); .cont (g / 32) (g % 32)
  | .phase c k => let g := mapGid m (c * 32 + k); .phase (g / 32) (g % 32)

/-- A park record that names a word of the window, or a proxy of the group, which is g' now. -/
def mapPark (t t' : Team) (g' : Nat) (r : ParkRec) : ParkRec :=
  let r := { r with proxy := r.proxy.map fun _ => (g' / 32, g' % 32) }
  match r.cause with
  | .feStore c off fe => match mapObj t t' (.store c off) with
    | .store c' off' => { r with cause := .feStore c' off' fe }
    | .mem _ => r
  | _ => r

/-- The group as it arrives: nothing of the old core's cycles stays with it. -/
def mapGroup (t t' : Team) (m : List (Nat × Nat)) (g' : Nat) (x : Group) : Group :=
  { x with park := x.park.map (mapPark t t' g'), redo := x.redo.map (mapPark t t' g'), lat := [], issueAt := 0, rows := 0,
           running := false, yielded := none, tail := none, origin := x.origin.map fun e => (e.1, mapGid m e.2) }

/-- Keys of the regroup tables, which begin with an origin (03 R92). -/
def mapKeys {α : Type} (m : List (Nat × Nat)) (unit : Nat) (t : Tab α) : Tab α :=
  t.foldl (fun a e => tset a (mapGid m (e.1 / unit) * unit + e.1 % unit) e.2) []

/-- Every place that names a group of the team names its new number (01 R22, 08 R203). -/
def repoint (s : State) (tm : Nat) (t t' : Team) (m : List (Nat × Nat)) : State :=
  let gctr (q : GCtr) : GCtr :=
    { q with waiters := q.waiters.map (mapGid m), refused := q.refused.map (mapGid m), owed := q.owed.map (mapGid m) }
  let wt (w : Waiter) : Waiter := { w with obj := mapObj t t' w.obj, who := mapWho m w.who }
  let fault (f : OpenFault) : OpenFault := { f with waiters := f.waiters.map (mapWaiter m) }
  let item (i : PItem) : PItem := { i with grp := i.grp.map fun g => (mapGid m g.1, g.2) }
  let cmd (c : Cmd) : Cmd :=
    if c.team = tm then { c with slot := mapGid m c.slot, fillAt := c.fillAt.map (mapObj t t') } else c
  let ctx (x : Ctx) : Ctx := { x with gctrs := tmap x.gctrs gctr }
  let core (k : Core) : Core := { k with cmds := k.cmds.map cmd }
  let clu (k : Cluster) : Cluster := { k with furrow := k.furrow.map fun f => { f with task := mapTask m f.task } }
  let s := { s with
    headland := s.headland.map wt
    faults := s.faults.map fault
    faultWait := s.faultWait.map fault
    items := tmap s.items (fun l => l.map item)
    ctxs := tmap s.ctxs ctx
    cores := tmap s.cores core
    clusters := tmap s.clusters clu }
  s.modTeam tm fun t => { t with
    rgThreads := t.rgThreads.map (fun (h : Nat × Nat × Nat) => (h.1, mapGid m h.2.1, h.2.2))
    rgOrigins := t.rgOrigins.map (fun (o : Nat × Group) => (mapGid m o.1, o.2))
    rgRegs := mapKeys m (256 * 64) t.rgRegs
    rgPreds := mapKeys m 64 t.rgPreds
    rgFlags := t.rgFlags.map (fun (f : Nat × BitVec 4 × BitVec 4 × Tab (BitVec 7)) => (mapGid m f.1, f.2))
    rgSurv := mapKeys m 1 t.rgSurv }

/-- Continuation and phase tasks of groups that came to another cluster follow them to its furrow, in their order
(12 R323). -/
def followTasks (s : State) : State :=
  let away (k : Nat) (f : FEntry) : Bool := match f.task with
    | .team _ => false
    | .cont c _ => c < Config.numCores && c / 16 != k
    | .phase c _ => c < Config.numCores && c / 16 != k
  let home (f : FEntry) : Nat := match f.task with | .team _ => 0 | .cont c _ => c / 16 | .phase c _ => c / 16
  let moved := s.clusters.flatMap fun e => e.2.furrow.filter (away e.1)
  if moved.isEmpty then s
  else
    let s := { s with clusters := s.clusters.map fun e =>
                 (e.1, { e.2 with furrow := e.2.furrow.filter fun f => !away e.1 f }) }
    eachDo moved s fun s f => s.modCluster (home f) fun k => { k with furrow := k.furrow ++ [f] }

/-- Every team-register write in flight is performed (04 R106). -/
def settleAllRegs (s : State) (tm : Nat) : State :=
  settleTeamRegs s tm (((s.team tm).hpend.map fun e => e.1).foldl max 0)

/-- Move a team with its window, tiles and groups (13 R366, 15 R399). -/
def relocate (s : State) (tm : Nat) (d : Dest) : State :=
  let s := settleAllRegs s tm
  let t := s.team tm
  -- the metered total is that of the present interval of the team's cluster (15 R386)
  let away := d.cluster != t.cluster
  let t' : Team := { t with cluster := d.cluster, core := d.core, frame := d.frame, slots := d.slots, tiles := d.tiles,
                            tilesUpper := d.tilesUpper, meter := if away then 0 else t.meter,
                            throttled := t.throttled && !away }
  let pairs := (teamGroups t).zip (teamGroups t')
  let live := pairs.filter fun p => (s.grp p.1).st != .free && (s.grp p.1).team == tm
  let xs := live.map fun p => (p.2, mapGroup t t' live p.2 (s.grp p.1))
  let s := eachDo live s fun s p => tellProxy s p.1 (.repoint (p.2 / 32) (p.2 % 32))
  -- the L1 of the cores it leaves and of those it comes to has other stripes (04 R96, 09 R223); the new ones act as
  -- arrived at (10 R268)
  let s := if t.size = 0 then s else dropCarve s t
  let cores' := if t.pair then [d.core, d.core + 1] else [d.core]
  let s := eachDo cores' s fun s c => (l1Drop s c fun _ => true).modCore c fun k => { k with ccache := [] }
  let s := moveWindow s t.core t.frame d.core d.frame t.size
  let s := if t.pair then moveWindow s (t.core + 1) t.frame (d.core + 1) d.frame t.size else s
  let s := moveTiles s t.core d.core t.tiles d.tiles
  let s := if t.pair then moveTiles s (t.core + 1) (d.core + 1) t.tilesUpper d.tilesUpper else s
  let ptrs := (if t.pair then [0, 1] else [0]).map fun i => (d.core + i, (s.core (t.core + i)).ptr)
  let s := if (s.launch t.launch).det && t.st != .retired then
      eachDo ptrs s fun s p => s.modCore p.1 fun k => { k with ptr := p.2 }
    else s
  let waits := live.filter fun p => (s.core (p.1 / 32)).subs.contains p.1
  let s := eachDo live s fun s p =>
    (s.modCore (p.1 / 32) fun k =>
      { k with subs := k.subs.filter (· != p.1), turn := k.turn.filter (· != p.1),
               creditFirst := sdel k.creditFirst (p.1 % 32), latch := k.latch.filter fun l => l.slot != p.1 }).setGrp
      p.1 {}
  let s := s.setTeam tm t'
  let s := eachDo xs s fun s e => s.setGrp e.1 e.2
  let s := eachDo waits s fun s p => s.modCore (p.2 / 32) fun k => { k with subs := k.subs ++ [p.2] }
  repoint s tm t t' live

/-- The slots of a unit for a team that moves: the same numbers where they are free, else the lowest free of the
same side; members that have exited take numbers that no other member of the team has (01 R23). -/
def newSlots (t : Team) (live free : List Nat) : Option (List Nat) :=
  if live.all fun k => free.contains k then some t.slots
  else
    let side (u : Bool) : List Nat := free.filter fun k => (32 ≤ k) == u
    let want (u : Bool) : List Nat := live.filter fun k => (32 ≤ k) == u
    if (side false).length < (want false).length ∨ (side true).length < (want true).length then none
    else
      let m := (want false).zip (side false) ++ (want true).zip (side true)
      let used := m.map Prod.snd
      let spare (k : Nat) : Nat := ((k :: List.range 64).find? fun j => j / 32 == k / 32 && !used.contains j).getD k
      some (t.slots.map fun k => if live.contains k then mapGid m k else spare k)

/-- The slots of a team whose groups have not exited, in the numbering of 04 R99. -/
def liveSlots (s : State) (tm : Nat) : List Nat :=
  let t := s.team tm
  (t.slots.zip (teamGroups t)).filterMap fun p =>
    if (s.grp p.2).st != .free && (s.grp p.2).team == tm then some p.1 else none

/-- Where a team fits a unit, if it does (01 R14, R23). -/
def destOn (s : State) (tm u : Nat) : Option Dest :=
  let t := s.team tm
  let r := roomOf s u t.pair
  if r.tiles.length < t.tiles.length ∨ r.tilesUpper.length < t.tilesUpper.length then none
  else match newSlots t (liveSlots s tm) r.slots, findFrame r.wins t.size with
    | some sl, some f => some { cluster := u / 16, core := u, frame := f, slots := sl, tiles := r.tiles.take t.tiles.length,
                                tilesUpper := r.tilesUpper.take t.tilesUpper.length }
    | _, _ => none

/-- The jig takes the new unit in place of the assigned one, for the team's logical core and for the one that waits for it
(14 R373, R376). -/
def rejig (s : State) (tm u : Nat) : State :=
  let t := s.team tm
  let x := s.launch t.launch
  if !x.det then s
  else
    let n := max 1 (partUnits s t.ctx t.pair).length
    let s := s.modLaunch t.launch fun y =>
      { y with units := y.units.map fun e => if e.1 % n = t.number % n then (e.1, u) else e }
    s.modLaunch t.launch fun y => { y with reserved := (unitsLeft s t.launch).eraseDups }

/-! ### Saving (13 R364 to R366) -/

/-- Is everything a group has issued delivered, so that it can be saved or moved (01 R22, 09 R245)? -/
def groupQuiet (s : State) (g : Nat) : Bool :=
  let x := s.grp g
  -- matrix work is written before its group is saved
  let owed (p : Pend) : Bool :=
    (p.ready || p.kind == .matrix || p.kind == .mldb || p.kind == .entry) && p.kind != .fence && p.kind != .peerStore
  !x.running && !x.exiting && !x.pend.any owed && releaseReady x 3 3 && !(s.greqs.any fun r => r.core * 32 + r.slot == g)

/-- Free the monitor of a group that leaves its core: after it returns it goes on as if the monitor had fired
(12 R334). -/
def freeMonitor (s : State) (g : Nat) : State :=
  match s.monitors.find? fun m => m.core * 32 + m.slot == g with
  | none => s
  | some m =>
    let s := writePU { s with monitors := s.monitors.filter (· != m) } g m.pred false
    wakeGroup s g

/-- The groups of a team that hold slots and have not exited. -/
def liveGroups (s : State) (tm : Nat) : List Nat :=
  (teamGroups (s.team tm)).filter fun g => (s.grp g).st != .free && (s.grp g).team == tm

/-- The resident teams of a context, and its retired ones whose windows commands still hold. -/
def ctxTeams (s : State) (c : Nat) : List Nat :=
  (s.teams.filter fun e => e.2.ctx == c && (e.2.st == .resident || e.2.windowHeld)).map Prod.fst

/-- A byte through the CRC-32 of IEEE 802.3, reflected (05 R137). -/
def crc32Byte (c b : Nat) : Nat :=
  (List.range 8).foldl (fun c _ => if c % 2 = 1 then Nat.xor (c / 2) 0xEDB88320 else c / 2) (Nat.xor c (b % 256))

def crc32 (bs : List Nat) : Nat := Nat.xor (bs.foldl crc32Byte 0xFFFFFFFF) 0xFFFFFFFF

/-- Write a part of the save area and note its check (13 R366). -/
def savePart (s : State) (c a : Nat) (bs : List Nat) : State :=
  if bs.isEmpty then s
  else
    let s := (bs.zip (List.range bs.length)).foldl (fun s b => homeWrite s c (a + b.2) 1 b.1) s
    s.modCtx c fun x => { x with savedParts := x.savedParts ++ [(a, bs.length, crc32 bs)] }

/-- A part whose layout belongs to the device: free bytes (log entry 7). -/
def saveOpaque (s : State) (c a size : Nat) : State :=
  savePart s.fresh c a (((Config.saveBytes s.freeCtr).take size).map BitVec.toNat)

/-- The full/empty bits of a window, one a word (13 R366). -/
def feBytes (k : Core) (frame size : Nat) : List Nat :=
  (List.range (size / 32)).map fun j => (List.range 8).foldl (fun a i =>
    a + b2n (!k.storeEmpty.contains (frame + 32 * j + 4 * i)) * 2 ^ i) 0

/-- Write what the teams of a context hold on core c to region j of the save area (13 R366). -/
def saveCore (s : State) (c core j : Nat) : State :=
  let base := (s.ctx c).savebase + 2 ^ 21 * (1 + j)
  let k := s.core core
  let ts := (ctxTeams s c).map (s.team ·) |>.filter fun t => t.core == core || (t.pair && t.core + 1 == core)
  if ts.isEmpty then s
  else
    let tiles := ts.flatMap fun t => tilesHeld t core
    let s := savePart s c base (tiles.flatMap fun p =>
      (mreadBytes k.veneer (p * Config.tileBytes) Config.tileBytes).map BitVec.toNat)
    let s := eachDo ts s fun s t =>
      savePart s c (base + 0x80000 + t.frame) ((mreadBytes k.store t.frame t.size).map BitVec.toNat)
    let s := eachDo ts s fun s t => savePart s c (base + 0x180000 + t.frame / 32) (feBytes k t.frame t.size)
    let s := saveOpaque s c (base + 0x188000) (384 * 1024)
    let s := saveOpaque s c (base + 0x1E8000) (12 * 1024)
    let s := saveOpaque s c (base + 0x1EB000) (64 * 1024)
    saveOpaque s c (base + 0x1FB000) (20 * 1024)

/-- The enabled cores of a context's partition, ascending. -/
def partCores (s : State) (c : Nat) : List Nat :=
  (partClusters s c).flatMap fun k => ((List.range 16).map (· + 16 * k)).filter fun n => s.enabled n

/-- The entries of engines' fills on core c that a command holds are those of core c' (08 R203, 11 R291). -/
def moveFills (s : State) (c c' : Nat) (p : Cmd → Bool) : State :=
  let ds := (s.core c).cmds.filter p
  let mine (w : Waiter) : Bool := ds.any fun d => w.who == .engine c d.q && d.fillAt == some w.obj
  let who (w : Waiter) : Who := match w.who with
    | .engine _ q => .engine c' q
    | .group k n => .group k n
    | .peer d k n => .peer d k n
  { s with headland := s.headland.map fun w => if mine w then { w with who := who w } else w }

/-- A command of core c takes an entry of core c', which a proxy of its fill names from then on (08 R203, 11 R291). -/
def addCmd (s : State) (c c' : Nat) (d : Cmd) : State :=
  let d' := { d with entry := freeEntryNo (s.core c') }
  (tellFill s c d (.repoint c' (engSlot d'))).modCore c' fun k => { k with cmds := k.cmds ++ [d'] }

/-- Move the commands of a team to its saved core: a running one has stopped at a line, and a fill keeps its place
(08 R203, 11 R291). The queues of the core go on. -/
def saveCmds (s : State) (tm : Nat) : State :=
  let t := s.team tm
  let from_ := (s.cores.filter fun e => e.2.cmds.any fun d => d.team == tm).map Prod.fst
  eachDo from_ s fun s c =>
    let k := s.core c
    let mine := k.cmds.filter (·.team == tm)
    let drop (f : OpenFault) : OpenFault :=
      { f with waiters := f.waiters.filter fun w =>
          !(f.ctx == t.ctx && mine.any fun d => d.wait == some f.page && w == FWaiter.cmd c d.q) }
    let c' := if t.pair then savedCore tm + c % 2 else savedCore tm
    let s := moveFills { s with faults := s.faults.map drop, faultWait := s.faultWait.map drop } c c' (·.team == tm)
    let s := kickAll (s.modCore c fun k => { k with cmds := k.cmds.filter (·.team != tm) }) c
    let buf (m : Mem) (d : Cmd) : Mem := match d.region with
      | some (a, n) => moveMem k.chainBuf m a a n
      | none => m
    let s := eachDo mine s fun s d => addCmd s c c' { d with wait := none }
    s.modCore c' fun y => { y with chainBuf := mine.foldl buf y.chainBuf }

/-- Where a team stands while it is saved. -/
def savedDest (s : State) (tm : Nat) : Dest :=
  let t := s.team tm
  { cluster := t.cluster, core := savedCore tm, frame := 0, slots := t.slots, tiles := List.range t.tiles.length,
    tilesUpper := List.range t.tilesUpper.length }

/-- A CCTL command of a context completes (13 R364, 16 R404). -/
def cctlDone (s : State) (c : Nat) : State := raiseVector s (s.ctx c).fn 2

/-- The retired teams of a context that hold no window and still own commands: their commands are saved with no team
state (11 R291). -/
def bareTeams (s : State) (c : Nat) : List Nat :=
  (s.teams.filter fun e => e.2.ctx == c && e.2.st == .retired && !e.2.windowHeld && e.2.core < savedCore 0 &&
    s.cores.any fun k => k.2.cmds.any fun d => d.team == e.1).map Prod.fst

/-- When every group of a saving context is saved and its commands are at rest, the save area is written and
STATE becomes 2 (13 R365). -/
def finishSave (s : State) (c : Nat) : State :=
  let ts := ctxTeams s c
  let ready := ts.all fun t => (liveGroups s t).all fun g => (s.grp g).st == .saved || (s.grp g).st == .exited
  let rest := s.cores.all fun k => k.2.cmds.all fun d => d.ctx != c || d.peerOut == 0
  if (s.ctx c).state ≠ 1 ∨ !ready ∨ !rest then s
  else
    let cores := partCores s c
    let bare := bareTeams s c
    let s := s.modCtx c fun x => { x with savedParts := [] }
    let s := saveOpaque s c (s.ctx c).savebase (2 ^ 21)
    let s := eachDo (cores.zip (List.range cores.length)) s fun s e => saveCore s c e.1 e.2
    let s := eachDo bare s fun s tm => s.modTeam tm fun t => { t with size := 0, slots := [], tiles := [], tilesUpper := [] }
    let s := eachDo (ts ++ bare) s fun s tm =>
      let s := relocate s tm (savedDest s tm)
      let s := saveCmds s tm
      s.modTeam tm fun t => { t with st := if t.st = .resident then .saved else t.st, reserved := false }
    let s := s.modCtx c fun x => { x with state := 2 }
    let s := faultRecord s c { kind := 7, eng := true }
    postPlaces (cctlDone s c) (partClusters s c)

/-- Each context that is being saved and has come to rest is saved (01 R29). -/
def finishSaves (s : State) : State :=
  eachDo ((s.ctxs.filter fun e => e.2.state == 1).map Prod.fst) s finishSave

/-- A group of a saving context at its pre-emption point is saved, after the release of 10 R268 (13 R365). -/
def execGroupSave (core slot : Nat) (s : State) : Host.Outcome State Fault Refusal :=
  let g := core * 32 + slot
  let x := s.grp g
  let c := s.ctxOf g
  let due := x.st == .eligible || x.st == .held || x.st == .parked
  if (s.ctx c).state ≠ 1 ∨ !due ∨ !groupQuiet s g then done (finishSaves s)
  else
    let s := releaseHalf s g 3 3
    let s := freeMonitor s g
    let s := s.modGrp g fun x => { settleFlight x with st := .saved, was := x.st, running := false, stopReq := false }
    done (finishSave s c)

/-- Pre-empt a context (13 R364, R365); while it is saving, go on with what can be saved now. -/
def execCctlPreempt (ctx : Nat) (s : State) : Host.Outcome State Fault Refusal :=
  let x := s.ctx ctx
  if !x.en ∨ 1 < x.state then .next s
  else
    let s := if x.state = 1 then s
      else
        -- leases go back at once, their counts are kept (15 R397); migrations requested are dropped (R399)
        let held := (List.range Config.numClusters).filterMap fun k => (leaseOf s k ctx).map fun y => (k, y.left)
        let s := s.modCtx ctx fun x => { x with state := 1, savedLeases := held }
        let s := eachDo held s fun s h => dropLease s h.1 ctx
        eachDo (ctxTeams s ctx) s fun s tm =>
          let s := s.modTeam tm fun t => { t with migrate := false, target := none, stuck := false }
          eachDo (liveGroups s tm) s fun s g => s.modGrp g fun x => { x with stopReq := true }
    let gs := (ctxTeams s ctx).flatMap fun tm => liveGroups s tm
    done (finishSave (eachDo gs s fun s g => s.post (.groupSave (g / 32) (g % 32))) ctx)

/-! ### Kill, creation and deletion (01 R28, 13 R364, 16 R406) -/

/-- Give back everything a context holds (01 R28). -/
def killCtx (s : State) (c : Nat) : State :=
  let ts := (s.teams.filter fun e => e.2.ctx == c && e.2.st != .none).map Prod.fst
  let gs := ts.flatMap fun tm => liveGroups s tm
  let mineT (t : Nat) : Bool := ts.contains t
  -- commands go without a status or a fill (11 R291), their entries are unlinked (08 R203), and the queues they leave
  -- go on; windows and tiles are reclaimed with them (01 R25)
  let s := eachDo ((s.cores.filter fun k => k.2.cmds.any fun d => d.ctx == c).map Prod.fst) s fun s k =>
    let ds := (s.core k).cmds.filter fun d => d.ctx == c
    let gone (w : Waiter) : Bool := ds.any fun d => w.who == .engine k d.q && d.fillAt == some w.obj
    let s := { s with headland := s.headland.filter fun w => !gone w }
    let s := eachDo ds s fun s d => tellFill s k d .unlink
    let s := s.modCore k fun y => { y with cmds := y.cmds.filter fun d => d.ctx != c }
    kickAll (eachDo ds s fun s d => releaseTiles s d (tilesFrom s d 0)) k
  let s := eachDo gs s freeSlot
  -- the L1 of a core that gets stripes back starts again (09 R223)
  let held := (ts.map s.team).filter fun t => (t.st == .resident || t.windowHeld) && t.core < savedCore 0
  let s := eachDo held s dropCarve
  let s := eachDo ts s fun s tm =>
    let t := s.team tm
    let s := if savedCore 0 ≤ t.core then (s.setCore (savedCore tm) {}).setCore (savedCore tm + 1) {} else s
    s.setTeam tm { t with st := if t.st = .retired then .retired else .none, windowHeld := false, reserved := false,
                          core := if savedCore 0 ≤ t.core then 0 else t.core,
                          cmdsOut := 0, barQ := [], hpend := [], migrate := false, target := none, stuck := false }
  let keep (f : FEntry) : Bool := match f.task with | .team t => !mineT t | .cont _ _ => true | .phase _ _ => true
  let drop (k : Cluster) : Cluster :=
    { k with leases := k.leases.filter (fun y => y.ctx != c)
             furrow := k.furrow.filter keep }
  -- its open faults close, and what other contexts wait to report has room (13 R347); a host arrival that waited for one
  -- of its pages, or for its turn, finds its record killed (12 R310)
  let late (r : CpReq) : CpReq := if r.ctx = c then { r with wait := none, stale := true } else r
  let s := { s with
    clusters := tmap s.clusters drop
    launchQ := s.launchQ.filter (fun (e : Nat × Nat × Nat) => (s.launch e.2.1).ctx != c)
    faults := s.faults.filter (fun f => f.ctx != c)
    faultWait := s.faultWait.filter (fun f => f.ctx != c)
    decs := (s.decs.filter (fun (r : CpReq) => r.ctx != c || r.host)).map late }
  let s := if s.faultWait.isEmpty then s else s.post .pageFaultReport
  let s := if s.decs.isEmpty then s else s.post .taskDecrement
  let ls := (s.launches.filter fun (e : Nat × Launch) => e.2.ctx == c && !e.2.ended).map Prod.fst
  let s := eachDo ls s fun s l =>
    -- an ending whose record is not written yet starts again, without a digest (14 R384)
    (s.modLaunch l fun y => { y with killed := true, waitPage := none, gangWait := false, reserved := [], cmdsOut := 0,
                                     endStage := if y.endStage < 2 then 0 else y.endStage }).post (.launchEnd l)
  s.modCtx c fun x => { x with state := 0, savedLeases := [], savedParts := [] }

/-- Kill a context (01 R28, 13 R364). -/
def execCctlKill (ctx : Nat) (s : State) : Host.Outcome State Fault Refusal :=
  if !(s.ctx ctx).en then .next s
  else
    let s := cctlDone (killCtx s ctx) ctx
    .next (postPlaces s (partClusters s ctx))

/-- A write of EN = 1: create a bound context (16 R406). -/
def execCtxcfgCreate (ctx : Nat) (v : DWord) (s : State) : Host.Outcome State Fault Refusal :=
  let x := s.ctx ctx
  if x.en ∨ !x.bound then .next s
  else .next (s.setCtx ctx { x with
    en := true, bar := fld v 1 1 == 1, gctrs := [], mastat := 0, fqtail := 0, eqtail := 0, fqlost := 0, eqlost := 0,
    fqseq := 1, eqseq := 1, state := 0, lfill := 0, lwback := 0, lsaved := 0, lastCluster := none,
    batchpol := x.polHost })

/-- A write of EN = 0: kill the context, then delete it (16 R406). -/
def execCtxcfgDelete (ctx : Nat) (s : State) : Host.Outcome State Fault Refusal :=
  if !(s.ctx ctx).en then .next s
  else
    let s := (killCtx s ctx).modCtx ctx fun x => { x with en := false }
    .next (postPlaces s (partClusters s ctx))

/-! ### Restore (01 R22, R23, 13 R364, R366, R367) -/

/-- Do the parts of the save area still have their checks (13 R366)? -/
def partsOk (s : State) (c : Nat) : Bool :=
  (s.ctx c).savedParts.all fun p =>
    crc32 ((List.range p.2.1).map fun i => peekByte s (p.1 + i)) == p.2.2

/-- May a team of a launch be restored or moved to a unit (14 R375, R376)? -/
def unitFree (s : State) (tm u : Nat) : Bool :=
  let t := s.team tm
  if (s.launch t.launch).det then
    (ownerOf s u t.pair).all (· == t.launch) && !holdsOther s u t.pair t.launch &&
      !((s.teams.map Prod.snd).any fun y => y.launch == t.launch && y.number != t.number && holdsOn y u)
  else (ownerOf s u t.pair).isNone

/-- Free entries and chain-buffer room for the commands of a saved team on its new core (11 R272, R291). -/
def cmdsFit (s : State) (tm u : Nat) : Bool :=
  let t := s.team tm
  (if t.pair then [0, 1] else [0]).all fun i =>
    let cs := (s.core (savedCore tm + i)).cmds
    (s.core (u + i)).cmds.length + cs.length ≤ Config.numEntries &&
      (cs.foldl (fun (k : Option Core) d => k.bind fun k => match d.region with
        | none => some k
        | some (_, n) => (findRegion k n).map fun a => { k with cmds := { d with region := some (a, n) } :: k.cmds })
        (some (s.core (u + i)))).isSome

/-- The commands of a saved team return to their queues (11 R291). -/
def restoreCmds (s : State) (tm u : Nat) : State :=
  let t := s.team tm
  eachDo (if t.pair then [0, 1] else [0]) s fun s i =>
    let from_ := s.core (savedCore tm + i)
    let s := moveFills s (savedCore tm + i) (u + i) fun _ => true
    let s := eachDo from_.cmds s fun s d => match d.region with
      | none => addCmd s (savedCore tm + i) (u + i) d
      | some (a, n) =>
        let b := (findRegion (s.core (u + i)) n).getD 0
        (addCmd s (savedCore tm + i) (u + i) { d with region := some (b, n) }).modCore (u + i) fun k =>
          { k with chainBuf := moveMem from_.chainBuf k.chainBuf a b n }
    s.setCore (savedCore tm + i) {}

/-- The unit a saved team returns to: under the jig its own where that is free, else the lowest (01 R23, 14 R376). -/
def restoreUnit (s : State) (tm : Nat) : Option Nat :=
  let t := s.team tm
  let own := tget (s.launch t.launch).units 0 t.number
  let us := partUnits s t.ctx t.pair
  let us := if (s.launch t.launch).det && us.contains own then own :: us else us
  us.find? fun u => unitFree s tm u && (destOn s tm u).isSome && cmdsFit s tm u

/-- The walk of one translation register of a restored group: its limit becomes 0 where the walk fails (13 R367). -/
def rewalkReg (s : State) (c : Nat) (r : TReg) : State × TReg :=
  if !r.val then (s, r)
  else match tlrWalk s c r.vbase r.wr with
    | .ok t es => (eachDo es s fun s e => setAD s c e r.wr, t)
    | .absent => (s, { r with limit := 0 })
    | .prot _ => (s, { r with limit := 0 })

/-- The same for the registers t1 to t7 among some. -/
def rewalkRegs (s : State) (c : Nat) (rs : Tab TReg) : State × Tab TReg :=
  ((List.range 7).map (· + 1)).foldl (fun acc n =>
    let v := rewalkReg acc.1 c (tget acc.2 {} n)
    (v.1, if (tget acc.2 {} n).val then tset acc.2 n v.2 else acc.2)) (s, rs)

/-- Rewrite the translation registers t1 to t7 of a restored group (13 R367). -/
def rewalk (s : State) (g : Nat) : State :=
  let v := rewalkRegs s (s.ctxOf g) (s.grp g).tregs
  v.1.modGrp g fun x => { x with tregs := v.2 }

/-- The same for the groups that a regroup keeps as they stood (03 R92). -/
def rewalkOrigins (s : State) (tm : Nat) : State :=
  let v := (s.team tm).rgOrigins.foldl (fun (acc : State × List (Nat × Group)) o =>
    let w := rewalkRegs acc.1 (s.team tm).ctx o.2.tregs
    (w.1, acc.2 ++ [(o.1, { o.2 with tregs := w.2 })])) (s, [])
  v.1.modTeam tm fun t => { t with rgOrigins := v.2 }

/-- Is it a wide barrier that a group waits for (12 R332)? -/
def wideCause : Cause → Bool
  | .wide _ => true
  | _ => false

/-- Restore one saved team, when there is room. -/
def restoreTeam (s : State) (tm : Nat) : State :=
  match restoreUnit s tm with
  | none => s
  | some u => match destOn s tm u with
    | none => s
    | some d =>
      let t := s.team tm
      let s := if t.st = .saved then rejig s tm u else s
      let s := relocate s tm d
      let s := restoreCmds s tm u
      -- a team whose groups have all parked at `tend` reserves again with its phase task (15 R389)
      let busy := (liveGroups s tm).any fun g => !((s.grp g).park.any fun r => wideCause r.cause)
      let s := s.modTeam tm fun y =>
        { y with st := if y.st = .saved then .resident else y.st, reserved := y.st == .saved && busy }
      let s := settleIn (rewalkOrigins (eachDo (liveGroups s tm) s rewalk) tm) tm d.cluster
      -- the lease the context held on the team's old cluster is requested again (15 R397)
      match (s.ctx t.ctx).savedLeases.find? fun e => e.1 == t.cluster with
      | none => s
      | some e =>
        let r := requestLease s d.cluster t.ctx e.2
        if 2 ≤ r.2 ∧ r.2 ≤ 5 then notice r.1 tm 4 else r.1

/-- A group of a restored context is again as it was; one that was woken while saved returns Eligible and replays; the
phase task of a wide barrier that completed enters its furrow (01 R22, 12 R332). -/
def reviveGroup (s : State) (g : Nat) : State :=
  let x := s.grp g
  if x.st ≠ .saved then s
  else
    let s := s.modGrp g fun x => { x with st := x.was }
    let k := g / 32 / 16
    let here (f : FEntry) : Bool := f.task == .cont (g / 32) (g % 32) || f.task == .phase (g / 32) (g % 32)
    match x.park with
    | some r =>
      if !r.woken || (s.cluster k).furrow.any here then s
      else match r.cause with
        | .wide _ => furrowPut s k (s.teamOf g).pri (.phase (g / 32) (g % 32))
        | .pages _ open_ => if open_.isEmpty then admitGroup s g else s
        | _ => admitGroup s g
    | none => s

/-- The groups whose proxies at a peer name a core and slot (08 R203, R210). -/
def proxyGroups (s : State) (core slot : Nat) : List Nat :=
  s.cores.flatMap fun k => (k.2.slots.filter fun e => match e.2.park with
    | some r => (match r.cause with | .fePeer _ _ _ => r.proxy == some (core, slot) | _ => false)
    | none => false).map fun e => k.1 * 32 + e.1

/-- Restore a context, as far as its teams find room; STATE becomes 0 when all are placed (13 R364, R366, R367). -/
def execCctlRestore (ctx : Nat) (s : State) : Host.Outcome State Fault Refusal :=
  let x := s.ctx ctx
  if x.state ≠ 2 ∧ x.state ≠ 3 then .next s
  else if x.state = 2 ∧ !partsOk s ctx then
    -- a part whose CRC-32 differs kills the context with a record of kind 4
    let s := faultRecord s ctx { kind := 4, addr := x.savebase, eng := true }
    done (cctlDone (killCtx s ctx) ctx)
  else
    let s := s.modCtx ctx fun x => { x with state := 3 }
    let saved (s : State) : List Nat :=
      (s.teams.filter fun e => e.2.ctx == ctx && savedCore 0 ≤ e.2.core).map Prod.fst
    let s := eachDo (saved s) s restoreTeam
    if !(saved s).isEmpty then done s
    else
      let s := s.modCtx ctx fun x => { x with state := 0, savedLeases := [], savedParts := [] }
      let ts := ctxTeams s ctx
      let gs := ts.flatMap fun tm => liveGroups s tm
      let s := eachDo gs (followTasks s) reviveGroup
      let s := eachDo (s.launches.filter fun e => e.2.ctx == ctx && !e.2.ended) s fun s e =>
        eachDo (partClusters s ctx) s fun s k => recheckWide s e.1 k
      let s := eachDo ts s fun s tm => s.post (.regroupRendezvous tm)
      let s := eachDo (s.cores.filter fun k => k.2.cmds.any fun d => d.ctx == ctx) s fun s k =>
        eachDo (List.range 4) (s.post (.commandAccept k.1)) fun s q => (kick s k.1 q).post (.engineCompletionFill k.1 q)
      let ks := partClusters s ctx
      let s := eachDo ks s fun s k => (s.post (.continuationAdmit k)).post (.phaseAdmit k)
      done (postPlaces ((cctlDone s ctx).post .launchAdmit) ks)

/-! ### Migration (15 R399) -/

/-- May a team be moved to a unit: TEMP, room, allotment and current, and the jig (15 R399)? -/
def targetOk (s : State) (tm u : Nat) : Bool :=
  let t := s.team tm
  let d := (s.launch t.launch).dw
  let cool (c : Nat) : Bool := (s.core c).temp + 10 ≤ (s.core c).trip
  -- a move within the cluster takes the team's own reservation with it
  let e := s.modTeam tm fun y => { y with reserved := false }
  u != t.core && cool u && (!t.pair || cool (u + 1)) && (destOn s tm u).isSome && unitFree s tm u &&
    energyFits e (u / 16) (recEnergy d) (recPcc d) 0

/-- The target of a migration: the same cluster first, then the clusters after it, wrapping (15 R399). -/
def migrateTarget (s : State) (tm : Nat) : Option Nat :=
  let t := s.team tm
  let ks := partClusters s t.ctx
  let order := t.cluster :: (ks.filter fun k => t.cluster < k) ++ ks.filter fun k => k < t.cluster
  order.findSome? fun k => (clusterUnits s k t.pair).find? (targetOk s tm)

/-- The notice of a lease left behind, and the places freed, after a move (15 R397). -/
def afterMove (s : State) (tm old : Nat) : State :=
  let t := s.team tm
  let s := if old ≠ t.cluster ∧ (leaseOf s old t.ctx).isSome then notice s tm 4 else s
  -- a wide barrier of either cluster may wait for fewer teams now (12 R332)
  let s := followTasks s
  let s := if old = t.cluster then s else recheckWide (recheckWide s t.launch old) t.launch t.cluster
  let s := (s.post (.continuationAdmit t.cluster)).post (.phaseAdmit t.cluster)
  postPlaces s (partClusters s t.ctx)

/-- The resident teams that stand on a core. -/
def teamsOf (s : State) (c : Nat) : List Nat :=
  (s.teams.filter fun e => e.2.st == .resident && holdsOn e.2 c).map Prod.fst

/-- The cores of a team run at half duty while they are too hot and a team that is to leave them has no target; every team
of a core is told when that begins (15 R392, R399). -/
def setDuty (s : State) (cs : List Nat) : State :=
  eachDo cs s fun s c =>
    let due := (s.core c).trp && (teamsOf s c).any fun t => (s.team t).migrate && (s.team t).stuck
    let begins := due && !(s.core c).halfDuty
    let s := s.modCore c fun k => { k with halfDuty := due }
    if begins then eachDo (teamsOf s c) s fun s t => notice s t 6 else s

/-- The cores a team stands on. -/
def teamCores (t : Team) : List Nat := if t.pair then [t.core, t.core + 1] else [t.core]

/-- No target was found: the groups go on, and the request stands (15 R399). -/
def noTarget (s : State) (tm : Nat) : State :=
  let s := s.modTeam tm fun t => { t with target := none, stuck := true }
  let s := eachDo (liveGroups s tm) s fun s g => s.modGrp g fun x => { x with stopReq := false }
  setDuty s (teamCores (s.team tm))

/-- A target was found: the groups stop at their pre-emption points (15 R399). -/
def aimAt (s : State) (tm u : Nat) : State :=
  let s := s.modTeam tm fun t => { t with target := some u, stuck := false }
  let s := eachDo (liveGroups s tm) s fun s g => s.modGrp g fun x => { x with stopReq := true }
  setDuty s (teamCores (s.team tm))

/-- Steps 2 to 4 of a migration (15 R399). -/
def moveTeam (s : State) (tm : Nat) (d : Dest) : State :=
  let t := s.team tm
  let s := eachDo (liveGroups s tm) s fun s g =>
    (freeMonitor (releaseHalf s g 3 3) g).modGrp g fun x => { settleFlight x with stopReq := false }
  let s := rejig s tm d.core
  let s := relocate s tm d
  let s := s.modTeam tm fun y => { y with migrate := false, target := none, stuck := false }
  afterMove (limitPoke (setDuty s (teamCores t)) tm) tm t.cluster

/-- Every group has stopped: the team moves to its target when that can still hold it, else to one chosen now (15 R399). -/
def arriveAt (s : State) (tm u : Nat) : State :=
  match (if targetOk s tm u then some u else migrateTarget s tm).bind (destOn s tm) with
  | some d => moveTeam s tm d
  | none => noTarget s tm

/-- Migration of a team off a core that runs too hot: it stops at its pre-emption points and moves, or the core runs
at half duty while no target exists (15 R399). -/
def execTeamMigrate (team : Nat) (s : State) : Host.Outcome State Fault Refusal :=
  let t := s.team team
  if t.st ≠ .resident ∨ !t.migrate ∨ (s.ctx t.ctx).state ≠ 0 then .next s
  else match t.target.orElse fun _ => migrateTarget s team with
    | none => done (noTarget s team)
    | some u =>
      let s := aimAt s team u
      done (if (liveGroups s team).all fun g => groupQuiet s g then arriveAt s team u else s)

end Sys2Proof.Machine
end

