-- ==== Sys2Proof/Machine/Host.lean ====
section
/-! DEFINITION. What the host does to the device through its windows, and bring-up (12 R314, 13 R346, R351,
16 R402 to R408, R415, R418 to R423). -/

namespace Sys2Proof.Machine

open State

/-- An event of the control window in recovery responds to nothing (16 R420). -/
def unlessRecovery (s : State) (t : State) : Host.Outcome State Fault Refusal := .next (if s.dev.recovery then s else t)

/-! ### What the control window reads (16 R402, R405 to R408) -/

/-- Is a context's page in the window of a function (16 R402, R405)? -/
def holdsCtx (s : State) (fn c : Nat) : Bool := fn == 0 || ((s.ctx c).bound && (s.ctx c).fn == fn)

/-- A queue's SIZE and BASE as one register. -/
def ringReg (size base : Nat) : DWord := BitVec.ofNat 64 (size * 2 ^ 60 + base)

/-- DW0 of a grid-barrier counter. -/
def gctrReg (q : GCtr) : DWord := BitVec.ofNat 64 (q.ph.toNat * 2 ^ 48 + q.exp * 2 ^ 24 + q.arr)

/-- SHOOT: requests pending, DONE, DROP (16 R406). -/
def shootStatus (x : Ctx) : Nat := x.shoots.length + b2n x.shootDone * 2 ^ 8 + b2n x.shootDrop * 2 ^ 9

/-- A register of a function page (16 R405). -/
def fnRegRead (s : State) (fn off : Nat) : DWord :=
  let x := s.fn fn
  let n (v : Nat) : DWord := BitVec.ofNat 64 v
  match off with
  | 0x000 => n fn
  | 0x008 => n ((List.range 64).foldl (fun a c => a + b2n ((s.ctx c).bound && (s.ctx c).fn == fn) * 2 ^ c) 0)
  | 0x010 => n x.xlctx
  | 0x018 => n x.xlsrc
  | 0x020 => n x.xllen
  | 0x028 => n x.xldst
  | 0x030 => n x.xldlen
  | 0x038 => n (x.status + b2n x.req.isSome * 2 ^ 8 + x.bytes * 2 ^ 32)
  | _ => 0

/-- A register of a context page (16 R406). -/
def ctxRegRead (s : State) (c off : Nat) : DWord :=
  let x := s.ctx c
  let n (v : Nat) : DWord := BitVec.ofNat 64 v
  match off with
  | 0x000 => n (x.arrivals % 2 ^ 16)
  | 0x008 => n (b2n x.en + 2 * b2n x.bar)
  | 0x010 => n x.state
  | 0x018 => n x.feretry
  | 0x020 => n x.monquota
  | 0x028 => n x.leaseLim
  | 0x030 => n x.detMode
  | 0x038 => n x.tvec
  | 0x040 => n x.ptroot
  | 0x048 => n x.savebase
  | 0x050 => ringReg x.fqsize x.fqbase
  | 0x058 => n x.fqhead
  | 0x060 => n x.fqtail
  | 0x068 => n x.fqlost
  | 0x070 => ringReg x.eqsize x.eqbase
  | 0x078 => n x.eqhead
  | 0x080 => n x.eqtail
  | 0x088 => n x.eqlost
  | 0x098 => n (shootStatus x)
  | 0x0A0 => x.msgtgt
  | 0x0A8 => x.msgd0
  | 0x0B0 => x.msgd1
  | 0x0B8 => n (b2n x.msgRefused)
  | 0x0C0 => n x.batchpol
  | 0x800 => x.lfill
  | 0x808 => x.lwback
  | 0x810 => x.lsaved
  | _ =>
    if 0x400 ≤ off ∧ off < 0x800 then
      let q := tget x.gctrs {} ((off - 0x400) / 16)
      if off % 16 = 0 then gctrReg q else n (q.waiters.length * 2 ^ 24 + q.obs)
    else 0

/-- A register of the device page (16 R407). -/
def devRegRead (s : State) (off : Nat) : DWord :=
  let d := s.dev
  let n (v : Nat) : DWord := BitVec.ofNat 64 v
  match off with
  | 0x0000 => n (4 + d.rev % 256 * 2 ^ 8 + d.bin * 2 ^ 16)
  | 0x0008 => n (d.hmax * 2 ^ 12 + d.plim)
  | 0x0010 => n d.peerself
  | 0x0018 => d.peermap
  | 0x3000 => n d.provbase
  | 0x3008 => n d.provlen
  | 0x3010 => n d.provst
  | 0x3100 => d.l2ce
  | _ =>
    let k (base : Nat) : Nat := (off - base) / 8
    if 0x0020 ≤ off ∧ off < 0x0050 then (d.enabled >>> (64 * k 0x0020)).setWidth 64
    else if 0x0100 ≤ off ∧ off < 0x0100 + 8 * Config.numClusters then n (tget d.parts 0 (k 0x0100))
    else if 0x0200 ≤ off ∧ off < 0x0400 then
      let x := s.ctx (k 0x0200)
      n (b2n x.bound * 2 ^ 15 + x.part * 2 ^ 8 + x.fn)
    else if 0x0400 ≤ off ∧ off < 0x0800 then
      let x := s.fn ((off - 0x0400) / 32)
      match off % 32 / 8 with
      | 0 => x.tkey.setWidth 64
      | 1 => (x.tkey >>> 64).setWidth 64
      | 2 => n x.quota
      | _ => 0
    else if 0x0800 ≤ off ∧ off < 0x0800 + 8 * Config.numClusters then
      let x := s.cluster (k 0x0800)
      n (x.pol + 4 * b2n x.hi)
    else if 0x1000 ≤ off ∧ off < 0x1000 + 8 * Config.numCores then
      let x := s.core (k 0x1000)
      n (x.trip + x.temp % 256 * 2 ^ 8 + b2n x.trp * 2 ^ 16)
    else if 0x2000 ≤ off ∧ off < 0x2000 + 8 * 9 then n (clcap s (k 0x2000))
    else 0

/-- Core accounting: what a context, and the L1, hold of a core (16 R408). -/
def acctRead (s : State) (off : Nat) : DWord :=
  let c := off / 1024
  let i := off % 1024 / 8
  if i < 64 then
    let ts := (s.teams.map Prod.snd).filter fun t => t.ctx == i && holdsOn t c
    let stripes := ts.foldl (fun a t => a + t.size / 512) 0
    let tiles := ts.foldl (fun a t => a + (tilesHeld t c).length) 0
    let entries := ((s.core c).cmds.filter (·.ctx == i)).length
    BitVec.ofNat 64 (stripes + tiles * 2 ^ 16 + entries * 2 ^ 24)
  else if i = 64 then BitVec.ofNat 64 (Config.numStripes - stripesHeld s c)
  else if i = 65 then (s.core c).ce
  else 0

/-- BAR 4 of a function as PCI Express lays it out: four table entries of address, data and vector control, and the pending
bits (16 R405; log entry 65). -/
def msixRead (s : State) (fn o : Nat) : DWord :=
  let x := s.fn fn
  let k := o / 16
  if k < 4 then
    if o % 16 = 0 then tget x.vaddr 0 k
    else BitVec.ofNat 64 ((tget x.vdata 0 k).toNat + b2n (x.vmask.getLsbD k) * 2 ^ 32)
  else if o = 0x800 then x.pba.setWidth 64
  else 0

/-- Where the accesses of the model put BAR 4: behind the 8 MiB of the control window (log entry 65). -/
def bar4 : Nat := 0x800000

/-- The value of the doubleword at `off` of a function's control window. Offsets that no table lists, and what the
function does not hold, read zero; in recovery only the provisioning registers and DEVID respond (16 R402, R405, R407). -/
def windowRead (s : State) (fn off : Nat) : DWord :=
  let prov := off = 0x100000 ∨ (0x103000 ≤ off ∧ off < 0x103018)
  if off % 8 ≠ 0 ∨ 32 ≤ fn ∨ (s.dev.recovery ∧ !(fn = 0 ∧ prov)) then 0
  else if off < 0x1000 then fnRegRead s fn off
  else if 0x10000 ≤ off ∧ off < 0x50000 then
    let c := (off - 0x10000) / 0x1000
    if holdsCtx s fn c then ctxRegRead s c (off % 0x1000) else 0
  else if fn = 0 ∧ 0x100000 ≤ off ∧ off < 0x110000 then devRegRead s (off - 0x100000)
  else if fn = 0 ∧ 0x200000 ≤ off ∧ off < 0x200000 + 1024 * Config.numCores then acctRead s (off - 0x200000)
  else if bar4 ≤ off then msixRead s fn (off - bar4)
  else 0

/-- The offset of a register of a context page in the control window (16 R405). -/
def ctxOff (c off : Nat) : Nat := 0x10000 + 0x1000 * c + off

/-! ### Arrivals, fault resolution and shoot-down -/

/-- ARRIVE (12 R314); a context that has not been created takes none (16 R423). -/
def execArrive (ctx : Nat) (v : DWord) (s : State) : Host.Outcome State Fault Refusal :=
  let rec_ := fld v 6 51 * 64
  if s.dev.recovery ∨ !(s.ctx ctx).en then .next s
  else if fld v 0 6 ≠ 0 then done (taskFault s ctx (v.toNat % 2 ^ 57) none)
  else
    let r : CpReq := { ctx := ctx, rec_ := rec_, n := fld v 57 7 + 1, host := true }
    let s := s.modCtx ctx fun x => { x with arrivals := x.arrivals + 1 }
    .next ({ s with decs := s.decs ++ [r] }.post .taskDecrement)

/-- A group's page is resolved, or declared unresolvable; with the last page the group is woken (13 R351). -/
def resolveGroup (s : State) (g page : Nat) (bad : Bool) : State :=
  match (s.grp g).park with
  | none => s
  | some r => match r.cause with
    | .pages c open_ =>
      if !open_.contains page then s
      else
        let left := open_.filter (· != page)
        let r' : ParkRec := { r with cause := .pages c left, counter := r.counter - 1,
                                     badPages := if bad then page :: r.badPages else r.badPages }
        let s := s.modGrp g fun x => { x with park := some r' }
        if left.isEmpty then wakeGroup s g else s
    | _ => s

/-- The commands of a queue that wait for a page go on, or end with FC = 2 (11 R287, 13 R351). -/
def resolveCmds (s : State) (ctx core q page : Nat) (bad : Bool) : State :=
  let upd (d : Cmd) : Cmd :=
    if d.ctx = ctx ∧ d.q = q ∧ d.wait = some page then
      { d with wait := none, badPages := if bad then page :: d.badPages else d.badPages }
    else d
  kick (modCmds s core upd) core q

/-- The command processor's steps that wait for a page of a context (12 R446). -/
def resolveDecs (s : State) (c page : Nat) (bad : Bool) : State :=
  let upd (r : CpReq) : CpReq :=
    if r.ctx = c ∧ r.wait = some page then { r with wait := none, bad := if bad then page :: r.bad else r.bad } else r
  { s with decs := s.decs.map upd }.post .taskDecrement

/-- The steps of a launch that wait for a page (12 R446). -/
def resolveLaunch (s : State) (l page : Nat) (bad : Bool) : State :=
  if (s.launch l).waitPage ≠ some page then s
  else
    let s := s.modLaunch l fun x =>
      { x with waitPage := none, badPages := if bad then page :: x.badPages else x.badPages }
    let ts := (s.teams.filter fun e => e.2.launch == l && e.2.st == .retired && !e.2.finished).map Prod.fst
    eachDo ts ((s.post .launchAdmit).post (.launchEnd l)) fun s t => s.post (.producerTeamFinish t)

/-- A placement that waits for the launch's table of buffer records (11 R296). -/
def resolveTeam (s : State) (t : Nat) (bad : Bool) : State :=
  if bad then abortLaunch s (s.team t).launch 0x06 0 0 true
  else (s.post (.teamPlace (s.team t).cluster)).post .gangPlace

/-- One waiter of a closed entry is acted on (13 R351). -/
def resolveWaiter (f : OpenFault) (bad : Bool) (s : State) (w : FWaiter) : State :=
  match w with
  | .group c k => resolveGroup s (c * 32 + k) f.page bad
  | .cmd c q => if c < Config.numCores then resolveCmds s f.ctx c q f.page bad else s
  | .decs => resolveDecs s f.ctx f.page bad
  | .launch l => resolveLaunch s l f.page bad
  | .team t => resolveTeam s t bad

/-- A write of FRESOLVE: the entry of the record closes in one step (13 R351). -/
def resolve_ (s : State) (ctx seq : Nat) (bad : Bool) : State :=
  match s.faults.find? fun f => f.ctx == ctx && f.seq == seq with
  | none => s
  | some f => (eachDo f.waiters { s with faults := s.faults.erase f } (resolveWaiter f bad)).post .pageFaultReport

/-- FRESOLVE, action 0 (13 R351). -/
def execFresolveResolved (ctx seq : Nat) (s : State) : Host.Outcome State Fault Refusal :=
  done (if s.dev.recovery then s else resolve_ s ctx seq false)

/-- FRESOLVE, action 1 (13 R351). -/
def execFresolveUnresolvable (ctx seq : Nat) (s : State) : Host.Outcome State Fault Refusal :=
  done (if s.dev.recovery then s else resolve_ s ctx seq true)

/-- First page and pages of a shoot-down request (16 R406). -/
def shootRange (v : DWord) : Nat × Nat := (fld v 16 41, fld v 0 16 + 1)

/-- A translation register whose run overlaps a range of pages loses its limit (13 R346). -/
def shootReg (first n : Nat) (t : TReg) : TReg :=
  if t.vbase < (first + n) * 65536 ∧ first * 65536 < t.vbase + t.limit then { t with limit := 0 } else t

/-- Registers t1 to t7 of a group; t0 names the team window and no page. -/
def shootGroup (first n : Nat) (x : Group) : Group :=
  { x with tregs := x.tregs.map fun e => (e.1, if e.1 = 0 then e.2 else shootReg first n e.2) }

/-- Steps 1 and 2 of R346: translations and clauses of the range go, limits become 0. -/
def shootBegin (s : State) (c : Nat) (v : DWord) : State :=
  let r := shootRange v
  let first := r.1
  let n := r.2
  let hit (p : Nat) : Bool := first ≤ p && p < first + n
  let mine (x : Group) : Bool := x.st != .free && (s.team x.team).ctx == c
  let grp (x : Group) : Group := if mine x then shootGroup first n x else x
  let core (k : Core) : Core :=
    { k with tlb := k.tlb.filter (fun t => !(t.ctx == c && hit t.page))
             ccache := k.ccache.filter (fun e => e.1 != c)
             slots := tmap k.slots grp }
  let team (t : Team) : Team :=
    if t.ctx = c then
      { t with rgOrigins := t.rgOrigins.map (fun (o : Nat × Group) => (o.1, shootGroup first n o.2)) }
    else t
  { s with cores := tmap s.cores core, teams := tmap s.teams team }

/-- A write of SHOOT (13 R346, 16 R406). -/
def execShoot (ctx : Nat) (v : DWord) (s : State) : Host.Outcome State Fault Refusal :=
  let x := s.ctx ctx
  if s.dev.recovery then .next s
  else if 16 ≤ x.shoots.length then .next (s.setCtx ctx { x with shootDrop := true })
  else
    let s := s.setCtx ctx { x with shoots := x.shoots ++ [v] }
    .next ((if x.shoots.isEmpty then shootBegin s ctx v else s).post (.shootdownComplete ctx))

/-- Has every store of a context to a peer been acknowledged? -/
def peersQuiet (s : State) (c : Nat) : Bool :=
  s.launches.all fun e => e.2.ctx != c || e.2.peerOut == 0

/-- Step 3 of R346: what the L1s hold goes to its homes, and stores to peers are acknowledged; then the oldest
request is complete and the next begins. -/
def execShootdownComplete (ctx : Nat) (s : State) : Host.Outcome State Fault Refusal :=
  let x := s.ctx ctx
  match x.shoots with
  | [] => .next s
  | _ :: rest =>
    if !peersQuiet s ctx then .next s
    else
      let cores := (s.cores.map Prod.fst).filter fun c => c < Config.numCores
      let s := eachDo cores s l1WriteAll
      let s := s.modCtx ctx fun x => { x with shoots := rest, shootDone := true }
      let s := raiseVector s x.fn 2
      done (match rest with
        | [] => s
        | v :: _ => (shootBegin s ctx v).post (.shootdownComplete ctx))

/-- A read of SHOOT of a context through the window of a function: the pair of the two (16 R402, R406). -/
def execShootRead (by_ : Nat × Nat) (s : State) : Host.Outcome State Fault Refusal :=
  let ctx := by_.2
  let x := s.ctx ctx
  if s.dev.recovery ∨ !holdsCtx s by_.1 ctx then .next { s with hostReply := 0 }
  else .next { s.setCtx ctx { x with shootDone := false, shootDrop := false } with hostReply := ctxRegRead s ctx 0x098 }

/-! ### Messages, counters and queues -/

/-- The group a host push names: a slot of the core, or one of the upper core of a pair (04 R99, 16 R406). -/
def msgGroup (s : State) (c : Nat) : Option Nat :=
  let v := (s.ctx c).msgtgt
  let core := fld v 0 9
  let k := fld v 16 6
  let g := core * 32 + k
  let ok := resident (s.grp g) && s.ctxOf g == c && core < Config.numCores
  if k < 32 then (if ok then some g else none)
  else if ok && (s.teamOf g).pair && (s.teamOf g).core == core then some g else none

/-- MSGIN: push an entry into q15 of a slot (16 R415). -/
def execMsgin (ctx : Nat) (s : State) : Host.Outcome State Fault Refusal :=
  let x := s.ctx ctx
  let no (b : Bool) (s : State) : State := s.modCtx ctx fun x => { x with msgRefused := b }
  let e : QEntry := [x.msgd0.setWidth 32, (x.msgd0 >>> 32).setWidth 32, x.msgd1.setWidth 32, (x.msgd1 >>> 32).setWidth 32]
  unlessRecovery s (match msgGroup s ctx with
    | none => no true s
    | some g =>
      let q := (s.grp g).q
      if q.q15in.length < 4 ∧ q.owed.isEmpty then no false (pushQ15 s g e) else no true s)

/-- The command processor takes an outgoing entry of a q15 (16 R415). -/
def execQ15Outgoing (core slot : Nat) (s : State) : Host.Outcome State Fault Refusal :=
  let g := core * 32 + slot
  let x := s.grp g
  match x.q.q15out with
  | [] => .next s
  | e :: rest =>
    let p (i : Nat) : Nat := (e.getD i 0).toNat
    let s := s.setGrp g { x with q := { x.q with q15out := rest } }
    done (eventRecord s (s.ctxOf g) 0x11 (core / 16) (p 0) (p 1) (p 2) (p 3) 0).1

/-- A control-window write of a grid-barrier counter (16 R406). -/
def execGbarCounterWrite (ctx k : Nat) (v : DWord) (s : State) : Host.Outcome State Fault Refusal :=
  let q := tget (s.ctx ctx).gctrs {} k
  unlessRecovery s (
    if !q.waiters.isEmpty ∨ !q.refused.isEmpty then s
    else setGctr s ctx k { q with ph := BitVec.ofNat 16 (fld v 48 16), exp := fld v 24 24, arr := fld v 0 24, obs := 0 })

/-- A write of FQLOST or EQLOST (16 R406). -/
def execLostCountClear (ctx : Nat) (events : Bool) (s : State) : Host.Outcome State Fault Refusal :=
  unlessRecovery s (s.modCtx ctx fun x => if events then { x with eqlost := 0 } else { x with fqlost := 0 })

/-- A host read of a queue's tail arms its vector again (16 R404). -/
def execQueueTailRead (fn ctx : Nat) (events : Bool) (s : State) : Host.Outcome State Fault Refusal :=
  let x := s.ctx ctx
  if s.dev.recovery ∨ !holdsCtx s fn ctx then .next { s with hostReply := 0 }
  else if events then
    .next { s.setCtx ctx { x with eqPend := false } with hostReply := ctxRegRead s ctx 0x080 }
  else .next { s.setCtx ctx { x with fqPend := false } with hostReply := ctxRegRead s ctx 0x060 }

/-! ### The memory window -/

/-- The pieces of an access with their offsets. -/
def offsets : Nat → List Nat → List (Nat × Nat)
  | _, [] => []
  | o, l :: r => (o, l) :: offsets (o + l) r

/-- The record of a memory-window access that met a malformed entry or a peer that cannot be reached. -/
def windowStop (s : State) (c : Nat) : CpStop → State
  | .bad a 2 => stopFault 2 s c a none
  | .bad a 3 => cpMalformed s c a none
  | .bad _ _ => s
  | .page _ => s

/-- One piece of a memory-window access; a place the page tables do not give is read as a free value and not
written (log entry 7). A malformed entry and a peer that cannot be reached have their records (13 R344, 16 R410). -/
def windowPiece (c a n : Nat) (w : Option Nat) (s : State) : State × Nat :=
  let r := cpReach s c a n w.isNone w.isSome []
  match r.2, w with
  | .ok p, none => cpLoad r.1 c p n
  | .ok p, some v => (cpStore r.1 c p n v, 0)
  | .error e, none => freshBytes (windowStop r.1 c e) n
  | .error e, some _ => (windowStop r.1 c e, 0)

/-- A host read or write of 1 to 8 bytes through the memory window: a plain access at system scope (16 R403). -/
def execHostMemoryWindowAccess (fn ctx addr : Nat) (size : Nat) (write : Option DWord) (s : State) :
    Host.Outcome State Fault Refusal :=
  if s.dev.recovery ∨ !((s.ctx ctx).bound && (s.ctx ctx).fn == fn) then
    .next (if write.isNone then { s with hostReply := 0 } else s)
  else
    let ps := offsets 0 (pieces (addr % 32) (min size 8))
    let r := ps.foldl (fun (acc : State × Nat) p =>
      let v := windowPiece ctx (addr + p.1) p.2
        (write.map fun w => w.toNat / 2 ^ (8 * p.1) % 2 ^ (8 * p.2)) acc.1
      (v.1, acc.2 + v.2 * 2 ^ (8 * p.1))) (s, 0)
    done (if write.isNone then { r.1 with hostReply := BitVec.ofNat 64 r.2 } else r.1)

/-! ### The translator (16 R418, R419) -/

/-- The request that a function's registers hold. -/
def xlReq (f : Fn) : XlReq := { ctx := f.xlctx, src := f.xlsrc, len := f.xllen, dst := f.xldst, dlen := f.xldlen }

/-- XLGO: submit a request (16 R405, R418). -/
def execXlgo (fn : Nat) (s : State) : Host.Outcome State Fault Refusal :=
  unlessRecovery s (
    if (s.fn fn).req.isSome then s
    else (s.modFn fn fun x => { x with req := some (xlReq x) }).post (.translationComplete fn))

/-- Keep the most recent entries of a tenant that its quota holds; other tenants' entries stay (16 R419). -/
def keepQuota (key : BitVec 128) : Nat → List XlEntry → List XlEntry
  | _, [] => []
  | room, e :: r =>
    if e.key ≠ key then e :: keepQuota key room r
    else if e.native.length ≤ room then e :: keepQuota key (room - e.native.length) r
    else keepQuota key 0 r

/-- n bytes of device memory from a physical address. -/
def readBytes (s : State) (c a n : Nat) : State × List Byte :=
  (List.range n).foldl (fun (acc : State × List Byte) i =>
    let v := homeRead acc.1 c (a + i) 1
    (v.1, acc.2 ++ [BitVec.ofNat 8 v.2])) (s, [])

/-- The native section of a request and its status: none where nothing is written (16 R418, R419). -/
def translateReq (s : State) (fn : Nat) (q : XlReq) : State × Nat × List Byte :=
  let f := s.fn fn
  let x := s.ctx q.ctx
  if !x.bound ∨ x.fn ≠ fn then (s, 3, [])
  else if f.quota = 0 then (s, 4, [])
  else
    let b := readBytes s q.ctx q.src q.len
    let feat2 : DWord := 0x00000001007F007F
    let dig := Config.sha384 b.2
    let fits (n : List Byte) (st : Nat) : Nat × List Byte := if q.dlen < n.length then (3, []) else (st, n)
    let hit (e : XlEntry) : Bool := e.key == f.tkey && e.digest == dig && e.feat2 == feat2
    match b.1.xlcache.find? hit with
    | some e => ({ b.1 with xlcache := e :: b.1.xlcache.erase e }, fits e.native 1)
    | none => match Config.translate b.2 feat2.toNat with
      | none => (b.1, 2, [])
      | some n =>
        let e : XlEntry := { key := f.tkey, digest := dig, feat2 := feat2, native := n }
        ({ b.1 with xlcache := keepQuota f.tkey (f.quota * 65536) (e :: b.1.xlcache) }, fits n 0)

/-- A translator request completes (16 R418). -/
def execTranslationComplete (fn : Nat) (s : State) : Host.Outcome State Fault Refusal :=
  match (s.fn fn).req with
  | none => .next s
  | some q =>
    let r := translateReq s fn q
    let s := (r.2.2.zip (List.range r.2.2.length)).foldl
      (fun s b => homeWrite s q.ctx (q.dst + b.2) 1 b.1.toNat) r.1
    let s := s.modFn fn fun x => { x with req := none, status := r.2.1, bytes := r.2.2.length }
    done (raiseVector s fn 2)

/-! ### Control-window registers (16 R405 to R407) -/

/-- What a 32-bit access makes of a doubleword: its low or its high half is replaced. -/
def mergeHalf (old v : DWord) (half : Option Bool) : DWord :=
  match half with
  | none => v
  | some false => (old &&& 0xFFFFFFFF00000000) ||| (v &&& 0xFFFFFFFF)
  | some true => (old &&& 0xFFFFFFFF) ||| (v <<< 32)

/-- A write of a register of 32 bits or fewer; the high half ignores writes. -/
def write32 (s : State) (v : DWord) (half : Option Bool) (f : DWord → State) : State :=
  if half = some true then s else f (v &&& 0xFFFFFFFF)

/-- SIZE and BASE after a write (16 R406). -/
def ringSet (size : Nat) (v : DWord) : Nat × Nat :=
  (if 10 < fld v 60 4 then size else fld v 60 4, fld v 11 41 * 2048)

/-- A write of CTXCFG (16 R406). -/
def cfgWrite (s : State) (c : Nat) (v : DWord) : State :=
  let x := s.ctx c
  if fld v 0 1 = 1 then (if x.en ∨ !x.bound then s else s.post (.ctxcfgCreate c v))
  else if x.en then s.post (.ctxcfgDelete c)
  else s.setCtx c { x with bar := fld v 1 1 == 1 }

/-- A write of CCTL: a command that does not suit STATE is ignored (13 R364). -/
def cctlWrite (s : State) (c : Nat) (v : DWord) : State :=
  match fld v 2 2 with
  | 1 => if (s.ctx c).state = 0 then s.post (.cctlPreempt c) else s
  | 2 => if (s.ctx c).state = 2 then s.post (.cctlRestore c) else s
  | 3 => s.post (.cctlKill c)
  | _ => s

/-- A write of FRESOLVE (16 R406). -/
def fresolveWrite (s : State) (c : Nat) (v : DWord) : State :=
  if fld v 1 31 ≠ 0 then s
  else if fld v 0 1 = 1 then s.post (.fresolveUnresolvable c (fld v 32 32))
  else s.post (.fresolveResolved c (fld v 32 32))

/-- The registers of step 4 of bring-up, which wait for the binding of their context in step 3: CTXCFG, TVEC, PTROOT,
SAVEBASE and the queues (16 R423; log entry 41). -/
def stepFour (off : Nat) : Bool := [0x008, 0x038, 0x040, 0x048, 0x050, 0x058, 0x070, 0x078].contains off

/-- A write to a context page (16 R406). A register with an operation of its own starts it. -/
def ctxRegWrite (s : State) (c off : Nat) (v : DWord) (half : Option Bool) : State :=
  let x := s.ctx c
  if !x.bound && stepFour off then s else
  let wide (old : Nat) : DWord := mergeHalf (BitVec.ofNat 64 old) v half
  let low (f : DWord → Ctx) : State := write32 s v half fun w => s.setCtx c (f w)
  match off with
  | 0x000 => if half.isNone then s.post (.arrive c v) else s
  | 0x008 => write32 s v half (cfgWrite s c)
  | 0x010 => write32 s v half (cctlWrite s c)
  | 0x018 => low fun w => { x with feretry := fld w 0 16 }
  | 0x020 => low fun w => { x with monquota := fld w 0 7 }
  | 0x028 => low fun w => { x with leaseLim := fld w 0 16 }
  | 0x030 => low fun w => { x with detMode := if fld w 0 2 = 3 then x.detMode else fld w 0 2 }
  | 0x038 => s.setCtx c { x with tvec := fld (wide x.tvec) 0 57 }
  | 0x040 => s.setCtx c { x with ptroot := fld (wide x.ptroot) 15 37 * 2 ^ 15 }
  | 0x048 => s.setCtx c { x with savebase := fld (wide x.savebase) 21 31 * 2 ^ 21 }
  | 0x050 =>
    let r := ringSet x.fqsize (mergeHalf (ringReg x.fqsize x.fqbase) v half)
    s.setCtx c { x with fqsize := r.1, fqbase := r.2 }
  | 0x058 => (low fun w => { x with fqhead := fld w 0 16 }).post .pageFaultReport
  | 0x068 => write32 s v half fun _ => s.post (.lostCountClear c false)
  | 0x070 =>
    let r := ringSet x.eqsize (mergeHalf (ringReg x.eqsize x.eqbase) v half)
    s.setCtx c { x with eqsize := r.1, eqbase := r.2 }
  | 0x078 => low fun w => { x with eqhead := fld w 0 16 }
  | 0x088 => write32 s v half fun _ => s.post (.lostCountClear c true)
  | 0x090 => fresolveWrite s c (wide 0)
  | 0x098 => s.post (.shoot c (wide 0))
  | 0x0A0 => low fun w => { x with msgtgt := w &&& 0x3F01FF }
  | 0x0A8 => s.setCtx c { x with msgd0 := wide x.msgd0.toNat }
  | 0x0B0 => s.setCtx c { x with msgd1 := wide x.msgd1.toNat }
  | 0x0B8 => write32 s v half fun _ => s.post (.msgin c)
  | 0x0C0 => low fun w => if fld w 0 2 = 3 then x else { x with batchpol := fld w 0 2, polHost := fld w 0 2 }
  | _ =>
    if 0x400 ≤ off ∧ off < 0x800 ∧ off % 16 = 0 then
      let k := (off - 0x400) / 16
      s.post (.gbarCounterWrite c k (wide (gctrReg (tget x.gctrs {} k)).toNat))
    else s

/-- Bind a context; rebinding one that is not idle kills it first (16 R403). -/
def bindWrite (s : State) (c : Nat) (v : DWord) : State :=
  let x := s.ctx c
  let b := fld v 15 1 == 1
  if x.bound = b ∧ x.part = fld v 8 5 ∧ x.fn = fld v 0 5 then s
  else
    let s := if x.en then killCtx s c else s
    s.modCtx c fun x => { x with bound := b, part := fld v 8 5, fn := fld v 0 5 }

/-- A write to a tenant key or its quota (16 R407). -/
def tkeyWrite (s : State) (f dw : Nat) (v : DWord) (half : Option Bool) : State :=
  let x := s.fn f
  match dw with
  | 0 =>
    let w := mergeHalf (x.tkey.setWidth 64) v half
    s.modFn f fun x => { x with tkey := (x.tkey >>> 64 <<< 64) ||| w.setWidth 128 }
  | 1 =>
    let w := mergeHalf ((x.tkey >>> 64).setWidth 64) v half
    s.modFn f fun x => { x with tkey := (x.tkey <<< 64 >>> 64) ||| (w.setWidth 128 <<< 64) }
  | 2 => write32 s v half fun w => s.modFn f fun x => { x with quota := fld w 0 16 }
  | _ => s

/-- A write to the device page (16 R407). -/
def devRegWrite (s : State) (off : Nat) (v : DWord) (half : Option Bool) : State :=
  let d := s.dev
  let low (f : DWord → State) : State := write32 s v half f
  match off with
  | 0x0008 => low fun w => { s with dev := { d with hmax := min (fld w 12 5) 22, plim := min (fld w 0 12) 1800 } }
  | 0x0010 => low fun w => { s with dev := { d with peerself := fld w 0 4 } }
  | 0x0018 => { s with dev := { d with peermap := mergeHalf d.peermap v half } }
  | 0x2000 => low fun w => { s with dev := { d with hostcap := fld w 0 1 == 1 } }
  | _ =>
    if 0x0100 ≤ off ∧ off < 0x0100 + 8 * Config.numClusters then
      let k := (off - 0x0100) / 8
      low fun w =>
        if s.teams.any fun e => (e.2.st == .resident || e.2.windowHeld) && e.2.cluster == k then s
        else { s with dev := { d with parts := tset d.parts k (fld w 0 5) } }
    else if 0x0200 ≤ off ∧ off < 0x0400 then low (bindWrite s ((off - 0x0200) / 8))
    else if 0x0400 ≤ off ∧ off < 0x0800 then tkeyWrite s ((off - 0x0400) / 32) (off % 32 / 8) v half
    else if 0x0800 ≤ off ∧ off < 0x0800 + 8 * Config.numClusters then
      low fun w => if fld w 0 2 = 3 then s
        else s.modCluster ((off - 0x0800) / 8) fun k => { k with pol := fld w 0 2 }
    else if 0x1000 ≤ off ∧ off < 0x1000 + 8 * Config.numCores then
      low fun w =>
        let t := fld w 0 8
        if t < 80 ∨ 105 < t then s else s.modCore ((off - 0x1000) / 8) fun k => { k with trip := t }
    else s

/-- The provisioning registers, which respond in recovery as well (16 R407, R420). -/
def provRegWrite (s : State) (off : Nat) (v : DWord) (half : Option Bool) : State :=
  let d := s.dev
  match off with
  | 0x3000 =>
    let w := mergeHalf (BitVec.ofNat 64 d.provbase) v half
    { s with dev := { d with provbase := fld w 0 52 } }
  | 0x3008 => write32 s v half fun w => { s with dev := { d with provlen := w.toNat } }
  | 0x3010 => write32 s v half fun _ => s.post .provgo
  | _ => s

/-- A write to the function page (16 R405). -/
def fnRegWrite (s : State) (fn off : Nat) (v : DWord) (half : Option Bool) : State :=
  let x := s.fn fn
  let wide (old : Nat) : DWord := mergeHalf (BitVec.ofNat 64 old) v half
  match off with
  | 0x010 => write32 s v half fun w => s.modFn fn fun x => { x with xlctx := fld w 0 6 }
  | 0x018 => s.modFn fn fun x => { x with xlsrc := fld (wide x.xlsrc) 0 52 }
  | 0x020 => write32 s v half fun w => s.modFn fn fun x => { x with xllen := w.toNat }
  | 0x028 => s.modFn fn fun x => { x with xldst := fld (wide x.xldst) 0 52 }
  | 0x030 => write32 s v half fun w => s.modFn fn fun x => { x with xldlen := w.toNat }
  | 0x038 => if x.req.isSome then s else s.post (.xlgo fn)
  | _ => s

/-- A write to BAR 4 (16 R405; log entry 65): a vector that is unmasked while its pending bit is set is sent. -/
def msixWrite (s : State) (fn o : Nat) (v : DWord) (half : Option Bool) : State :=
  let k := o / 16
  let new := mergeHalf (msixRead s fn o) v half
  if 4 ≤ k then s
  else if o % 16 = 0 then s.modFn fn fun x => { x with vaddr := tset x.vaddr k new }
  else
    let bit : BitVec 4 := BitVec.ofNat 4 (2 ^ k)
    let off := fld new 32 1 == 1
    let s := s.modFn fn fun x =>
      { x with vdata := tset x.vdata k (new.setWidth 32), vmask := if off then x.vmask ||| bit else x.vmask &&& ~~~bit }
    if !off && (s.fn fn).pba.getLsbD k then (s.modFn fn fun x => { x with pba := x.pba &&& ~~~bit }).send (.msix fn k)
    else s

/-- A control-window write of function `fn` to the doubleword at `off`, whole or one half of it. Reserved bits are
dropped, and a register the function does not hold ignores the write (16 R402, R405). -/
def execRegisterWrite (fn off : Nat) (v : DWord) (half : Option Bool) (s : State) : Host.Outcome State Fault Refusal :=
  if off % 8 ≠ 0 ∨ 32 ≤ fn then .next s
  else if fn = 0 ∧ 0x103000 ≤ off ∧ off < 0x103018 then .next (provRegWrite s (off - 0x100000) v half)
  else if s.dev.recovery then .next s
  else if off < 0x1000 then .next (fnRegWrite s fn off v half)
  else if 0x10000 ≤ off ∧ off < 0x50000 then
    let c := (off - 0x10000) / 0x1000
    .next (if holdsCtx s fn c then ctxRegWrite s c (off % 0x1000) v half else s)
  else if fn = 0 ∧ 0x100000 ≤ off ∧ off < 0x110000 then done (devRegWrite s (off - 0x100000) v half)
  else if bar4 ≤ off then .next (msixWrite s fn (off - bar4) v half)
  else .next s

/-! ### Trust and bring-up (16 R420, R421, R423) -/

/-- PROVGO: start provisioning (16 R407, R420). -/
def execProvgo (s : State) : Host.Outcome State Fault Refusal :=
  if s.dev.provst = 1 then .next s
  else .next ((s.modDev fun d => { d with provst := 1 }).post .provisioningWritten)

/-- The image is written and awaits a reset (16 R407). -/
def execProvisioningWritten (s : State) : Host.Outcome State Fault Refusal :=
  if s.dev.provst ≠ 1 then .next s
  else .next (s.modDev fun d => { d with provst := 2, image := Config.hostImage d.provbase d.provlen })

/-- GET_MEASUREMENTS: the registers with their signature (16 R421). -/
def execGetMeasurements (nonce : Nat) (s : State) : Host.Outcome State Fault Refusal :=
  unlessRecovery s (s.send (.measurements s.dev.measured (Config.attest s.dev.measured nonce)))

/-- Do both signatures and the security version of an image hold (16 R420)? -/
def imageOk (image : List Byte) : Bool :=
  Config.rsaVerifies image && Config.slhVerifies image && decide (Config.fusedMinimum ≤ Config.securityVersion image)

/-- The bytes of a 384-bit value. -/
def digestBytes (d : BitVec 384) : List Byte := (List.range 48).map fun i => d.extractLsb' (8 * i) 8

/-- A measurement register extended by the digest of a component (16 R421; log entry 6). -/
def extend (old : BitVec 384) (comp : List Byte) : BitVec 384 :=
  Config.sha384 (digestBytes old ++ digestBytes (Config.sha384 comp))

/-- The measurement registers after the components of an image have been measured in their order, component i into register
i mod 8 (16 R421; log entry 6). -/
def measure (image : List Byte) : List (BitVec 384) :=
  let cs := Config.components image
  (cs.zip (List.range cs.length)).foldl (fun ms c => ms.set (c.2 % 8) (extend (ms.getD (c.2 % 8) 0) c.1))
    (List.replicate 8 0)

/-- Reset: the boot ROM verifies and measures the image; without it the device is in recovery. What the part fixes,
the image slot and what has left the device stay (16 R420, R421, R423; log entry 6). -/
def execDeviceReset (s : State) : Host.Outcome State Fault Refusal :=
  let d := s.dev
  let ok := imageOk d.image
  .next { State.reset with
    dev := { bin := d.bin, rev := d.rev, enabled := d.enabled, xlPair := reservedPair d.enabled, image := d.image, recovery := !ok,
             measured := if ok then measure d.image else List.replicate 8 0 }
    outbox := s.outbox
    freeCtr := s.freeCtr }

end Sys2Proof.Machine
end

