-- ==== Sys2Proof/Machine/Peer.lean ====
section
/-! DEFINITION. What peers ask of the device's homes, the acknowledgements between devices, and the ports
(08 R210, 09 R235, R236, R244, 11 R292, 16 R410 to R412). -/

namespace Sys2Proof.Machine

open State

/-- An access from outside belongs to no context of the device; context 64 stands for it, which no command, counter
or register names. -/
def outsideCtx : Nat := 64

/-- Promote every tagged line that n bytes lie in: a read from outside comes from no core of the tagged pair, and may
acquire (10 R253, R261). -/
def promoteOut (s : State) (pa n : Nat) : State :=
  eachDo (List.range ((pa + n + 255) / 256 - pa / 256)) s fun s j => promoteFrom s none (pa / 256 + j)

/-- The lines of a full/empty access or an atomic from outside are raw from then on (09 R237). -/
def rawOut (s : State) (pa : Nat) : State := rawLine s (pa / 256)

/-- Read n bytes at their homes, lowest first. -/
def homeBytes (s : State) (pa n : Nat) : State × List Byte := readBytes (promoteOut s pa n) outsideCtx pa n

/-- Write bytes at their homes, lowest first. -/
def putBytes (s : State) (pa : Nat) (bs : List Byte) : State :=
  (bs.zip (List.range bs.length)).foldl (fun s b => homeWrite s outsideCtx (pa + b.2) 1 b.1.toNat) s

/-- Acknowledge the items of a peer performed since the last acknowledgement (16 R411). -/
def ackPeer (s : State) (peer : Nat) : State :=
  let n := tget s.recvd 0 peer
  if n = 0 then s else { s with recvd := tdel s.recvd peer }.send (.ack peer n)

/-- One more item of a peer has been performed; 64 are acknowledged (16 R411). -/
def countItem (s : State) (peer : Nat) : State :=
  let n := tget s.recvd 0 peer + 1
  let s := { s with recvd := tset s.recvd peer n }
  if 64 ≤ n then ackPeer s peer else s

/-- A memory read request (16 R411): expanded data (09 R235). -/
def execPeerMemoryRead (peer pa size : Nat) (s : State) : Host.Outcome State Fault Refusal :=
  let r := homeBytes s pa size
  done (r.1.send (.reply peer r.2))

/-- A posted write: one item (16 R411). -/
def execPeerPostedWrite (peer pa : Nat) (data : List Byte) (s : State) : Host.Outcome State Fault Refusal :=
  done (countItem (putBytes s pa data) peer)

/-- The value of bytes, lowest first. -/
def valueOf (bs : List Byte) : Nat := bs.foldr (fun b a => b.toNat + 256 * a) 0

/-- Change the value of n bytes at a home; the answer is the old value. -/
def homeChange (s : State) (pa n : Nat) (f : Nat → Nat) : State × Nat :=
  let r := homeRead (promoteOut s pa n) outsideCtx pa n
  (rawOut (homeWrite r.1 outsideCtx pa n (f r.2 % 2 ^ (8 * n))) pa, r.2)

/-- The lanes of a combined request in their order: the values each returns, and the value the word ends with
(09 R241). -/
def laneOps (op : Nat → Nat → Nat → Nat) (n : Nat) : List (DWord × DWord) → Nat → List Nat × Nat
  | [], v => ([], v)
  | l :: r, v =>
    let low (x : DWord) : Nat := x.toNat % 2 ^ (8 * n)
    let q := laneOps op n r (op v (low l.1) (low l.2) % 2 ^ (8 * n))
    (v :: q.1, q.2)

/-- A combined request of a peer, performed at the home as one indivisible step; each lane returns what the word held
before its own operation (09 R241, R244). -/
def homeLanes (s : State) (peer pa n : Nat) (op : Nat → Nat → Nat → Nat) (lanes : List (DWord × DWord)) :
    Host.Outcome State Fault Refusal :=
  let r := homeChange s pa n fun v => (laneOps op n lanes v).2
  done (r.1.send (.reply peer ((laneOps op n lanes r.2).1.flatMap (bytesOfWord n))))

/-- What an AtomicOp makes of a word (09 R244). -/
def peerOpValue (op : PeerOp) (v b cmp : Nat) : Nat :=
  match op with
  | .fetchAdd => v + b
  | .swap => b
  | .cas => if v = cmp then b else v

/-- A FetchAdd, Swap or CAS AtomicOp of a peer: its lane, and those combined with it, each an operand and a comparand (09
R241, R244). -/
def execPeerAtomicop (peer pa : Nat) (wide : Bool) (op : PeerOp) (lane : DWord × DWord) (more : List (DWord × DWord)) (s : State) :
    Host.Outcome State Fault Refusal :=
  homeLanes s peer pa (if wide then 8 else 4) (peerOpValue op) (lane :: more)

/-- The new value of an atomic that travels as a message (09 R239, R244). -/
def messageAtomic (opc : Nat) (ty : Ty) (c v b cmp : Nat) : Nat :=
  match opc with
  | 0x80 => (atomInt ty (· + ·) v b 0).1
  | 0x81 => (atomInt ty min v b 0).1
  | 0x82 => (atomInt ty max v b 0).1
  | 0x83 => Nat.land v b
  | 0x84 => Nat.lor v b
  | 0x85 => Nat.xor v b
  | 0x86 => b
  | 0x87 => if v = cmp then b else v
  | 0x88 => if 0 < Alu.value ty v then v - 1 else v
  | 0x89 => afmaxOf ty (c == 1) v b
  | 0x8A => (laddaOf ty (c == 1) v b).1
  | _ => v

/-- The words of n bytes at a home. -/
def homeWords (pa n : Nat) : List WObj := (wordsAt pa n).map WObj.mem

/-- Are the words of an access all in a state? -/
def wordsAre (s : State) (pa n : Nat) (full : Bool) : Bool := (homeWords pa n).all fun o => isFull s o == full

/-- Set the states of the words of an access; making one full is a release at system scope (10 R249, R260). -/
def wordsSet (s : State) (pa n : Nat) (full : Bool) : State :=
  let s := if full then setPromo s (pa / 256) none else s
  eachDo (homeWords pa n) s fun s o => setFE s o full

/-- Link a proxy entry for a group of a peer: one for the group, at its lead word, whose lane comes first; a replay that
waits at the same word again returns to its place (08 R202, R205, R210). -/
def linkProxy (s : State) (peer core slot pa fe : Nat) : State :=
  let mine (p : Nat × Nat × Nat × Nat × Nat) : Bool := p.1 == peer && p.2.1 == core && p.2.2.1 == slot
  if s.headland.any fun w => w.who == .peer peer core slot then s
  else
    let new := nextArrival { s with proxies := s.proxies.filter fun p => !mine p }
    let old := (s.proxies.find? fun p => mine p && p.2.2.2.1 == pa / 4 * 4).map fun p => p.2.2.2.2
    linkWaiter new.1 { obj := .mem (pa / 4 * 4), who := .peer peer core slot, fe := fe, arr := old.getD new.2 }

/-- Unlink the proxy entry of a group of a peer (08 R203). -/
def unlinkProxy (s : State) (peer core slot : Nat) : State :=
  { s with headland := s.headland.filter fun w => w.who != .peer peer core slot
           proxies := s.proxies.filter fun p => !(p.1 == peer && p.2.1 == core && p.2.2.1 == slot) }

/-- The proxy entry of a group of a peer names its new core and slot, in its place; one that has been woken meanwhile is
told again (08 R203; log entry 44). -/
def moveProxy (s : State) (peer core slot core' slot' : Nat) : State :=
  if s.headland.any fun w => w.who == .peer peer core slot then
    { s with headland := s.headland.map fun w =>
        if w.who = .peer peer core slot then { w with who := .peer peer core' slot' } else w }
  else
    { s with proxies := s.proxies.map fun (p : Nat × Nat × Nat × Nat × Nat) =>
        if p.1 = peer ∧ p.2.1 = core ∧ p.2.2.1 = slot then (peer, core', slot', p.2.2.2) else p }.send
      (.proxyWake peer core' slot')

/-- A full/empty access, atomic or `wake` of a peer (08 R199, R210, 09 R244, 12 R336), or word of its release or of a
proxy. What makes a word full is a release, which the peer's items so far are acknowledged at (16 R411; log entry 44). -/
def execPeerFeAccess (peer core slot pa : Nat) (acc : PeerAccess) (s : State) : Host.Outcome State Fault Refusal :=
  match acc with
  | .read fe n =>
    if !wordsAre s pa n true then .next (linkProxy s peer core slot pa fe)
    else
      let r := homeBytes s pa n
      let s := rawOut r.1 pa
      done ((if fe = 2 then wordsSet s pa n false else s).send (.reply peer r.2))
  | .write fe data =>
    let n := data.length
    if !wordsAre s pa n (fe != 3) then .next (linkProxy s peer core slot pa fe)
    else
      -- `st.wait` acquires
      let s := putBytes (if fe = 3 then s else promoteOut s pa n) pa data
      -- a fill is an item and a release, which an acknowledgement answers
      done (if fe = 3 then ackPeer (countItem (wordsSet s pa n true) peer) peer else s.send (.reply peer []))
  | .setState full n =>
    let s := wordsSet (rawOut s pa) pa n full
    done ((if full then ackPeer s peer else s).send (.reply peer []))
  | .query n =>
    let s := rawOut (promoteOut s pa n) pa
    done (s.send (.reply peer [if wordsAre s pa n true then 1 else 0]))
  | .atomic opc ty c lanes => homeLanes s peer pa (atomWidth ty) (messageAtomic opc ty c) lanes
  | .release => .next (ackPeer s peer)
  | .unlink => .next (unlinkProxy s peer core slot)
  | .repoint c k => .next (moveProxy s peer core slot c k)
  | .wake all =>
    let ms := s.monitors.filter fun m => m.obj == wordOf (.mem pa) && !m.fired
    let ms := if all then ms else ms.take 1
    .next ((eachDo ms s fun s m => fireMonitor s m 3).send (.reply peer (bytesOfWord 4 ms.length)))

/-- A compressed line of a peer: one item (09 R232, R235, 16 R411). The L2 holds it in its form. A reserved form makes an
uncorrectable line. -/
def execPeerCompressedLine (peer pa code : Nat) (data : List Byte) (s : State) : Host.Outcome State Fault Refusal :=
  let a := pa / 256 * 256
  let v := expandLine code (valueOf data)
  let s := eachDo (List.range 8) s fun s j => homeWrite s outsideCtx (a + 32 * j) 32 (v / 2 ^ (256 * j) % 2 ^ 256)
  let s := codeLine s (a / 256) (if 7 ≤ code then 0 else code)
  let s := if 7 ≤ code then { s with badMem := (List.range 64).foldl (fun l j => sins l (a + 4 * j)) s.badMem } else s
  done (countItem s peer)

/-- A wake message for a group that waits at a peer's word, or for a command whose fill waits there: the fill is sent
again (08 R208, R210). -/
def execPeerProxyWake (core slot : Nat) (s : State) : Host.Outcome State Fault Refusal :=
  if slot < 64 then .next (eachDo (proxyGroups s core slot) s wakeGroup)
  else match (s.core core).cmds.find? fun c => fillAtPeer c && engSlot c == slot with
    | some c => done (retryFill s core c)
    | none => .next s

/-- An acknowledgement covers one item: its store, its command, its launch and its team (11 R292, 16 R411). -/
def ackItem (s : State) (i : PItem) : State :=
  let s := if i.launch = 0 then s else s.modLaunch i.launch fun l => { l with peerOut := l.peerOut - 1 }
  let s := if i.team = 0 then s else s.modTeam i.team fun t => { t with peerOut := t.peerOut - 1 }
  let s := match i.eng with
    | some (core, q) =>
      match (s.core core).cmds.find? fun d => d.q == q && d.team == i.team && d.peerOut != 0 with
      | some d => (putCmd s core d { d with peerOut := d.peerOut - 1 }).post (.commandEnd core q)
      | none => s
    | none => s
  match i.grp with
  | some (g, n) =>
    match (s.grp g).pend.find? fun p => p.kind == .peerStore && p.seq == n with
    | some p =>
      if p.aux ≤ 1 then settleFences (deliver s g p) g
      else s.modGrp g fun x =>
        { x with pend := x.pend.map fun q => if q = p then { q with aux := q.aux - 1 } else q }
    | none => s
  | none => s

/-- Have all the teams of a launch retired? -/
def allRetired (s : State) (l : Nat) : Bool :=
  s.teams.all fun e => e.2.launch != l || e.2.st == .retired || e.2.st == .none

/-- An acknowledgement of n items, in the order they left (16 R411). -/
def execPeerStoreAck (peer n : Nat) (s : State) : Host.Outcome State Fault Refusal :=
  let all := tget s.items [] peer
  let its := all.take n
  let ls := ((its.map (·.launch)).eraseDups).filter (· != 0)
  let s := { s with items := if (all.drop n).isEmpty then tdel s.items peer else tset s.items peer (all.drop n) }
  let s := eachDo (ls.filter (allRetired s)) s fun s l => s.modLaunch l fun x => { x with lack := x.lack + 1 }
  let s := eachDo its s ackItem
  let s := eachDo ((its.map (·.team)).eraseDups) s fun s t => (s.post (.teamRetire t)).post (.producerTeamFinish t)
  let s := eachDo ls s fun s l => s.post (.launchEnd l)
  let s := savePoke s 0 0
  done (eachDo (s.ctxs.filter fun c => !c.2.shoots.isEmpty) s fun s c => s.post (.shootdownComplete c.1))

/-- A drain request is answered with the acknowledgement of all that has been performed (16 R411). -/
def execPeerDrainRequest (peer : Nat) (s : State) : Host.Outcome State Fault Refusal := .next (ackPeer s peer)

/-- No acknowledgement came: the command that waits for it ends with FC = 7 (16 R411). -/
def execPeerAckTimeout (core q : Nat) (s : State) : Host.Outcome State Fault Refusal :=
  match (s.core core).cmds.find? fun c => c.q == q && c.ending && c.peerOut != 0 with
  | none => .next s
  | some c =>
    let s := savePoke s 0 0
    if c.stage = 4 then done (fillLost s core c)
    else if c.stage = 2 then
      let c' := { c with st := 4, fc := 7, peerOut := 0 }
      done ((putCmd (countEnd s core c') core c c').post (.commandEnd core q))
    else
      let c' := { c with st := 4, fc := 7, peerOut := 0 }
      done ((putCmd s core c c').post (.commandEnd core q))

/-- The last team of a launch has retired with items outstanding: each peer that has some is asked to drain
(16 R411). -/
def execDrainSend (launch : Nat) (s : State) : Host.Outcome State Fault Refusal :=
  let ps := (s.items.filter fun e => e.2.any fun i => i.launch == launch).map Prod.fst
  .next (eachDo ps s fun s p => s.send (.drain p))

/-- A peer port is trained and learns the peer's advertisement (09 R236). -/
def execLinkTraining (port : Nat) (dcap : Bool) (s : State) : Host.Outcome State Fault Refusal :=
  let bit : BitVec 8 := BitVec.ofNat 8 (2 ^ port)
  .next (if 8 ≤ port then s else s.modDev fun d =>
    { d with trained := d.trained ||| bit, up := d.up ||| bit,
             dcap := if dcap then d.dcap ||| bit else d.dcap &&& ~~~bit })

/-- A peer port goes down (16 R410). -/
def execPortDown (port : Nat) (s : State) : Host.Outcome State Fault Refusal :=
  .next (if 8 ≤ port then s else s.modDev fun d => { d with up := d.up &&& ~~~BitVec.ofNat 8 (2 ^ port) })

end Sys2Proof.Machine
end

