-- ==== Sys2Proof/Machine/Clause.lean ====
section
/-! DEFINITION. Selecting groups, fetching and checking their clauses (02 R32 to R37, R55 to R57, 03 R72 to R78, R91,
10 R267, 13 R344, R345, R355, 15 R390, R393, R399). -/

namespace Sys2Proof.Machine

open State

/-! ### WAIT and the next clause -/

/-- Has a group work of a kind outstanding? -/
def outstanding (x : Group) (k : PKind) : Bool := x.pend.any fun p => p.kind == k

/-- Do the conditions of a WAIT field hold (02 R35)? -/
def waitOk (x : Group) (w : BitVec 8) : Bool :=
  (!w.getLsbD 7 || !outstanding x .load) && (!w.getLsbD 6 || !outstanding x .store) &&
    (!w.getLsbD 5 || !outstanding x .matrix) && (!w.getLsbD 4 || !outstanding x .copySub) &&
    (!w.getLsbD 3 || !(outstanding x .atomic || outstanding x .cpf || outstanding x .sync)) &&
    (!w.getLsbD 2 || !outstanding x .pop) && (!w.getLsbD 1 || !outstanding x .peerStore) &&
    (!w.getLsbD 0 || !outstanding x .mldb)

/-- The header of the clause a group runs next, in progress or in the clause cache (10 R267); none when there is none. -/
def nextHeader (s : State) (g : Nat) : Option Header :=
  let x := s.grp g
  match x.clause with
  | h :: _ => some (headerOf h)
  | [] =>
    match cachedClause s g (if x.hdr = 0 then x.pc else x.hdr) with
    | some (w :: _) => if isHeader w then some (headerOf w) else none
    | _ => none

/-- The timing class a group's next clause declares (03 R77). -/
def nextTcx (s : State) (g : Nat) : Nat := match nextHeader s g with | some h => h.tcx | none => 0

/-! ### Readiness -/

/-- Does a group wait for a pre-emption or migration at the point it has reached (13 R365, 15 R399)? -/
def stopped (x : Group) : Bool := x.stopReq && !x.running

/-- Does the last instruction of a group's clause still pass through its rows (03 R69)? -/
def passing (k : Core) (x : Group) : Bool :=
  match x.tail with
  | some (_, till) => k.cyc.toNat < till
  | none => false

/-- Eligible, not running, not stopped (03 R77). -/
def basicReady (s : State) (g : Nat) : Bool :=
  let x := s.grp g
  x.st == .eligible && !x.running && !stopped x && !passing (s.core (g / 32)) x

/-- Is the team of a group throttled (15 R390)? -/
def throttledG (s : State) (g : Nat) : Bool := (s.teamOf g).throttled

/-- The groups of a core by slot. -/
def coreGroups (s : State) (c : Nat) : List Nat := (s.core c).slots.map fun e => c * 32 + e.1

/-- The one group of a context that may run on a core although throttled: its lowest slot with a notice in q6, once
an interval (15 R393). -/
def exemptGroup (s : State) (c ctx : Nat) : Option Nat :=
  if (s.core c).exempt.contains ctx then none
  else (coreGroups s c).find? fun g =>
    s.ctxOf g == ctx && throttledG s g && resident (s.grp g) && !(s.grp g).q.q6.isEmpty

/-- Is a group exempted now? -/
def exempted (s : State) (g : Nat) : Bool := exemptGroup s (g / 32) (s.ctxOf g) == some g

/-- The groups of a core that yielded, the one that yielded first before the others. -/
def yieldOrder (s : State) (c : Nat) : List Nat :=
  let left (g : Nat) : Nat := match (s.grp g).yielded with | some (n, _) => n | none => 0
  sortBy (fun a b => left a ≤ left b) ((coreGroups s c).filter fun g => (s.grp g).yielded.isSome)

/-- The groups of `l` that still stand aside, each behind the ready groups `rs` that have not been selected since it
yielded; one that no longer does is ready again (03 R91). -/
def asideOf (s : State) : List Nat → List Nat → List Nat
  | [], _ => []
  | g :: l, rs =>
    let wait : Bool := match (s.grp g).yielded with
      | some (n, seen) => n != 0 && rs.any fun h => !seen.contains h
      | none => false
    if wait then g :: asideOf s l rs
    else asideOf s l (if basicReady s g && !throttledG s g then g :: rs else rs)

/-- Does a yielded group still stand aside (03 R91)? -/
def standsAside (s : State) (g : Nat) : Bool :=
  if (s.grp g).yielded.isNone then false
  else
    let c := g / 32
    let rs := (coreGroups s c).filter fun h => basicReady s h && (s.grp h).yielded.isNone && !throttledG s h
    (asideOf s (yieldOrder s c) rs).contains g

/-- Ready under R77. -/
def ready (s : State) (g : Nat) : Bool :=
  basicReady s g && !standsAside s g && (!throttledG s g || exempted s g)

/-! ### Rows -/

/-- The rows a group holds: those of its clause while it runs, and until its last instruction has passed through them
(03 R69, R72). -/
def rowsHeld (k : Core) (x : Group) : BitVec 4 :=
  (if x.running then x.rows else 0) ||| match x.tail with
    | some (r, till) => if k.cyc.toNat < till then r else 0
    | none => 0

/-- The rows that the running groups of a core hold (03 R72). -/
def rowsBusy (s : State) (c : Nat) : BitVec 4 :=
  (coreGroups s c).foldl (fun a g => a ||| rowsHeld (s.core c) (s.grp g)) 0

/-- The lowest free aligned set of rows for a width (03 R72). -/
def rowsFor (busy : BitVec 4) (gw : Nat) : Option (BitVec 4) :=
  let sets : List (BitVec 4) := if gw = 64 then [0xF] else if gw = 32 then [0x3, 0xC] else [0x1, 0x2, 0x4, 0x8]
  sets.find? fun r => r &&& busy == 0

/-! ### The clause check (02 R57) -/

/-- The fault of an instruction word by the field checks, with its code. -/
def wordFault (w : DWord) : Option Nat :=
  match decodeWord w with
  | .ok _ => none
  | .error (.enc .matrixFmt) => some 0x0C
  | .error (.enc .veneer) => some 0x0B
  | .error _ => some 0x01

/-- A lane number of `bcast` beyond the group (04 R118). -/
def laneFault (gw : Nat) (i : Instr) : Bool :=
  match i with
  | .bcast f => gw ≤ f.fn.toNat
  | _ => false

/-- The checks of one slot in the order of R57: fields, slot rules, EC, DS. DESIGN CHOICE (log entry 54): a regroup branch in
a clause with RG = 0 fails here, as a slot rule of its own slot. -/
def slotFault (h : Header) (det : Bool) (gw j : Nat) (w : DWord) : Option Nat :=
  match decodeWord w with
  | .error _ => wordFault w
  | .ok i =>
    if laneFault gw i then some 0x01
    else if i.endsClause && j + 1 != h.n then some 0x01
    else if i.isJoin != (j == 0 && h.jn) then some 0x01
    else if i.isRegroup && !h.rg then some 0x01
    else if i.ec != 0 && i.ec != h.ec then some 0x01
    else if det && i.dsSensitive && !h.ds then some 0x01
    else none

/-- The first slot with a fault from slot j on: its number and code. -/
def slotsFault (h : Header) (det : Bool) (gw : Nat) : Nat → List DWord → Option (Nat × Nat)
  | _, [] => none
  | j, w :: r =>
    match slotFault h det gw j w with
    | some c => some (j, c)
    | none => slotsFault h det gw (j + 1) r

/-- The first slot from slot j on whose class exceeds TCX. -/
def classFault (tcx : Nat) : Nat → List DWord → Option Nat
  | _, [] => none
  | j, w :: r =>
    match decodeWord w with
    | .ok i => if tcx < i.tc then some j else classFault tcx (j + 1) r
    | .error _ => classFault tcx (j + 1) r

/-- Does a clause hold a regroup branch? Only a word that passes the field checks counts as one (DESIGN CHOICE, log
entry 54). -/
def hasRegroup (ws : List DWord) : Bool :=
  ws.any fun w => match decodeWord w with | .ok i => i.isRegroup | .error _ => false

/-- The clause check: the code and the number of the failing word, 0 for the header (02 R57). DESIGN CHOICE (log entry 54):
of two FLAGS faults, PRIV for TH comes before ILLEGAL_ENC for an RG without its branch. -/
def clauseFault (hw : DWord) (ws : List DWord) (det hmode : Bool) (gw : Nat) : Option (Nat × Nat) :=
  let h := headerOf hw
  if !headerLegal hw then some (0x01, 0)
  else if h.th && !hmode then some (0x03, 0)
  else if h.rg && !hasRegroup ws then some (0x01, 0)
  else match slotsFault h det gw 0 ws with
    | some (j, c) => some (c, j + 1)
    | none => (classFault h.tcx 0 ws).map fun j => (0x04, j + 1)

/-! ### Fetch -/

/-- Fetch n words from an address. -/
def fetchRun (s : State) (g a : Nat) : Nat → State × List DWord × Option (Nat × FetchX)
  | 0 => (s, [], none)
  | n + 1 =>
    let r := fetchAt s g a
    match r.2 with
    | .ok w =>
      let q := fetchRun r.1 g (a + 8) n
      (q.1, w :: q.2.1, q.2.2)
    | e => (r.1, [], some (a, e))

/-- What a fetch that failed does: a page fault parks the group with its replay address at the header, and leaves what
it still has to replay; the rest traps with TPC at the header (13 R344, R345). -/
def fetchFail (s : State) (g hdr a : Nat) (e : FetchX) : State :=
  let em := (s.grp g).em
  match e with
  | .absent =>
    let redo := (s.grp g).redo
    let s := parkPages s g em ((lanesOf em 64).map fun i => (i, a)) [a] 1
    s.modGrp g fun x => { x with redo := redo, park := x.park.map fun r => { r with pc := hdr, fetch := true } }
  | .malformed =>
    let s := malformedRecord s g a 1
    trapAt s g 0x06 hdr em hdr hdr
  | .ecc => trapAt s g 0x0E a em hdr hdr
  | .prot =>
    -- a TVEC that is no header ends the launch with the code of the trap (13 R355)
    let x := s.grp g
    if x.trap.hmode && hdr == (s.ctx (s.ctxOf g)).tvec && hdr % 8 != 0 then
      abortLaunch (stopMid s g) (s.teamOf g).launch x.trap.tcause.toNat (g / 32) (slotNum s g)
    else trapAt s g 0x06 hdr em hdr hdr
  | .ok _ => s

/-- The group as it was before the transfer of control that brought it here: no lane has been transferred, and the
instruction does not count (02 R58, 03 R81). -/
def takeBack (s : State) (g : Nat) (w : Came) : State :=
  let s := match w.sreg with | some r => writeS s g r.1 r.2 | none => s
  s.modGrp g fun x =>
    -- the K = 1 results that ended with the clause: those that came since, and those still to come (02 R59)
    let same (p q : Pend) : Bool := p.seq == q.seq && p.kind == q.kind
    let gone := w.pend.filter fun p => !x.pend.any (same p)
    let late (n : Nat) : List VRes := (gone.filter (·.seq == n)).flatMap fun p => p.vregs.filter (·.reg ≤ 191)
    { x with em := w.em, live := w.live, stack := w.stack, retc := x.retc - 1, came := none
             window := w.window.map fun e => { e with vals := e.vals ++ late e.seq }
             pend := x.pend.map fun p => (w.pend.find? (same p)).getD p }

/-- A return from a trap found no header at TPC: it resumes at a slot of the clause at THDR, or is a double trap
(13 R357). -/
def tretLate (s : State) (g a : Nat) (w : Came) : State :=
  let bad := abortLaunch (stopMid s g) (s.teamOf g).launch 0x02 (g / 32) (slotNum s g)
  if a ≠ w.pc then bad
  else
    let redo := w.again.map fun m => ({ cause := .marker, mask := m, pc := w.pc } : ParkRec)
    tretSlot s g w.hdr w.pc fun s => s.modGrp g fun y => { y with hdr := w.hdr, pc := w.pc, redo := redo, came := none }

/-- A word that is no header where a clause is to begin: an entry, a handler, a fall-through, or the target of a
transfer that could not be judged before the fetch (01 R20, 02 R57, R58, 13 R355). -/
def notHeader (s : State) (g a : Nat) : State :=
  let x := s.grp g
  let em := x.em
  let entry := fld (dwOf (s.launchOf g).dw 1) 0 57
  match x.came with
  | some w => if w.tret then tretLate s g a w else trapAt (takeBack s g w) g 0x02 a w.lanes w.pc w.hdr
  | none =>
    if x.trap.hmode && a == (s.ctx (s.ctxOf g)).tvec then
      abortLaunch (stopMid s g) (s.teamOf g).launch x.trap.tcause.toNat (g / 32) (slotNum s g)
    else if a = entry ∧ x.seq = 0 then trapAt s g 0x02 a em a a
    else trapAt s g 0x01 a em a a

/-- The words of the clause at an address, from the core's clause cache or from memory (10 R267). -/
def clauseWords (s : State) (g a : Nat) : State × List DWord × Option (Nat × FetchX) :=
  let c := g / 32
  let ctx := s.ctxOf g
  match (s.core c).ccache.find? fun e => e.1 == ctx && e.2.1 == a with
  | some e => (s, e.2.2, none)
  | none =>
    let r := fetchAt s g a
    match r.2 with
    | .ok h =>
      let keep (s : State) (ws : List DWord) : State :=
        s.modCore c fun k => { k with ccache := (ctx, a, ws) :: k.ccache }
      if !isHeader h then (keep r.1 [h], [h], none)
      else
        let q := fetchRun r.1 g (a + 8) (headerOf h).n
        match q.2.2 with
        | some e => (q.1, [], some e)
        | none =>
          let ws := h :: q.2.1
          (keep q.1 ws, ws, none)
    | e => (r.1, [], some (a, e))

/-- Begin the clause at an address, at its slot at `pc` (02 R32, R57): its words are read and checked whole. At its
first slot its WAIT conditions must hold; a clause that is resumed has no WAIT check (02 R35, 13 R357). -/
def beginClause (s : State) (g a pc : Nat) (rows : BitVec 4) : State :=
  let r := clauseWords s g a
  match r.2.2 with
  | some (b, e) => fetchFail r.1 g a b e
  | none =>
    let s := r.1
    match r.2.1 with
    | [] => s
    | h :: ws =>
      if !isHeader h then notHeader s g a
      else
        let x := s.grp g
        match clauseFault h ws (isDet s g) x.trap.hmode x.gw with
        | some (code, k) => trapAt s g code (a + 8 * k) x.em a a
        | none =>
          if x.hdr == 0 && !waitOk x (headerOf h).wait then s.modGrp g fun x => { x with st := .held, came := none }
          else
            s.modGrp g fun x => { x with running := true, rows := rows, tail := none, hdr := a, clause := h :: ws, pc := pc,
                                         st := .eligible, came := none }

/-- Is one of the conditions a group waits for at its header that its loads or atomics complete (15 R387)? -/
def headerMemory (s : State) (g : Nat) : Bool :=
  let x := s.grp g
  match nextHeader s g with
  | some h => (h.wait.getLsbD 7 && outstanding x .load) || (h.wait.getLsbD 3 && outstanding x .atomic)
  | none => false

/-- Does a group wait at a header for a WAIT condition? A group in the middle of a clause does not. -/
def headerHeld (s : State) (g : Nat) : Bool :=
  let x := s.grp g
  x.hdr == 0 && match nextHeader s g with | some h => !waitOk x h.wait | none => false

/-- A group that is not running reads its next clause, and is Held at its header or Eligible (01 R19, 02 R35, R37). A
clause that cannot be read is left to the group's selection, which parks it or traps. -/
def refreshGroup (s : State) (g : Nat) : State :=
  let x := s.grp g
  if x.running ∨ x.exiting ∨ !(x.st = .eligible ∨ x.st = .held) then s
  else
    let s := if x.clause.isEmpty then (clauseWords s g (if x.hdr = 0 then x.pc else x.hdr)).1 else s
    let held := headerHeld s g
    let mem := held && headerMemory s g
    s.modGrp g fun x => { x with st := if held then .held else .eligible, memHeld := mem }

/-- A selected group takes its rows and runs: the clause it is in, or the clause at its pc (03 R74). -/
def startGroup (s : State) (g : Nat) (rows : BitVec 4) : State :=
  let s := s.modGrp g fun x => { x with yielded := none }
  let x := s.grp g
  if !x.clause.isEmpty then s.modGrp g fun x => { x with running := true, rows := rows, tail := none }
  else if x.hdr = 0 then beginClause s g x.pc (x.pc + 8) rows
  else match nextHeader s g with
    | some h =>
      -- past the last slot of the clause it resumes in, the group is at the next one
      if x.hdr + 8 * h.n < x.pc then
        beginClause (s.modGrp g fun x => { x with hdr := 0 }) g x.pc (x.pc + 8) rows
      else beginClause s g x.hdr x.pc rows
    | none => beginClause s g x.hdr x.pc rows

/-! ### Policies (03 R76 to R78) -/

/-- The policy of a core: 0 BATCH, 1 FAIR, 2 DETROT (03 R76). -/
def policyOf (s : State) (c : Nat) : Nat :=
  let gs := (coreGroups s c).filter fun g => (s.grp g).st != .free
  if gs.any fun g => isDet s g then 2
  else
    let ps := (gs.map fun g => (s.ctx (s.ctxOf g)).batchpol).eraseDups
    match ps with
    | [p] => p
    | _ => 1

/-- The slots of a core in rotation order from a pointer. -/
def rotation (ptr : Nat) : List Nat := (List.range 32).map fun j => (ptr + j) % 32

/-- Count a selection for the yielded groups of a core: the groups chosen in one cycle, if any (03 R91). -/
def countYields (s : State) (c : Nat) (chosen : List Nat) : State :=
  if chosen.isEmpty then s
  else eachDo (coreGroups s c) s fun s g =>
    match (s.grp g).yielded with
    | some (n, seen) => s.modGrp g fun x => { x with yielded := some (n - 1, (seen ++ chosen).eraseDups) }
    | none => s

/-- Start a group when its rows are free; whether it was started. -/
def tryStart (s : State) (g : Nat) : State × Bool :=
  match rowsFor (rowsBusy s (g / 32)) (s.grp g).gw with
  | none => (s, false)
  | some r => (startGroup s g r, true)

/-- Start each group of a list that fits and is still ready: a trap of an earlier one may have ended its launch. The
groups that were chosen. -/
def startAll (s : State) : List Nat → State × List Nat
  | [] => (s, [])
  | g :: r =>
    if !basicReady s g then startAll s r
    else
      let a := tryStart s g
      let b := startAll a.1 r
      (b.1, if a.2 then g :: b.2 else b.2)

/-- The groups exempted from throttling come first, each once; the last part tells that one of them has to wait for its
rows (15 R393). -/
def startExempt (s : State) (c : Nat) : State × List Nat × Bool :=
  let xs := (coreGroups s c).filter fun g => throttledG s g && exempted s g && basicReady s g
  let r := startAll s xs
  (eachDo r.2 r.1 fun s g => s.modCore c fun k => { k with exempt := s.ctxOf g :: k.exempt }, r.2, r.2.length != xs.length)

/-- Fill the free rows under FAIR, or by class under BATCH (03 R77, step 3). -/
def fillRows (s : State) (c pol ptr : Nat) : State × List Nat :=
  let rot := ((rotation ptr).map (c * 32 + ·)).filter fun g => ready s g && !throttledG s g
  if pol = 1 then startAll s rot
  else
    let top := ((coreGroups s c).filter fun g => (s.grp g).running).foldl (fun a g => max a (nextTcx s g)) 0
    let cls (g : Nat) : Nat := nextTcx s g
    startAll s (rot.filter (fun g => cls g == top) ++ rot.filter (fun g => cls g < top) ++
      rot.filter (fun g => top < cls g))

/-- Selection under BATCH and FAIR (03 R77). -/
def selectFair (s : State) (c pol : Nat) : State :=
  let ex := startExempt s c
  let s := ex.1
  -- rows that fall free go to the exempted group first
  if ex.2.2 ∨ rowsBusy s c = 0xF then countYields s c ex.2.1
  else
    let ptr := (s.core c).ptr
    match ((rotation ptr).map (c * 32 + ·)).find? fun g => ready s g && !throttledG s g with
    | none => countYields s c ex.2.1
    | some head =>
      let a := tryStart s head
      if !a.2 then countYields s c ex.2.1
      else
        let ptr := (head % 32 + 1) % 32
        let b := fillRows (a.1.modCore c fun k => { k with ptr := ptr }) c pol ptr
        countYields b.1 c (ex.2.1 ++ head :: b.2)

/-- The words of a row of a command's destination, as offsets in its space. -/
def dstRow (d : End) (b : Blk) (r : Nat) : List Nat :=
  let n := if Cv.isBlock d.enc then b.ncol / 32 * Cv.blockSize d.enc else b.ncol * d.e
  wordsAt (d.base + r * d.stride) n

/-- Can a command that has been submitted still set the state of a word, or, with `any`, write it: its completion fill, or
a payload, in mode 0 to 2 when it is to set a state (03 R78)? A block that has not been read, or the rest of a chain, may.
The word is one of the device, or one that lies at a peer. -/
def cmdSets (s : State) (any : Bool) (here : WObj → Bool) (there : Phys → Bool) (c : Cmd) : Bool :=
  let b := blkOf c.block
  let t := s.team c.team
  let core := cmdCore s c
  let d := dstEnd c b
  let at_ (loc : Bool) (a : Nat) : Bool :=
    if loc then here (wordOf (winObj t core a))
    else match xlateVia s c.ctx a with
      | .ok p => if p.pr || p.hb then there p else here (.mem (p.pa / 4 * 4))
      | .absent => false
      | .malformed => false
  c.block.isEmpty || b.lnk || (b.cv && at_ b.csp b.cwa) ||
    (!c.ending && (any || d.fem ≤ 2) && d.space ≤ 1 &&
      (List.range b.nrow).any fun r => (dstRow d b r).any fun a => at_ (d.space == 1) a)

/-- Is the event that will wake a parked group already on its way (03 R78)? -/
def wakeComing (s : State) (g : Nat) : Bool :=
  match (s.grp g).park with
  | none => false
  | some r =>
    let cmds (p : Cmd → Bool) : Bool := s.cores.any fun k => k.2.cmds.any p
    let cmd (any : Bool) (o : WObj) : Bool := cmds (cmdSets s any (· == o) fun _ => false)
    r.woken || match r.cause with
      | .marker => true
      | .feStore c off _ => cmd false (wordOf (.store c off))
      | .feMem pa _ => cmd false (wordOf (.mem pa))
      | .fePeer peer pa _ =>
        cmds (cmdSets s false (fun _ => false) fun p => p.pr && p.peer == peer && p.pa / 4 * 4 == pa)
      | .pages _ _ => false
      | .barWait _ _ => false
      | .barArrive _ _ => false
      | .gbarWait _ _ => false
      | .gbarArrive _ _ => false
      | .monitor => s.monitors.any fun m => m.core * 32 + m.slot == g && (m.fired || cmd true m.obj)
      | .wide _ => false
      | .regroup => false
      | .rejoin => false
      | .sleep _ _ => false
      | .queue => false
      | .reply => true

/-- What DETROT does at a slot. -/
inductive DetStep where
  | select | wait | skip
  deriving DecidableEq, Repr

/-- The slot under the pointer (03 R78, 15 R390). DESIGN CHOICE (log entry 45): a group that drains for its exit is
skipped. -/
def detStep (s : State) (g : Nat) : DetStep :=
  let x := s.grp g
  match x.st with
  | .free => .skip
  | .exited => .skip
  | .saved => if isDet s g then .wait else .skip
  | .parked => if wakeComing s g then .wait else .skip
  | .held => if x.exiting then .skip else .wait
  | .eligible =>
    if x.running || stopped x || passing (s.core (g / 32)) x then .wait
    else if standsAside s g then .skip
    else if throttledG s g && !exempted s g then .wait
    else .select

/-- The pointer moves over the slots it skips to one it selects or waits at (03 R78). -/
def selectDet (s : State) (c : Nat) : Nat → State
  | 0 => s
  | n + 1 =>
    let ptr := (s.core c).ptr
    let g := c * 32 + ptr
    let next (s : State) : State := s.modCore c fun k => { k with ptr := (ptr + 1) % 32 }
    match detStep s g with
    | .wait => s
    | .skip => selectDet (next s) c n
    | .select =>
      let ex := throttledG s g
      let a := tryStart s g
      if !a.2 then s
      else
        let s := if ex then a.1.modCore c fun k => { k with exempt := a.1.ctxOf g :: k.exempt } else a.1
        countYields (next s) c [g]

/-- Groups that have stopped for a pre-emption or a migration go on to it (13 R365, 15 R399). -/
def postStops (s : State) (c : Nat) : State :=
  let gs := (coreGroups s c).filter fun g => stopped (s.grp g) && (s.grp g).st != .free
  let s := eachDo (gs.filter fun g => (s.ctx (s.ctxOf g)).state == 1) s fun s g => s.post (.groupSave (g / 32) (g % 32))
  let ts := ((gs.filter fun g => (s.teamOf g).migrate).map fun g => (s.grp g).team).eraseDups
  eachDo ts s fun s t => s.post (.teamMigrate t)

/-- The running groups of a core in the order in which its ports are granted (03 R73, R78): those that were refused for
lack of matrix credit come first, in slot order (07 R185); under DETROT slots ascend, and credits reorder nothing. -/
def issueOrder (s : State) (c : Nat) : List Nat :=
  let run (ptr : Nat) : List Nat := ((rotation ptr).map (c * 32 + ·)).filter fun g => (s.grp g).running
  if policyOf s c = 2 then run 0
  else
    let run := run (s.core c).ptr
    let first (g : Nat) : Bool := (s.core c).creditFirst.contains (g % 32)
    (((s.core c).creditFirst.map (c * 32 + ·)).filter fun g => run.contains g) ++ run.filter fun g => !first g

/-- One core selects for the cycle that begins (03 R76 to R78, 15 R399). -/
def selectCore (s : State) (c : Nat) : State :=
  let s := eachDo (coreGroups s c) s refreshGroup
  let s := postStops s c
  let pol := policyOf s c
  if (s.core c).halfDuty ∧ (s.core c).cyc.toNat % 2 = 1 then s
  else if pol = 2 then selectDet s c 32
  else selectFair s c pol

/-- The clocks of some cores pass to a new cycle: the cycle in progress ends, and the ports are free again (03 R68, R73). -/
def newCycle (s : State) (cs : List Nat) : State :=
  let c := cs.headD 0
  let s := if (s.core c).cycling then closeCycle s cs (railOf s c) else s
  eachDo cs s fun s c => s.modCore c fun k => { k with grants := (1, 2, 1), cycling := true, turn := [] }

/-- A new cycle of a core, or of the pair whose clocks run as one: the cycle in progress ends, then groups are
selected and ports are free again (03 R68, R71 to R78). -/
def execGroupSelect (core : Nat) (s : State) : Host.Outcome State Fault Refusal :=
  let cs := clockCores s core
  let c := cs.headD core
  if !s.enabled core then .next s
  else if (s.core c).railStop.isSome then .next (s.post (.railStopEnd (c / 16)))
  else
    let s := eachDo cs (newCycle s cs) selectCore
    done (s.modCore c fun k => { k with turn := cs.flatMap fun c => issueOrder s c })

end Sys2Proof.Machine
end

