-- ==== Sys2Proof/Machine/Integer.lean ====
section
/-! DEFINITION. The integer vector instructions (04 R112 to R116). -/

namespace Sys2Proof.Machine

open Wf

/-- The operands as integers under TY, the exact result saturated under `.sat`, then narrowed (04 R113). -/
def intFn (f : FmtV) (op : Int → Int → Int → Int) : (Nat → Nat × Nat × Nat) → List Nat → VOut :=
  laneFn fun a b c =>
    let x := op (Alu.value f.ty a) (Alu.value f.ty b) (Alu.value f.ty c)
    Alu.wrap f.ty.width (if f.fn = 1 then Alu.sat f.ty x else x)

/-- a + b, saturated under `.sat` (04 R112, R113). -/
def execIadd (f : FmtV) (s : State) : Host.Outcome State Fault Refusal :=
  runV s f (binUse f.ty) tc0 (intFn f fun a b _ => a + b)

/-- a − b (04 R112). -/
def execIsub (f : FmtV) (s : State) : Host.Outcome State Fault Refusal :=
  runV s f (binUse f.ty) tc0 (intFn f fun a b _ => a - b)

/-- a × b (04 R112). -/
def execImul (f : FmtV) (s : State) : Host.Outcome State Fault Refusal :=
  runV s f (binUse f.ty) tc2 (intFn f fun a b _ => a * b)

/-- a × b + c, rounded once (04 R112). -/
def execImad (f : FmtV) (s : State) : Host.Outcome State Fault Refusal :=
  runV s f (use f.ty.opk f.ty.opk f.ty.opk f.ty.opk .inB) tc2 (intFn f fun a b c => a * b + c)

/-- floor(a × b / 2^w) (04 R112). -/
def execImulh (f : FmtV) (s : State) : Host.Outcome State Fault Refusal :=
  runV s f (binUse f.ty) tc2 (intFn f fun a b _ => a * b / (2 ^ f.ty.width : Nat))

/-- Quotient or remainder (04 R114). -/
def execIdiv (f : FmtV) (s : State) : Host.Outcome State Fault Refusal :=
  runV s f (binUse f.ty) (tcDiv (f.ty.width == 64)) (laneFn fun a b _ =>
    Alu.wrap f.ty.width (Alu.idiv f.ty (f.fn == 1) (Alu.value f.ty a) (Alu.value f.ty b)))

/-- −a (04 R112). -/
def execIneg (f : FmtV) (s : State) : Host.Outcome State Fault Refusal :=
  runV s f (unUse f.ty) tc0 (intFn f fun a _ _ => -a)

/-- |a| (04 R112). -/
def execIabs (f : FmtV) (s : State) : Host.Outcome State Fault Refusal :=
  runV s f (unUse f.ty) tc0 (intFn f fun a _ _ => if a < 0 then -a else a)

/-- min(a, b) (04 R112). -/
def execImin (f : FmtV) (s : State) : Host.Outcome State Fault Refusal :=
  runV s f (binUse f.ty) tc0 (intFn f fun a b _ => min a b)

/-- max(a, b) (04 R112). -/
def execImax (f : FmtV) (s : State) : Host.Outcome State Fault Refusal :=
  runV s f (binUse f.ty) tc0 (intFn f fun a b _ => max a b)

/-- a AND b (04 R112). -/
def execAnd (f : FmtV) (s : State) : Host.Outcome State Fault Refusal :=
  runV s f bin32 tc0 (laneFn fun a b _ => Nat.land a b)

/-- a OR b (04 R112). -/
def execOr (f : FmtV) (s : State) : Host.Outcome State Fault Refusal :=
  runV s f bin32 tc0 (laneFn fun a b _ => Nat.lor a b)

/-- a XOR b (04 R112). -/
def execXor (f : FmtV) (s : State) : Host.Outcome State Fault Refusal :=
  runV s f bin32 tc0 (laneFn fun a b _ => Nat.xor a b)

/-- a XOR 0xFFFF_FFFF (04 R112). -/
def execNot (f : FmtV) (s : State) : Host.Outcome State Fault Refusal :=
  runV s f un32 tc0 (laneFn fun a _ _ => Nat.xor a 0xFFFFFFFF)

/-- a × 2^b, 0 when b ≥ w (04 R112). -/
def execShl (f : FmtV) (s : State) : Host.Outcome State Fault Refusal :=
  runV s f (shiftUse f.ty) tc0 (laneFn fun a b _ => Alu.shl f.ty.width a (b % 2 ^ 32))

/-- floor(a / 2^b), 0 when b ≥ w (04 R112). -/
def execShr (f : FmtV) (s : State) : Host.Outcome State Fault Refusal :=
  runV s f (shiftUse f.ty) tc0 (laneFn fun a b _ => Alu.shr f.ty.width a (b % 2 ^ 32))

/-- floor(a / 2^min(b, w − 1)), signed (04 R112). -/
def execSar (f : FmtV) (s : State) : Host.Outcome State Fault Refusal :=
  runV s f (shiftUse f.ty) tc0 (laneFn fun a b _ => Alu.sar f.ty.width a (b % 2 ^ 32))

/-- a rotated left by b mod 32 (04 R112). -/
def execRot (f : FmtV) (s : State) : Host.Outcome State Fault Refusal :=
  runV s f bin32 tc0 (laneFn fun a b _ => Alu.rot a b)

/-- Field of a (04 R115). -/
def execBfe (f : FmtV) (s : State) : Host.Outcome State Fault Refusal :=
  runV s f bin32 tc0 (laneFn fun a b _ => Alu.bfe (f.ty == .i32) a b)

/-- b with a field replaced by a (04 R115). -/
def execBfi (f : FmtV) (s : State) : Host.Outcome State Fault Refusal :=
  runV s f tern32 tc0 (laneFn fun a b c => Alu.bfi a b c)

/-- Number of one bits of a (04 R112). -/
def execPopc (f : FmtV) (s : State) : Host.Outcome State Fault Refusal :=
  runV s f un32 tc0 (laneFn fun a _ _ => Alu.popc 32 a)

/-- Leading zeros of a (04 R112). -/
def execClz (f : FmtV) (s : State) : Host.Outcome State Fault Refusal :=
  runV s f un32 tc0 (laneFn fun a _ _ => Alu.clz 32 a)

/-- Trailing zeros of a (04 R112). -/
def execCtz (f : FmtV) (s : State) : Host.Outcome State Fault Refusal :=
  runV s f un32 tc0 (laneFn fun a _ _ => Alu.ctz 32 a)

/-- a with its bits reversed (04 R112). -/
def execBrev (f : FmtV) (s : State) : Host.Outcome State Fault Refusal :=
  runV s f un32 tc0 (laneFn fun a _ _ => Alu.brev 32 a)

/-- A comparison into a predicate (04 R116). -/
def execIcmp (f : FmtV) (s : State) : Host.Outcome State Fault Refusal :=
  runV s f (use .predDst f.ty.opk f.ty.opk .unused .inB) tc0 (laneFn fun a b _ =>
    if Alu.cmp f.fn.toNat (Alu.value f.ty a) (Alu.value f.ty b) then 1 else 0)

/-- Pred(C, i) = 1 ? a : b (04 R112). -/
def execSel (f : FmtV) (s : State) : Host.Outcome State Fault Refusal :=
  runV s f (use f.ty.opk f.ty.opk f.ty.opk .predSrc .inB) tc0 (laneFn fun a b c => if c = 1 then a else b)

/-- a, or the scalar in place of A (04 R112). -/
def execMov (f : FmtV) (s : State) : Host.Outcome State Fault Refusal :=
  runV s f (use f.ty.opk f.ty.opk .unused .unused .inA) tc0 (laneFn fun a _ _ => a % 2 ^ f.ty.width)

/-- a + sext32(b) × 2^FN (04 R112). -/
def execLea (f : FmtV) (s : State) : Host.Outcome State Fault Refusal :=
  runV s f (shiftUse f.ty) tc0 (laneFn fun a b _ =>
    Alu.wrap f.ty.width (Alu.value f.ty a + Alu.signed 32 b * (2 ^ f.fn.toNat : Nat)))

/-- Bit 2 × Pred(A, i) + Pred(B, i) of the truth table (04 R116). -/
def execPlog (f : FmtV) (s : State) : Host.Outcome State Fault Refusal :=
  runV s f (use .predDst .predSrc .predSrc .unused .noScalar) tc0 (laneFn fun a b _ =>
    if f.fn.getLsbD (2 * a + b) then 1 else 0)

/-- sext(IMM24) (04 R112). -/
def execMovi (f : FmtVI) (s : State) : Host.Outcome State Fault Refusal :=
  runV s (viAsV f) (use .r32 .unused .unused .unused .noScalar) tc0
    (laneFn fun _ _ _ => Alu.wrap 32 f.imm.toInt)

/-- IMM24[15:0] × 2^16 + (a mod 2^16) (04 R112). -/
def execMovh (f : FmtVI) (s : State) : Host.Outcome State Fault Refusal :=
  runV s (viAsV f) un32 tc0 (laneFn fun a _ _ => f.imm.toNat % 2 ^ 16 * 2 ^ 16 + a % 2 ^ 16)

end Sys2Proof.Machine
end

