-- ==== Sys2Proof/Machine/Lanes.lean ====
section
/-! DEFINITION. The lane-cross instructions (04 R117 to R120). -/

namespace Sys2Proof.Machine

open State Wf

/-- `shfl`: each active lane takes A from another lane, active or not (04 R118). -/
def execShfl (f : FmtV) (s : State) : Host.Outcome State Fault Refusal :=
  runV s f (shflUse f.ty) tc0 fun rd lanes =>
    { vals := lanes.map fun i => (i, (rd (shflFrom s f (shflUse f.ty) i)).1) }

/-- `match`: the mask of the active lanes whose A equals the lane's own (04 R119). -/
def execMatchV (f : FmtV) (s : State) : Host.Outcome State Fault Refusal :=
  runV s f (use .r64 f.ty.opk .unused .unused .noScalar) tc1 fun rd lanes =>
    { vals := lanes.map fun i => (i, (maskOf (lanes.filter fun j => (rd j).1 == (rd i).1)).toNat) }

/-- `vote` over the active lanes (04 R119). -/
def execVote (f : FmtV) (s : State) : Host.Outcome State Fault Refusal :=
  if f.fn = 3 then
    runV s f (use .r64 .predSrc .unused .unused .dest) tc0 fun rd lanes =>
      let m := (maskOf (lanes.filter fun i => (rd i).1 == 1)).toNat
      { vals := lanes.map fun i => (i, m), scalar := some m }
  else
    runV s f (use .predDst .predSrc .unused .unused .noScalar) tc0 fun rd lanes =>
      let any := lanes.any fun i => (rd i).1 == 1
      let all := lanes.all fun i => (rd i).1 == 1
      let r := match f.fn.toNat with | 0 => any | 1 => all | _ => all || !any
      { vals := lanes.map fun i => (i, if r then 1 else 0) }

/-- The combining operation of `scan` and `redux` on codes, with its flags (04 R120). -/
def crossOp (ty : Ty) (op a b : Nat) : Nat × BitVec 4 :=
  if ty.isLog then
    let t := Log.fmtOf ty
    let x := Log.decode t a
    let y := Log.decode t b
    match op with
    | 0 => let r := Log.gla t 0 x y; (Log.encode t r.1, r.2)
    | 1 => (Log.encode t (Log.minMax false false x y), 0)
    | _ => (Log.encode t (Log.minMax true false x y), 0)
  else
    let v := Alu.value ty
    match op with
    | 0 => (Alu.wrap ty.width (v a + v b), 0)
    | 1 => (Alu.wrap ty.width (min (v a) (v b)), 0)
    | 2 => (Alu.wrap ty.width (max (v a) (v b)), 0)
    | 3 => (Nat.land a b, 0)
    | 4 => (Nat.lor a b, 0)
    | _ => (Nat.xor a b, 0)

/-- The identity of an operation (04 R120). -/
def crossId (ty : Ty) (op : Nat) : Nat :=
  if ty.isLog then
    let t := Log.fmtOf ty
    match op with
    | 0 => Log.encode t (.zero false)
    | 1 => Log.encode t (.inf false)
    | _ => Log.encode t (.inf true)
  else
    match op with
    | 0 => 0
    | 1 => Alu.wrap ty.width (Alu.hi ty)
    | 2 => Alu.wrap ty.width (Alu.lo ty)
    | 3 => 2 ^ ty.width - 1
    | _ => 0

/-- What an inactive position of `redux` enters as: the identity, which never changes the result. For a log sum that is
the zero that leaves −0 as it is too (04 R120, 05 R131; log entry 25). -/
def crossFill (ty : Ty) (op : Nat) : Nat :=
  if ty.isLog && op == 0 then Log.encode (Log.fmtOf ty) (.zero true) else crossId ty op

/-- The codes of an operand below its type's width. -/
def crossIn (ty : Ty) (a : Nat) : Nat :=
  match ty with
  | .l16 => a % 2 ^ 16
  | _ => a % 2 ^ ty.width

/-- One pass of `scan` over the active lanes: results, running value, flags. -/
def scanLanes (ty : Ty) (op : Nat) (excl : Bool) (a : Nat → Nat) :
    List Nat → Option Nat → BitVec 4 → List (Nat × Nat) × BitVec 4
  | [], _, fl => ([], fl)
  | i :: r, none, fl =>
    let v := crossIn ty (a i)
    let q := scanLanes ty op excl a r (some v) fl
    ((i, if excl then crossId ty op else v) :: q.1, q.2)
  | i :: r, some p, fl =>
    let c := crossOp ty op p (crossIn ty (a i))
    let q := scanLanes ty op excl a r (some c.1) (fl ||| c.2)
    ((i, if excl then p else c.1) :: q.1, q.2)

/-- `scan` in home-lane order (04 R120). -/
def execScan (f : FmtV) (s : State) : Host.Outcome State Fault Refusal :=
  runV s f (unUse f.ty) (if f.ty.isLog then tc3 else tc1) fun rd lanes =>
    let r := scanLanes f.ty (f.fn.toNat % 8) (f.fn.getLsbD 3) (fun i => (rd i).1) lanes none 0
    { vals := r.1, fl := r.2 }

/-- One level of the tree of `redux`: adjacent values are joined. -/
def reduxLevel (ty : Ty) (op : Nat) : List Nat → List Nat × BitVec 4
  | a :: b :: r =>
    let c := crossOp ty op a b
    let q := reduxLevel ty op r
    (c.1 :: q.1, c.2 ||| q.2)
  | l => (l, 0)

/-- The tree of `redux` over positions 0 to GW − 1 (04 R120). -/
def reduxTree (ty : Ty) (op : Nat) : Nat → List Nat → BitVec 4 → Nat × BitVec 4
  | 0, l, fl => (l.headD 0, fl)
  | n + 1, l, fl =>
    let q := reduxLevel ty op l
    reduxTree ty op n q.1 (fl ||| q.2)

/-- Levels of the tree of GW positions. -/
def treeLevels (gw : Nat) : Nat := Nat.log2 gw

/-- `redux`: one value of all the active lanes, the identity when there is none (04 R120). -/
def execRedux (f : FmtV) (s : State) : Host.Outcome State Fault Refusal :=
  let gw := s.g.gw
  let op := f.fn.toNat % 8
  runV s f (use f.ty.opk f.ty.opk .unused .unused .dest) (if f.ty.isLog then tc3 else tc1) fun rd lanes =>
    let at_ (i : Nat) : Nat := if lanes.contains i then crossIn f.ty (rd i).1 else crossFill f.ty op
    let r := reduxTree f.ty op (treeLevels gw) ((List.range gw).map at_) 0
    { vals := lanes.map fun i => (i, r.1), fl := r.2
      scalar := some (if lanes.isEmpty then crossId f.ty op else r.1) }

/-- `bcast`: lane FN of A to every active lane, and to sS (04 R118). -/
def execBcast (f : FmtV) (s : State) : Host.Outcome State Fault Refusal :=
  runV s f (bcastUse f.ty) tc0 fun rd lanes =>
    let v := (rd f.fn.toNat).1
    { vals := lanes.map fun i => (i, v), scalar := some v }

end Sys2Proof.Machine
end

