-- ==== Sys2Proof/Machine/Log.lean ====
section
/-! DEFINITION. The log arithmetic instructions (06 R144 to R167). -/

namespace Sys2Proof.Machine

open Wf

/-- Mode of the final Pack: 2 under `.sat`, else 0 (06 R147). -/
def satMode (f : FmtV) : Nat := if f.fn = 1 then 2 else 0

/-- A log instruction lane by lane: decode the operands, encode the result, collect the flags (06 R147). -/
def logFn (ty : Ty) (op : LV → LV → LV → LV × Flags) :
    (Nat → Nat × Nat × Nat) → List Nat → VOut :=
  let t := Log.fmtOf ty
  laneOp fun a b c =>
    let r := op (Log.decode t a) (Log.decode t b) (Log.decode t c)
    (Log.encode t r.1, r.2)

/-- `lmul`: sa XOR sb and La + Lb (06 R150). -/
def execLmul (f : FmtV) (s : State) : Host.Outcome State Fault Refusal :=
  runV s f bin32 tc0 (logFn f.ty fun a b _ => Log.mul (Log.fmtOf f.ty) (satMode f) a b)

/-- `ldiv` (06 R150). -/
def execLdiv (f : FmtV) (s : State) : Host.Outcome State Fault Refusal :=
  runV s f bin32 tc0 (logFn f.ty fun a b _ => Log.div (Log.fmtOf f.ty) (satMode f) a b)

/-- `lrcp` (06 R151). -/
def execLrcp (f : FmtV) (s : State) : Host.Outcome State Fault Refusal :=
  runV s f un32 tc0 (logFn f.ty fun a _ _ => Log.rcp (Log.fmtOf f.ty) (satMode f) a)

/-- `lsqr` (06 R151). -/
def execLsqr (f : FmtV) (s : State) : Host.Outcome State Fault Refusal :=
  runV s f un32 tc0 (logFn f.ty fun a _ _ => Log.sqr (Log.fmtOf f.ty) (satMode f) a)

/-- `lsqrt` (06 R151). -/
def execLsqrt (f : FmtV) (s : State) : Host.Outcome State Fault Refusal :=
  runV s f un32 tc0 (logFn f.ty fun a _ _ => Log.sqrt a)

/-- `lpow`: a to the power sext(IMM24) (06 R152). -/
def execLpow (f : FmtVI) (s : State) : Host.Outcome State Fault Refusal :=
  runV s (viAsV f) un32 tc0
    (logFn f.ty fun a _ _ => Log.pow (Log.fmtOf f.ty) (satMode (viAsV f)) f.imm.toInt a)

/-- `lscl`: a × 2^k, k the signed 32-bit operand b (06 R153). -/
def execLscl (f : FmtV) (s : State) : Host.Outcome State Fault Refusal :=
  let t := Log.fmtOf f.ty
  runV s f bin32 tc0 (laneOp fun a b _ =>
    let r := Log.scl t (satMode f) (Alu.signed 32 b) (Log.decode t a)
    (Log.encode t r.1, r.2))

/-- `lneg` (06 R151). -/
def execLneg (f : FmtV) (s : State) : Host.Outcome State Fault Refusal :=
  runV s f un32 tc0 (logFn f.ty fun a _ _ => (Log.withSign (!Log.sign a) a, 0))

/-- `labs` (06 R151). -/
def execLabs (f : FmtV) (s : State) : Host.Outcome State Fault Refusal :=
  runV s f un32 tc0 (logFn f.ty fun a _ _ => (Log.withSign false a, 0))

/-- `ladd`: a ⊕ b (06 R154). -/
def execLadd (f : FmtV) (s : State) : Host.Outcome State Fault Refusal :=
  runV s f bin32 tc3 (logFn f.ty fun a b _ => Log.add (Log.fmtOf f.ty) (satMode f) a b)

/-- `lsub`: a ⊕ b with the sign of b inverted (06 R154). -/
def execLsub (f : FmtV) (s : State) : Host.Outcome State Fault Refusal :=
  runV s f bin32 tc3 (logFn f.ty fun a b _ =>
    Log.add (Log.fmtOf f.ty) (satMode f) a (Log.withSign (!Log.sign b) b))

/-- `lmad`: (a × b) ⊕ c, rounded once (06 R155). -/
def execLmad (f : FmtV) (s : State) : Host.Outcome State Fault Refusal :=
  runV s f tern32 tc3 (logFn f.ty fun a b c => Log.mad (Log.fmtOf f.ty) (satMode f) a b c)

/-- `lmin`, with `.mag` on magnitudes (06 R156). -/
def execLmin (f : FmtV) (s : State) : Host.Outcome State Fault Refusal :=
  runV s f bin32 tc0 (logFn f.ty fun a b _ => (Log.minMax false (f.fn == 1) a b, 0))

/-- `lmax`, with `.mag` on magnitudes (06 R156). -/
def execLmax (f : FmtV) (s : State) : Host.Outcome State Fault Refusal :=
  runV s f bin32 tc0 (logFn f.ty fun a b _ => (Log.minMax true (f.fn == 1) a b, 0))

/-- `lcmp` into a predicate (06 R157). -/
def execLcmp (f : FmtV) (s : State) : Host.Outcome State Fault Refusal :=
  let t := Log.fmtOf f.ty
  runV s f (use .predDst .r32 .r32 .unused .inB) tc0 (laneFn fun a b _ =>
    if Log.cmp f.fn.toNat (Log.decode t a) (Log.decode t b) then 1 else 0)

/-- `lcls`: the class number of a (06 R158). -/
def execLcls (f : FmtV) (s : State) : Host.Outcome State Fault Refusal :=
  runV s f un32 tc0 (laneFn fun a _ _ => Log.cls (Log.fmtOf f.ty) a)

/-- `lcvt` between log formats (06 R159). -/
def execLcvt (f : FmtV) (s : State) : Host.Outcome State Fault Refusal :=
  let src := Log.srcFmt (f.fn.toNat % 4)
  let t := Log.fmtOf f.ty
  runV s f un32 tc1 (laneOp fun a _ _ =>
    let r := Log.convert src t (f.fn.getLsbD 2) (if f.fn.getLsbD 3 then 2 else 0) (Log.decode src a)
    (Log.encode t r.1, r.2))

/-- The integer type of the two-bit selector of `lfi` and `lti` (06 R144). -/
def intSel (n : Nat) : Ty :=
  match n with
  | 0 => .i32 | 1 => .n32 | 2 => .i64 | _ => .n64

/-- `lfi` from an integer (06 R160). -/
def execLfi (f : FmtV) (s : State) : Host.Outcome State Fault Refusal :=
  let src := intSel (f.fn.toNat % 4)
  let t := Log.fmtOf f.ty
  runV s f (use .r32 src.opk .unused .unused .noScalar) tc1 (laneOp fun a _ _ =>
    let r := Log.ofInt t (if f.fn.getLsbD 2 then 2 else 0) (Alu.value src a) 0
    (Log.encode t r.1, r.2))

/-- `lti` to an integer (06 R161). -/
def execLti (f : FmtV) (s : State) : Host.Outcome State Fault Refusal :=
  let dst := intSel (f.fn.toNat % 4)
  let t := Log.fmtOf f.ty
  runV s f (use dst.opk .r32 .unused .unused .noScalar) tc1 (laneOp fun a _ _ =>
    let r := Log.toInt t 0 (f.fn.getLsbD 2) (Alu.lo dst) (Alu.hi dst) (Log.decode t a)
    (Alu.wrap dst.width r.1, r.2))

/-- `lxf` from fixed point (06 R162). -/
def execLxf (f : FmtV) (s : State) : Host.Outcome State Fault Refusal :=
  let t := Log.fmtOf f.ty
  runV s f un32 tc1 (laneOp fun a _ _ =>
    let r := Log.ofInt t (if f.fn.getLsbD 5 then 2 else 0) (Alu.signed 32 a) (f.fn.toNat % 32)
    (Log.encode t r.1, r.2))

/-- `lfx` to fixed point (06 R162). -/
def execLfx (f : FmtV) (s : State) : Host.Outcome State Fault Refusal :=
  let t := Log.fmtOf f.ty
  runV s f un32 tc1 (laneOp fun a _ _ =>
    let r := Log.toInt t (f.fn.toNat % 32) (f.fn.getLsbD 5) (Alu.lo .i32) (Alu.hi .i32) (Log.decode t a)
    (Alu.wrap 32 r.1, r.2))

/-- `lexp2` (06 R163). -/
def execLexp2 (f : FmtV) (s : State) : Host.Outcome State Fault Refusal :=
  runV s f un32 tc2 (logFn f.ty fun a _ _ => Log.exp2 (Log.fmtOf f.ty) (satMode f) a)

/-- `llg2` (06 R164). -/
def execLlg2 (f : FmtV) (s : State) : Host.Outcome State Fault Refusal :=
  runV s f un32 tc2 (logFn f.ty fun a _ _ => Log.lg2v (Log.fmtOf f.ty) a)

/-- `lpk`: pack narrow codes (06 R165). -/
def execLpk (f : FmtV) (s : State) : Host.Outcome State Fault Refusal :=
  runV s f (if f.ty == .l8 then tern32 else bin32) tc0
    (laneFn fun a b c => Log.lpk f.ty (f.fn == 1) a b c)

/-- `lupk`: one narrow code of a register (06 R166). -/
def execLupk (f : FmtV) (s : State) : Host.Outcome State Fault Refusal :=
  runV s f un32 tc0 (laneFn fun a _ _ => Log.lupk f.ty f.fn.toNat a)

end Sys2Proof.Machine
end

