-- ==== Sys2Proof/Machine/Memory.lean ====
section
/-! DEFINITION. The memory instructions (08 R212 to R220, 11 R293 to R298). -/

namespace Sys2Proof.Machine

open State

/-- Registers a size names (02 R44). -/
def sizeRun (sz : Nat) : Nat := if sz < 2 then 1 else 2 ^ (sz - 2)

/-- A lane's offset (08 R196). -/
def laneOffset (s : State) (g : Nat) (f : FmtM) (i : Nat) : Int :=
  (((readV s g [] f.a.toNat i).toNat * 2 ^ f.sc.toNat : Nat) : Int) + f.imm.toInt

/-- The register-side data of a lane: the low n bytes of the run from D; `vz` is zero (08 R212). -/
def storeData (s : State) (g : Nat) (f : FmtM) (n i : Nat) : Nat :=
  if f.d = 240 then 0
  else (List.range (sizeRun f.sz.toNat)).foldl
    (fun a k => a + (readV s g [] (f.d.toNat + k) i).toNat * 2 ^ (32 * k)) 0 % 2 ^ (8 * n)

/-- The register words of a lane's loaded data (08 R214). -/
def loadWords (f : FmtM) (i v : Nat) : List VRes :=
  if 224 ≤ f.d.toNat then []
  else (List.range (sizeRun f.sz.toNat)).map fun k =>
    ⟨f.d.toNat + k, i, BitVec.ofNat 32 (v / 2 ^ (32 * k))⟩

/-- The registers of a run as a list. -/
def runRegs (f : FmtM) : List Nat := (List.range (sizeRun f.sz.toNat)).map fun k => f.d.toNat + k

/-- What the ten memory instructions ask of the frame: `load` reads into registers, `store` writes from
them. -/
def memReq (s : State) (f : FmtM) (load store : Bool) : AReq :=
  let fe := f.fe.toNat
  let n := 2 ^ f.sz.toNat
  let d := f.d.toNat
  let run := if load || store then [(d, sizeRun f.sz.toNat)] else []
  { ps := f.ps, pn := f.pn, t := f.t.toNat, as := f.as.toNat, ss := f.ss.toNat,
    off := laneOffset s s.cur f, bytes := n, align := n,
    use := { write := store, state := 2 ≤ fe, needWr := store || 2 ≤ fe, wait := fe == 1 },
    reads := load, writes := store, fe := fe, xcomm := fe != 0,
    release := fe == 3, acquire := fe == 1 || fe == 2,
    runs := run ++ [(f.a.toNat, 1)],
    srcs := f.a.toNat :: (if store then runRegs f else []),
    kind := if load then .load else .store,
    dest := if load then (runRegs f).filter (· ≤ 223) else [],
    k := f.k, win := load && d ≤ 191 }

/-- A lane that was performed, with its register results. -/
def laneDone (o : AOut) (s : State) (vs : List VRes) (fl : BitVec 4) : AOut :=
  { o with s := s, vregs := o.vregs ++ vs, fl := o.fl ||| fl, done := o.done + 1 }

/-- A lane whose words were in the wrong state. -/
def laneWrong (o : AOut) (s : State) (i : Nat) (pl : Place) : AOut :=
  { o with s := s, wrong := o.wrong ++ [(i, pl)] }

/-- One lane of `ld`. -/
def ldLane (g : Nat) (f : FmtM) (o : AOut) (i : Nat) (pl : Place) : AOut :=
  let r := loadLane o.s g f.fe.toNat f.as.toNat (2 ^ f.sz.toNat) 0 pl
  match r.2 with
  | some v => laneDone o r.1 (loadWords f i v) 0
  | none => laneWrong o r.1 i pl

/-- `ld`: plain, `.wait` and `.take` (08 R214). -/
def execLd (f : FmtM) (s : State) : Host.Outcome State Fault Refusal :=
  runAccess s (memReq s f true false) none (ldLane s.cur f)

/-- One lane of `st`; its data are those of the state `s` before any lane. -/
def stLane (s : State) (f : FmtM) (o : AOut) (i : Nat) (pl : Place) : AOut :=
  let n := 2 ^ f.sz.toNat
  let r := storeLane o.s s.cur f.fe.toNat f.as.toNat n (storeData s s.cur f n i) 0 pl
  if r.2 then laneDone o r.1 [] 0 else laneWrong o r.1 i pl

/-- `st`: plain, `.wait` and `.fill` (08 R214). -/
def execSt (f : FmtM) (s : State) : Host.Outcome State Fault Refusal :=
  runAccess s (memReq s f false true) none (stLane s f)

/-! ### The conversion stage -/

/-- How a lane of `ldc` or `stc` meets memory (11 R297). -/
structure ConvForm where
  /-- The pairing of register-side format, encoding and size is accepted. -/
  ok : Bool
  /-- Elements a lane, bytes of a memory element, register-side encoding and bytes. -/
  count : Nat
  e : Nat
  renc : Nat
  per : Nat
  /-- First byte and number of bytes of the span above the lane address, alignment. -/
  skip : Nat
  span : Nat
  align : Nat

/-- The table of R297. -/
def convForm (x : Cv.Rec) (load : Bool) (n : Nat) : ConvForm :=
  let e := Cv.elemSize x.menc n
  let bs := Cv.blockSize x.menc
  let elems (renc per : Nat) (ok : Bool) : ConvForm :=
    { ok := ok, count := n / per, e := e, renc := renc, per := per, skip := 0, span := n / per * e, align := e }
  match x.rfmt with
  | 0 =>
    { ok := true, count := 0, e := e, renc := 0, per := 1, skip := 0, span := n,
      align := if Cv.elementwise x.menc then e else n }
  | 1 => elems 1 1 (Cv.elementwise x.menc)
  | 2 => elems 2 2 (Cv.elementwise x.menc)
  | 3 => elems 3 4 (Cv.elementwise x.menc)
  | 4 =>
    { ok := Cv.isBlock x.menc && (load || x.menc ≤ 5) && n == (if Cv.isBl8 x.menc then 32 else 16),
      count := 32, e := 4, renc := 0, per := 1, skip := 4, span := bs - 4, align := 4 }
  | 5 =>
    { ok := Cv.isBlock x.menc && (load || x.menc ≤ 5) && n == 4,
      count := 1, e := 4, renc := 0, per := 1, skip := 0, span := 4, align := 4 }
  | 6 => elems 16 4 (x.menc == 15 || x.menc == 16)
  | _ => { ok := false, count := 0, e := e, renc := 0, per := 1, skip := 0, span := n, align := 1 }

/-- The record of an `ldc` or `stc`, when its index is within the table and it is legal (11 R295, R296). -/
def recordAt (s : State) (f : FmtM) : Option Cv.Rec :=
  match (s.launchOf s.cur).records[f.br.toNat]? with
  | some r => if Cv.recLegal r then some (Cv.recOf r) else none
  | none => none

/-- Does a register-side format convert values (11 R297, R298)? -/
def converts (x : Cv.Rec) : Bool := x.rfmt == 1 || x.rfmt == 2 || x.rfmt == 3 || x.rfmt == 6

/-- Address of the scale word of a lane (11 R298). -/
def scaleAddr (x : Cv.Rec) (a : Nat) : Nat :=
  if x.scm = 2 then x.scaddr + 4 * (Cv.rowOf x a).1 else x.scaddr

/-- The request of `ldc` and `stc`: the checks of R217 and R297 over the plain request. -/
def convReq (s : State) (f : FmtM) (load : Bool) : AReq :=
  let q := memReq s f load (!load)
  match recordAt s f with
  | none => { q with early := some 0x06 }
  | some x =>
    let c := convForm x load (2 ^ f.sz.toNat)
    let words (i : Nat) : Option Nat :=
      if x.scm != 0 && converts x then some (scaleAddr x (laneAddr s.g q i)) else none
    { q with
      early := if !c.ok then some 0x06 else if f.fe != 0 && c.span % 4 != 0 then some 0x05 else none
      spans := true, skip := c.skip, bytes := c.span
      align := if f.fe = 0 then c.align else max c.align 4
      allow := Cv.inRecord x c.e (c.skip + c.span)
      words := words }

/-- The scale of a lane, as `Cv.step` takes it (11 R298). -/
def laneScale (x : Cv.Rec) (q : AReq) (grp : Group) (div : Bool) (tab : Tab Nat) (i : Nat) : Option (Bool × LV) :=
  if x.scm != 0 && converts x then
    some (div, Log.decode .l32 (tget tab 0 (scaleAddr x (laneAddr grp q i))))
  else none

/-- Convert the elements of a lane from one side to the other; s and d are the bytes of an element on each
side (11 R280, R297). -/
def convElems (src dst sb db : Nat) (mode : Nat) (rto : Bool) (sc : Option (Bool × LV)) (v : Nat) : Nat → Nat × Flags
  | 0 => (0, 0)
  | k + 1 =>
    let r := convElems src dst sb db mode rto sc v k
    let c := Cv.step src dst mode rto sc (v / 2 ^ (8 * sb * k) % 2 ^ (8 * sb))
    (r.1 + c.1 * 2 ^ (8 * db * k), r.2 ||| c.2)

/-- The 32 element codes of a block in the layout of R169 (11 R297). -/
def blockCodes (enc b : Nat) : Nat :=
  (List.range 32).foldl (fun a e => a + Cv.blockCode enc b e * 2 ^ ((if Cv.isBl8 enc then 8 else 4) * e)) 0

/-- The record an `ldc` or `stc` uses. -/
def recFor (s : State) (f : FmtM) : Cv.Rec := (recordAt s f).getD (Cv.recOf [])

/-- What `ldc` makes of the bytes v of a lane: register contents and flags, or none when they are a malformed block
(11 R297, R298). -/
def ldcValue (s : State) (f : FmtM) (tab : Tab Nat) (i v : Nat) : Option (Nat × Flags) :=
  let x := recFor s f
  let c := convForm x true (2 ^ f.sz.toNat)
  if x.rfmt = 4 then
    if Cv.malformed x.menc (v * 2 ^ 32) then none else some (blockCodes x.menc (v * 2 ^ 32), 0)
  else if converts x then
    some (convElems x.menc c.renc c.e c.per x.sat (x.rnd == 1) (laneScale x (convReq s f true) s.g false tab i) v c.count)
  else some (v, 0)

/-- One lane of `ldc`. -/
def ldcLane (s : State) (f : FmtM) (o : AOut) (i : Nat) (pl : Place) : AOut :=
  let x := recFor s f
  let r := loadLane o.s s.cur f.fe.toNat f.as.toNat (convForm x true (2 ^ f.sz.toNat)).span x.cpol pl
  match r.2 with
  | none => laneWrong o r.1 i pl
  | some v => match ldcValue s f o.tab i v with
    | some w => laneDone o r.1 (loadWords f i w.1) w.2
    | none => { o with fmt := o.fmt ++ [i] }

/-- `ldc`: a load through the conversion stage (08 R217, 11 R297, R298). -/
def execLdc (f : FmtM) (s : State) : Host.Outcome State Fault Refusal :=
  runAccess s (convReq s f true) none (ldcLane s f)

/-- What `stc` makes of the register contents v of a lane: memory bytes and flags (11 R297, R298). -/
def stcValue (s : State) (f : FmtM) (tab : Tab Nat) (i v : Nat) : Nat × Flags :=
  let x := recFor s f
  let c := convForm x false (2 ^ f.sz.toNat)
  if converts x then
    convElems c.renc x.menc c.per c.e x.sat (x.rnd == 1) (laneScale x (convReq s f false) s.g true tab i) v c.count
  else (v, 0)

/-- One lane of `stc`. -/
def stcLane (s : State) (f : FmtM) (o : AOut) (i : Nat) (pl : Place) : AOut :=
  let n := 2 ^ f.sz.toNat
  let x := recFor s f
  let w := stcValue s f o.tab i (storeData s s.cur f n i)
  let r := storeLane o.s s.cur f.fe.toNat f.as.toNat (convForm x false n).span w.1 x.cpol pl
  if r.2 then laneDone o r.1 [] w.2 else laneWrong o r.1 i pl

/-- `stc`: a store through the conversion stage (08 R217, 11 R297, R298). -/
def execStc (f : FmtM) (s : State) : Host.Outcome State Fault Refusal :=
  runAccess s (convReq s f false) none (stcLane s f)

/-! ### States without data -/

/-- One lane of `fest` (08 R215). -/
def festLane (s : State) (g as n : Nat) (full : Bool) (pl : Place) : State :=
  match pl with
  | .store _ => placeSet s (s.teamOf g) (g / 32) pl n full
  | pl =>
    let ps := placePieces pl n
    match ps.find? fun p => p.2.pr with
    | some p => s.send (.feMsg p.2.peer (g / 32) (g % 32) p.2.pa (.setState full n))
    | none =>
      -- the states stand in the line's tag entry, where a release leaves its tag (08 R194, 10 R260)
      let s := eachDo ps s fun s p =>
        let s := (l2Get (l1Purge s (g / 32) p.2.pa) (s.ctxOf g) (p.2.pa / 256) 0 0).1
        tagWrite (rawLine s (p.2.pa / 256)) g as (p.2.pa / 256) full true
      placeSet s (s.teamOf g) (g / 32) pl n full

/-- What `fest` asks of the frame. -/
def festReq (s : State) (f : FmtM) (full : Bool) : AReq :=
  { memReq s f false false with
    use := { write := true, state := true, needWr := true }, writes := true, release := full, acquire := false,
    ecc := false }

/-- `fest`: set the states of each lane's words without waiting (08 R215). -/
def festOp (s : State) (f : FmtM) (full : Bool) : Host.Outcome State Fault Refusal :=
  runAccess s (festReq s f full) none fun o _ pl =>
    laneDone o (festLane o.s s.cur f.as.toNat (2 ^ f.sz.toNat) full pl) [] 0

/-- `fest.full`: a release (08 R215). -/
def execFestFull (f : FmtM) (s : State) : Host.Outcome State Fault Refusal := festOp s f true

/-- `fest.empty` (08 R215). -/
def execFestEmpty (f : FmtM) (s : State) : Host.Outcome State Fault Refusal := festOp s f false

/-- Is every word of a lane's access full (08 R216)? -/
def feqLane (s : State) (g as n : Nat) (pl : Place) : State × Bool :=
  match pl with
  | .store _ => (s, placeIs s (s.teamOf g) (g / 32) pl n true)
  | pl =>
    let ps := placePieces pl n
    match ps.find? fun p => p.2.pr && p.2.fek with
    | some p =>
      let r := freshBytes (s.send (.feMsg p.2.peer (g / 32) (g % 32) p.2.pa (.query n))) 8
      (r.1, r.2 % 2 == 1)
    | none =>
      let s := rawPieces (eachDo ps s fun s p => homeAccess s g as p.2) ps
      (s, placeIs s (s.teamOf g) (g / 32) pl n true)

/-- What `feq` asks of the frame. -/
def feqReq (s : State) (f : FmtM) : AReq :=
  { memReq s f false false with reads := true, xcomm := true, kind := .load, ecc := true, fe := 0 }

/-- One lane of `feq` into a predicate. -/
def feqPut (g : Nat) (f : FmtM) (o : AOut) (i : Nat) (pl : Place) : AOut :=
  let r := feqLane o.s g f.as.toNat (2 ^ f.sz.toNat) pl
  { laneDone o r.1 [] 0 with
    pmask := o.pmask ||| laneBit i, pval := if r.2 then o.pval ||| laneBit i else o.pval }

/-- `feq`: the states of each lane's words into pN (08 R216). -/
def execFeq (f : FmtM) (s : State) : Host.Outcome State Fault Refusal :=
  runAccess s (feqReq s f) (some (f.d.toNat % 8)) (feqPut s.cur f)

/-! ### Lines -/

/-- The request of the line instructions: no alignment, no size. -/
def lineReq (s : State) (f : FmtM) (write : Bool) : AReq :=
  { memReq s f false false with
    bytes := 1, align := 1, use := { write := write, state := false, needWr := write } }

/-- Bring a line in (08 R218). -/
def prefetchLine (s : State) (g as : Nat) (p : Phys) : State :=
  if p.pr || p.hb then s
  else if as = 1 then
    let a := l1Load s (g / 32) (s.ctxOf g) (p.pa / 64 * 64) 32 0
    (l1Load a.1 (g / 32) (s.ctxOf g) (p.pa / 64 * 64 + 32) 32 0).1
  else (l2Get s (s.ctxOf g) (p.pa / 256) 0xFF 0).1

/-- The lanes `pf` can address: none when its offset register lies beyond the launch's count, which would be PROT
(02 R51, 08 R218). -/
def pfLanes (s : State) (f : FmtM) : List Nat :=
  if (firstLimit s.g [(f.a.toNat, 1)]).isSome then [] else lanesOf (activeMask s.g f.ps f.pn) s.g.gw

/-- `pf`: no trap, no park; lanes that cannot be reached are dropped (08 R218). -/
def execPf (f : FmtM) (s : State) : Host.Outcome State Fault Refusal :=
  let g := s.cur
  let r := resolveLanes s g (lineReq s f false) (pfLanes s f)
  let s := eachDo r.2 r.1 fun s l => match l.2 with
    | .ok _ (.mem p) => prefetchLine s g f.as.toNat p
    | .ok _ _ => s | .misalign _ => s | .prot _ => s | .malformed _ => s | .absent _ => s
  done (finishVar (retireNow s g) g 1 2 1)

/-- Discard a line: its data at every level above HBM is dropped, its full/empty bits stay (09 R228). -/
def discardLine (s : State) (line : Nat) : State :=
  let s := promoteFrom s none line
  let keep (k : Core) : Core := { k with l1 := k.l1.filter fun x => x.line / 4 != line }
  let s := { s with cores := s.cores.map fun c => (c.1, keep c.2), l2 := s.l2.filter fun l => l.line != line }
  if s.monitors.isEmpty then s
  else eachDo (List.range 64) s fun s j =>
    let w := line * 256 + 4 * j
    checkMonitors s (.mem w) (peek s w 4)

/-- One lane of a line instruction: `op` acts on the physical address of a lane in device memory. -/
def lineLane (op : State → Nat → State) (o : AOut) (_ : Nat) (pl : Place) : AOut :=
  match pl with
  | .mem p => laneDone o (if p.pr || p.hb then o.s else op o.s p.pa) [] 0
  | .store _ => laneDone o o.s [] 0
  | .span _ => laneDone o o.s [] 0

/-- `dsc` (08 R219). -/
def execDsc (f : FmtM) (s : State) : Host.Outcome State Fault Refusal :=
  runAccess s (lineReq s f true) none (lineLane fun s pa => discardLine s (pa / 256))

/-- Write back a line: the core's L1 copies of it, and the L2's with AS = 3 (08 R220). -/
def writeBackLine (s : State) (c as line : Nat) : State :=
  let s := eachDo ((s.core c).l1.filter fun x => x.line / 4 == line) s l1Flush
  let clean (k : Core) : Core :=
    { k with l1 := k.l1.map fun x => if x.line / 4 = line then { x with dirty := 0 } else x }
  let s := s.modCore c clean
  if as = 3 then
    match s.l2.find? (·.line == line) with
    | some l => l2Put (writeBack s l) { l with dirty := 0 }
    | none => s
  else s

/-- `wbk` (08 R220). -/
def execWbk (f : FmtM) (s : State) : Host.Outcome State Fault Refusal :=
  runAccess s { lineReq s f false with drop := true } none
    (lineLane fun t pa => writeBackLine t s.curCore f.as.toNat (pa / 256))

/-- `linv` (08 R220). -/
def execLinv (f : FmtM) (s : State) : Host.Outcome State Fault Refusal :=
  runAccess s { lineReq s f false with drop := true, now := true } none (lineLane fun t pa => l1Purge t s.curCore pa)

end Sys2Proof.Machine
end

