-- ==== Sys2Proof/Machine/Scalar.lean ====
section
/-! DEFINITION. The scalar instructions (04 R108 to R111). -/

namespace Sys2Proof.Machine

open State

/-- Operand B of format S: the sign-extended immediate or a scalar (02 R43). -/
def scalarB (s : State) (f : FmtS) : DWord :=
  if f.i then f.imm.signExtend 64 else readS s s.cur f.sb.toNat

/-- Write SD and go on; TC0, latency 1 (04 R108). -/
def scalarRes (s : State) (f : FmtS) (v : DWord) : Host.Outcome State Fault Refusal :=
  let g := s.cur
  .next (finish (writeS s g f.sd.toNat v) g 1 0 1 1 1 0 [.s f.sd.toNat])

/-- An arithmetic scalar instruction: SD := op a b (04 R108). -/
def scalarOp (s : State) (f : FmtS) (op : DWord → DWord → DWord) : Host.Outcome State Fault Refusal :=
  scalarRes s f (op (readS s s.cur f.sa.toNat) (scalarB s f))

/-- a + b (04 R108). -/
def execSadd (f : FmtS) (s : State) : Host.Outcome State Fault Refusal := scalarOp s f (· + ·)

/-- a − b (04 R108). -/
def execSsub (f : FmtS) (s : State) : Host.Outcome State Fault Refusal := scalarOp s f (· - ·)

/-- Low 64 bits of a × b (04 R108). -/
def execSmul (f : FmtS) (s : State) : Host.Outcome State Fault Refusal := scalarOp s f (· * ·)

/-- a AND b (04 R108). -/
def execSand (f : FmtS) (s : State) : Host.Outcome State Fault Refusal := scalarOp s f (· &&& ·)

/-- a OR b (04 R108). -/
def execSor (f : FmtS) (s : State) : Host.Outcome State Fault Refusal := scalarOp s f (· ||| ·)

/-- a XOR b (04 R108). -/
def execSxor (f : FmtS) (s : State) : Host.Outcome State Fault Refusal := scalarOp s f (· ^^^ ·)

/-- a << b, 0 when b ≥ 64 (04 R108). -/
def execSshl (f : FmtS) (s : State) : Host.Outcome State Fault Refusal := scalarOp s f Alu.sshl

/-- Logical a >> b, 0 when b ≥ 64 (04 R108). -/
def execSshr (f : FmtS) (s : State) : Host.Outcome State Fault Refusal := scalarOp s f Alu.sshr

/-- `scmp`: all bits of pN below GW alike (04 R109). -/
def execScmp (f : FmtS) (s : State) : Host.Outcome State Fault Refusal :=
  let g := s.cur
  let n := f.sd.toNat % 8
  let v := Alu.scmp (f.sd.toNat / 8) (readS s g f.sa.toNat) (scalarB s f)
  .next (finish (writePU s g n v) g 1 0 1 1 1 0 [.p n])

/-- `smov`: a (04 R108). -/
def execSmov (f : FmtS) (s : State) : Host.Outcome State Fault Refusal := scalarOp s f fun a _ => a

/-- `smovi`: (a << 30) + b (04 R108). -/
def execSmovi (f : FmtS) (s : State) : Host.Outcome State Fault Refusal := scalarOp s f fun a b => (a <<< 30) + b

/-- The store-local address of `sld` and `sst` (04 R111). -/
def scalarAddr (s : State) (f : FmtS) : Nat := (readS s s.cur f.sa.toNat + f.imm.signExtend 64).toNat

/-- The checks of `sld` and `sst`: MISALIGN, then PROT (04 R111). -/
def scalarCheck (s : State) (e : Nat) : Option Nat :=
  if e % 8 ≠ 0 then some 0x05
  else if (tget s.g.tregs {} 0).limit < e + 8 then some 0x06 else none

/-- `sld`: a store-local load of 8 bytes (04 R111). -/
def execSld (f : FmtS) (s : State) : Host.Outcome State Fault Refusal :=
  let g := s.cur
  let t := s.teamOf g
  let e := scalarAddr s f
  match scalarCheck s e with
  | some code => done (trap s g code e s.g.em)
  | none =>
    if storeBad s (storeCore t (g / 32) e) (t.frame + e) 8 then done (trap s g 0x0E e s.g.em)
    else
      let v := BitVec.ofNat 64 (winRead s t (g / 32) e 8)
      .next (finish (writeS s g f.sd.toNat v) g 1 0 1 1 3 0 [.s f.sd.toNat])

/-- `sst`: a store-local store of 8 bytes (04 R111, 12 R327). -/
def execSst (f : FmtS) (s : State) : Host.Outcome State Fault Refusal :=
  let g := s.cur
  let t := s.teamOf g
  let e := scalarAddr s f
  match scalarCheck s e with
  | some code => done (trap s g code e s.g.em)
  | none =>
    if clobbers t e 8 then done (trap s g 0x09 e s.g.em)
    else
      let s := winWrite s t (g / 32) e 8 (readS s g f.sb.toNat).toNat
      .next (finish s g 1 0 1 1 3 0 [])

/-- `sbfe`: bit-field extract (04 R110). -/
def execSbfe (f : FmtS) (s : State) : Host.Outcome State Fault Refusal := scalarOp s f Alu.sbfe

/-- `ssel`: SD ≠ 0 ? a : b (04 R108). -/
def execSsel (f : FmtS) (s : State) : Host.Outcome State Fault Refusal :=
  let c := readS s s.cur f.sd.toNat
  scalarOp s f fun a b => if c ≠ 0 then a else b

/-- `slea`: a + (SB << IMM30[2:0]) (04 R108). -/
def execSlea (f : FmtS) (s : State) : Host.Outcome State Fault Refusal :=
  scalarOp s f fun a b => a + (b <<< (f.imm.toNat % 8))

end Sys2Proof.Machine
end

