-- ==== Sys2Proof/Machine/Dispatch.lean ====
section
/-! DEFINITION. One arm for each operation: its meaning, or a refusal by name. -/

namespace Sys2Proof.Machine

def exec (i : Instr) (s : State) : Host.Outcome State Fault Refusal :=
  match i with
  | .nop f => Sys2Proof.Machine.execNop f s
  | .bra f => Sys2Proof.Machine.execBra f s
  | .brx f => Sys2Proof.Machine.execBrx f s
  | .brxRegroup f => Sys2Proof.Machine.execBrxRegroup f s
  | .join f => Sys2Proof.Machine.execJoin f s
  | .call f => Sys2Proof.Machine.execCall f s
  | .ret f => Sys2Proof.Machine.execRet f s
  | .jmpi f => Sys2Proof.Machine.execJmpi f s
  | .loop f => Sys2Proof.Machine.execLoop f s
  | .exit f => Sys2Proof.Machine.execExit f s
  | .groupExit core slot => Sys2Proof.Machine.execGroupExit core slot s
  | .yield f => Sys2Proof.Machine.execYield f s
  | .emovGet f => Sys2Proof.Machine.execEmovGet f s
  | .emovSet f => Sys2Proof.Machine.execEmovSet f s
  | .emovPred f => Sys2Proof.Machine.execEmovPred f s
  | .emovLive f => Sys2Proof.Machine.execEmovLive f s
  | .trap f => Sys2Proof.Machine.execTrap f s
  | .brk f => Sys2Proof.Machine.execBrk f s
  | .tret f => Sys2Proof.Machine.execTret f s
  | .mpt f => Sys2Proof.Machine.execMpt f s
  | .sadd f => Sys2Proof.Machine.execSadd f s
  | .ssub f => Sys2Proof.Machine.execSsub f s
  | .smul f => Sys2Proof.Machine.execSmul f s
  | .sand f => Sys2Proof.Machine.execSand f s
  | .sor f => Sys2Proof.Machine.execSor f s
  | .sxor f => Sys2Proof.Machine.execSxor f s
  | .sshl f => Sys2Proof.Machine.execSshl f s
  | .sshr f => Sys2Proof.Machine.execSshr f s
  | .scmp f => Sys2Proof.Machine.execScmp f s
  | .smov f => Sys2Proof.Machine.execSmov f s
  | .smovi f => Sys2Proof.Machine.execSmovi f s
  | .sld f => Sys2Proof.Machine.execSld f s
  | .sst f => Sys2Proof.Machine.execSst f s
  | .sbfe f => Sys2Proof.Machine.execSbfe f s
  | .ssel f => Sys2Proof.Machine.execSsel f s
  | .slea f => Sys2Proof.Machine.execSlea f s
  | .iadd f => Sys2Proof.Machine.execIadd f s
  | .isub f => Sys2Proof.Machine.execIsub f s
  | .imul f => Sys2Proof.Machine.execImul f s
  | .imad f => Sys2Proof.Machine.execImad f s
  | .imulh f => Sys2Proof.Machine.execImulh f s
  | .idiv f => Sys2Proof.Machine.execIdiv f s
  | .ineg f => Sys2Proof.Machine.execIneg f s
  | .iabs f => Sys2Proof.Machine.execIabs f s
  | .imin f => Sys2Proof.Machine.execImin f s
  | .imax f => Sys2Proof.Machine.execImax f s
  | .and f => Sys2Proof.Machine.execAnd f s
  | .or f => Sys2Proof.Machine.execOr f s
  | .xor f => Sys2Proof.Machine.execXor f s
  | .not f => Sys2Proof.Machine.execNot f s
  | .shl f => Sys2Proof.Machine.execShl f s
  | .shr f => Sys2Proof.Machine.execShr f s
  | .sar f => Sys2Proof.Machine.execSar f s
  | .rot f => Sys2Proof.Machine.execRot f s
  | .bfe f => Sys2Proof.Machine.execBfe f s
  | .bfi f => Sys2Proof.Machine.execBfi f s
  | .popc f => Sys2Proof.Machine.execPopc f s
  | .clz f => Sys2Proof.Machine.execClz f s
  | .ctz f => Sys2Proof.Machine.execCtz f s
  | .brev f => Sys2Proof.Machine.execBrev f s
  | .icmp f => Sys2Proof.Machine.execIcmp f s
  | .sel f => Sys2Proof.Machine.execSel f s
  | .mov f => Sys2Proof.Machine.execMov f s
  | .movi f => Sys2Proof.Machine.execMovi f s
  | .movh f => Sys2Proof.Machine.execMovh f s
  | .lea f => Sys2Proof.Machine.execLea f s
  | .plog f => Sys2Proof.Machine.execPlog f s
  | .shfl f => Sys2Proof.Machine.execShfl f s
  | .matchV f => Sys2Proof.Machine.execMatchV f s
  | .vote f => Sys2Proof.Machine.execVote f s
  | .scan f => Sys2Proof.Machine.execScan f s
  | .redux f => Sys2Proof.Machine.execRedux f s
  | .bcast f => Sys2Proof.Machine.execBcast f s
  | .lmul f => Sys2Proof.Machine.execLmul f s
  | .ldiv f => Sys2Proof.Machine.execLdiv f s
  | .lrcp f => Sys2Proof.Machine.execLrcp f s
  | .lsqr f => Sys2Proof.Machine.execLsqr f s
  | .lsqrt f => Sys2Proof.Machine.execLsqrt f s
  | .lpow f => Sys2Proof.Machine.execLpow f s
  | .lscl f => Sys2Proof.Machine.execLscl f s
  | .lneg f => Sys2Proof.Machine.execLneg f s
  | .labs f => Sys2Proof.Machine.execLabs f s
  | .ladd f => Sys2Proof.Machine.execLadd f s
  | .lsub f => Sys2Proof.Machine.execLsub f s
  | .lmad f => Sys2Proof.Machine.execLmad f s
  | .lmin f => Sys2Proof.Machine.execLmin f s
  | .lmax f => Sys2Proof.Machine.execLmax f s
  | .lcmp f => Sys2Proof.Machine.execLcmp f s
  | .lcls f => Sys2Proof.Machine.execLcls f s
  | .lcvt f => Sys2Proof.Machine.execLcvt f s
  | .lfi f => Sys2Proof.Machine.execLfi f s
  | .lti f => Sys2Proof.Machine.execLti f s
  | .lxf f => Sys2Proof.Machine.execLxf f s
  | .lfx f => Sys2Proof.Machine.execLfx f s
  | .lexp2 f => Sys2Proof.Machine.execLexp2 f s
  | .llg2 f => Sys2Proof.Machine.execLlg2 f s
  | .lpk f => Sys2Proof.Machine.execLpk f s
  | .lupk f => Sys2Proof.Machine.execLupk f s
  | .ld f => Sys2Proof.Machine.execLd f s
  | .st f => Sys2Proof.Machine.execSt f s
  | .ldc f => Sys2Proof.Machine.execLdc f s
  | .stc f => Sys2Proof.Machine.execStc f s
  | .festFull f => Sys2Proof.Machine.execFestFull f s
  | .festEmpty f => Sys2Proof.Machine.execFestEmpty f s
  | .feq f => Sys2Proof.Machine.execFeq f s
  | .pf f => Sys2Proof.Machine.execPf f s
  | .dsc f => Sys2Proof.Machine.execDsc f s
  | .wbk f => Sys2Proof.Machine.execWbk f s
  | .linv f => Sys2Proof.Machine.execLinv f s
  | .aadd f => Sys2Proof.Machine.execAadd f s
  | .amin f => Sys2Proof.Machine.execAmin f s
  | .amax f => Sys2Proof.Machine.execAmax f s
  | .aand f => Sys2Proof.Machine.execAand f s
  | .aor f => Sys2Proof.Machine.execAor f s
  | .axor f => Sys2Proof.Machine.execAxor f s
  | .axchg f => Sys2Proof.Machine.execAxchg f s
  | .acas f => Sys2Proof.Machine.execAcas f s
  | .adecp f => Sys2Proof.Machine.execAdecp f s
  | .afmax f => Sys2Proof.Machine.execAfmax f s
  | .ladda f => Sys2Proof.Machine.execLadda f s
  | .atomicReturn core slot n => Sys2Proof.Machine.execAtomicReturn core slot n s
  | .fence f => Sys2Proof.Machine.execFence f s
  | .fenceSc f => Sys2Proof.Machine.execFenceSc f s
  | .baraInit f => Sys2Proof.Machine.execBaraInit f s
  | .baraFree f => Sys2Proof.Machine.execBaraFree f s
  | .baraArr f => Sys2Proof.Machine.execBaraArr f s
  | .baraDrop f => Sys2Proof.Machine.execBaraDrop f s
  | .barw f => Sys2Proof.Machine.execBarw f s
  | .bartArr f => Sys2Proof.Machine.execBartArr f s
  | .bartTest f => Sys2Proof.Machine.execBartTest f s
  | .gbarInit f => Sys2Proof.Machine.execGbarInit f s
  | .gbarArr f => Sys2Proof.Machine.execGbarArr f s
  | .gbarNtf f => Sys2Proof.Machine.execGbarNtf f s
  | .gbarWait f => Sys2Proof.Machine.execGbarWait f s
  | .waitv f => Sys2Proof.Machine.execWaitv f s
  | .monitorFire n => Sys2Proof.Machine.execMonitorFire n s
  | .wakeOne f => Sys2Proof.Machine.execWakeOne f s
  | .wakeAll f => Sys2Proof.Machine.execWakeAll f s
  | .tdec f => Sys2Proof.Machine.execTdec f s
  | .tspn f => Sys2Proof.Machine.execTspn f s
  | .tendClu f => Sys2Proof.Machine.execTendClu f s
  | .tendDev f => Sys2Proof.Machine.execTendDev f s
  | .mmla f => Sys2Proof.Machine.execMmla f s
  | .mmls f => Sys2Proof.Machine.execMmls f s
  | .mldb f => Sys2Proof.Machine.execMldb f s
  | .mldbComplete core slot n => Sys2Proof.Machine.execMldbComplete core slot n s
  | .mclr f => Sys2Proof.Machine.execMclr f s
  | .mscl f => Sys2Proof.Machine.execMscl f s
  | .mstatFlags f => Sys2Proof.Machine.execMstatFlags f s
  | .mstatClr f => Sys2Proof.Machine.execMstatClr f s
  | .mstatTile f => Sys2Proof.Machine.execMstatTile f s
  | .mstatEu f => Sys2Proof.Machine.execMstatEu f s
  | .matrixWriteBack core => Sys2Proof.Machine.execMatrixWriteBack core s
  | .cpq f => Sys2Proof.Machine.execCpq f s
  | .cpi f => Sys2Proof.Machine.execCpi f s
  | .cpl f => Sys2Proof.Machine.execCpl f s
  | .cpc f => Sys2Proof.Machine.execCpc f s
  | .cps f => Sys2Proof.Machine.execCps f s
  | .cpf f => Sys2Proof.Machine.execCpf f s
  | .pushedCommand core => Sys2Proof.Machine.execPushedCommand core s
  | .commandAccept core => Sys2Proof.Machine.execCommandAccept core s
  | .copy core q => Sys2Proof.Machine.execCopy core q s
  | .convert core q => Sys2Proof.Machine.execConvert core q s
  | .quantise core q => Sys2Proof.Machine.execQuantise core q s
  | .tileTranspose core q => Sys2Proof.Machine.execTileTranspose core q s
  | .gather core q => Sys2Proof.Machine.execGather core q s
  | .scatter core q => Sys2Proof.Machine.execScatter core q s
  | .foldMax core q => Sys2Proof.Machine.execFoldMax core q s
  | .chainNextBlock core q => Sys2Proof.Machine.execChainNextBlock core q s
  | .commandEnd core q => Sys2Proof.Machine.execCommandEnd core q s
  | .engineCompletionFill core q => Sys2Proof.Machine.execEngineCompletionFill core q s
  | .tlr f => Sys2Proof.Machine.execTlr f s
  | .tlc f => Sys2Proof.Machine.execTlc f s
  | .srd f => Sys2Proof.Machine.execSrd f s
  | .swr f => Sys2Proof.Machine.execSwr f s
  | .feat f => Sys2Proof.Machine.execFeat f s
  | .msg f => Sys2Proof.Machine.execMsg f s
  | .rdc f => Sys2Proof.Machine.execRdc f s
  | .lease f => Sys2Proof.Machine.execLease f s
  | .lrel f => Sys2Proof.Machine.execLrel f s
  | .slpIv f => Sys2Proof.Machine.execSlpIv f s
  | .slpNtc f => Sys2Proof.Machine.execSlpNtc f s
  | .sleepWake core slot => Sys2Proof.Machine.execSleepWake core slot s
  | .groupSelect core => Sys2Proof.Machine.execGroupSelect core s
  | .loadDataReturn core slot n => Sys2Proof.Machine.execLoadDataReturn core slot n s
  | .storeAck core slot n => Sys2Proof.Machine.execStoreAck core slot n s
  | .continuationAdmit cluster => Sys2Proof.Machine.execContinuationAdmit cluster s
  | .feBudget core slot => Sys2Proof.Machine.execFeBudget core slot s
  | .regroupRendezvous team => Sys2Proof.Machine.execRegroupRendezvous team s
  | .regroupRejoin team => Sys2Proof.Machine.execRegroupRejoin team s
  | .pageFaultReport => Sys2Proof.Machine.execPageFaultReport s
  | .taskDecrement => Sys2Proof.Machine.execTaskDecrement s
  | .launchAdmit => Sys2Proof.Machine.execLaunchAdmit s
  | .teamPlace cluster => Sys2Proof.Machine.execTeamPlace cluster s
  | .gangPlace => Sys2Proof.Machine.execGangPlace s
  | .phaseAdmit cluster => Sys2Proof.Machine.execPhaseAdmit cluster s
  | .furrowAgeing cluster => Sys2Proof.Machine.execFurrowAgeing cluster s
  | .teamRetire team => Sys2Proof.Machine.execTeamRetire team s
  | .producerTeamFinish team => Sys2Proof.Machine.execProducerTeamFinish team s
  | .launchEnd launch => Sys2Proof.Machine.execLaunchEnd launch s
  | .arrive ctx v => Sys2Proof.Machine.execArrive ctx v s
  | .cctlPreempt ctx => Sys2Proof.Machine.execCctlPreempt ctx s
  | .groupSave core slot => Sys2Proof.Machine.execGroupSave core slot s
  | .cctlRestore ctx => Sys2Proof.Machine.execCctlRestore ctx s
  | .cctlKill ctx => Sys2Proof.Machine.execCctlKill ctx s
  | .ctxcfgCreate ctx v => Sys2Proof.Machine.execCtxcfgCreate ctx v s
  | .ctxcfgDelete ctx => Sys2Proof.Machine.execCtxcfgDelete ctx s
  | .fresolveResolved ctx seq => Sys2Proof.Machine.execFresolveResolved ctx seq s
  | .fresolveUnresolvable ctx seq => Sys2Proof.Machine.execFresolveUnresolvable ctx seq s
  | .shoot ctx v => Sys2Proof.Machine.execShoot ctx v s
  | .shootdownComplete ctx => Sys2Proof.Machine.execShootdownComplete ctx s
  | .shootRead by_ => Sys2Proof.Machine.execShootRead by_ s
  | .msgin ctx => Sys2Proof.Machine.execMsgin ctx s
  | .q15Outgoing core slot => Sys2Proof.Machine.execQ15Outgoing core slot s
  | .gbarCounterWrite ctx k v => Sys2Proof.Machine.execGbarCounterWrite ctx k v s
  | .xlgo fn => Sys2Proof.Machine.execXlgo fn s
  | .translationComplete fn => Sys2Proof.Machine.execTranslationComplete fn s
  | .provgo => Sys2Proof.Machine.execProvgo s
  | .lostCountClear ctx events => Sys2Proof.Machine.execLostCountClear ctx events s
  | .registerWrite fn off v half => Sys2Proof.Machine.execRegisterWrite fn off v half s
  | .getMeasurements nonce => Sys2Proof.Machine.execGetMeasurements nonce s
  | .deviceReset => Sys2Proof.Machine.execDeviceReset s
  | .hostMemoryWindowAccess fn ctx addr size write => Sys2Proof.Machine.execHostMemoryWindowAccess fn ctx addr size write s
  | .peerMemoryRead peer pa size => Sys2Proof.Machine.execPeerMemoryRead peer pa size s
  | .peerPostedWrite peer pa data => Sys2Proof.Machine.execPeerPostedWrite peer pa data s
  | .peerAtomicop peer pa wide op lane more => Sys2Proof.Machine.execPeerAtomicop peer pa wide op lane more s
  | .peerFeAccess peer core slot pa acc => Sys2Proof.Machine.execPeerFeAccess peer core slot pa acc s
  | .peerCompressedLine peer pa code data => Sys2Proof.Machine.execPeerCompressedLine peer pa code data s
  | .peerProxyWake core slot => Sys2Proof.Machine.execPeerProxyWake core slot s
  | .peerStoreAck peer n => Sys2Proof.Machine.execPeerStoreAck peer n s
  | .peerDrainRequest peer => Sys2Proof.Machine.execPeerDrainRequest peer s
  | .peerAckTimeout core q => Sys2Proof.Machine.execPeerAckTimeout core q s
  | .drainSend launch => Sys2Proof.Machine.execDrainSend launch s
  | .controlIntervalStart cluster start temps => Sys2Proof.Machine.execControlIntervalStart cluster start temps s
  | .packageIntervalEnd leak bandwidth => Sys2Proof.Machine.execPackageIntervalEnd leak bandwidth s
  | .leaseExpire cluster ctx => Sys2Proof.Machine.execLeaseExpire cluster ctx s
  | .teamThrottle team => Sys2Proof.Machine.execTeamThrottle team s
  | .railStopEnd cluster => Sys2Proof.Machine.execRailStopEnd cluster s
  | .teamMigrate team => Sys2Proof.Machine.execTeamMigrate team s
  | .linkTraining port dcap => Sys2Proof.Machine.execLinkTraining port dcap s
  | .portDown port => Sys2Proof.Machine.execPortDown port s
  | .queueTailRead fn ctx events => Sys2Proof.Machine.execQueueTailRead fn ctx events s
  | .provisioningWritten => Sys2Proof.Machine.execProvisioningWritten s
  | .queuePopDelivery core slot n => Sys2Proof.Machine.execQueuePopDelivery core slot n s
  | .gridBarrierRequest => Sys2Proof.Machine.execGridBarrierRequest s

end Sys2Proof.Machine
end

