-- ==== Sys2Proof/Machine/Issue.lean ====
section
/-! DEFINITION. Issuing the next instruction of a running group: its registers, its port, its dependences
(03 R69, R72, R73, R75, 07 R172, R173, 10 R270, 11 R305), and the choice of the agent that moves next (log entry 1). -/

namespace Sys2Proof.Machine

open State Wf

/-- The registers an instruction names: vector, scalar and predicate registers read and written, and the translation
register read; `keep` is its K bit. -/
structure Uses where
  rv : List Nat := []
  wv : List Nat := []
  rs : List Nat := []
  ws : List Nat := []
  rp : List Nat := []
  wp : List Nat := []
  rt : Option Nat := none
  keep : Bool := false
  deriving DecidableEq, Repr

/-- The vector registers of an operand kind. -/
def opRegs (k : OpK) (r : Nat) : List Nat :=
  match k with
  | .r32 => [r] | .r64 => [r, r + 1] | .unused => [] | .predSrc => [] | .predDst => []

/-- The predicates of an operand kind that is read. -/
def opPreds (k : OpK) (r : Nat) : List Nat := if k == .predSrc then [r] else []

/-- n registers from r on. -/
def runFrom (r n : Nat) : List Nat := (List.range n).map (r + ·)

/-- Format V under its field use (02 R40, R41). -/
def vUses (u : VUse) (f : FmtV) : Uses :=
  let hasS := f.s != 127
  let a := !(u.s == .inA && hasS)
  let b := !(u.s == .inB && hasS)
  { rv := (if a then opRegs u.a f.a.toNat else []) ++ (if b then opRegs u.b f.b.toNat else []) ++ opRegs u.c f.c.toNat
    wv := opRegs u.d f.d.toNat
    rs := if hasS && (u.s == .inA || u.s == .inB) then [f.s.toNat] else []
    ws := if hasS && u.s == .dest then [f.s.toNat] else []
    rp := f.ps.toNat :: (opPreds u.a f.a.toNat ++ opPreds u.b f.b.toNat ++ opPreds u.c f.c.toNat)
    wp := if u.d == .predDst then [f.d.toNat] else []
    keep := f.k }

/-- Format VI (02 R42). -/
def viUses (a : Bool) (f : FmtVI) : Uses :=
  { rv := if a then [f.a.toNat] else [], wv := [f.d.toNat], rp := [f.ps.toNat], keep := f.k }

/-- Format S with operands A and B (02 R43). -/
def sUses (f : FmtS) (b : Bool) : Uses :=
  { rs := f.sa.toNat :: (if b && !f.i then [f.sb.toNat] else []), ws := [f.sd.toNat] }

/-- Format M: `load` and `store` name the run (02 R44). -/
def mUses (f : FmtM) (load store : Bool) : Uses :=
  let run := runFrom f.d.toNat (sizeRun f.sz.toNat)
  { rv := f.a.toNat :: (if store then run else []), wv := if load then run else [],
    rp := [f.ps.toNat], rt := some f.t.toNat, keep := f.k }

/-- Format A (02 R45, 09 R239). -/
def aUses (f : FmtA) (b c : Bool) : Uses :=
  let n := if f.ty == .i64 then 2 else 1
  { rv := f.a.toNat :: ((if b then runFrom f.b.toNat n else []) ++ (if c then runFrom f.c.toNat n else []))
    wv := runFrom f.d.toNat n, rp := [f.ps.toNat], rt := some f.t.toNat }

def bUses (f : FmtB) : Uses := { rp := [f.ps.toNat] }

/-- `mmla` and `mmls` (07 R186, R187). -/
def mmUses (f : FmtX) : Uses :=
  let d := runFrom f.d.toNat 64
  { rv := runFrom f.a.toNat (fragRegs f.fmt.toNat) ++ d, wv := d, rs := [f.s.toNat], rp := [f.ps.toNat] }

/-- Format Y: scalars read and written, predicates written. -/
def yUses (f : FmtY) (rs ws wp : List Nat) (rt : Option Nat := none) : Uses :=
  { rs := rs, ws := ws, rp := [f.ps.toNat], wp := wp, rt := rt }

/-- The registers of every instruction, each line from the instruction's own rule. An event names none. -/
def usesOf : Instr → Uses
  | .nop f => yUses f [] [] [] | .bra f => bUses f | .brx f => bUses f | .brxRegroup f => bUses f
  | .join f => yUses f [] [] [] | .call f => bUses f | .ret f => yUses f [] [] []
  | .jmpi f => { rs := [f.sa.toNat] } | .loop f => { rs := [f.sa.toNat], ws := [f.sd.toNat] }
  | .exit f => yUses f [] [] [] | .yield f => yUses f [] [] []
  | .emovGet f => yUses f [] [f.s.toNat] [] | .emovSet f => yUses f [f.s.toNat] [] []
  | .emovPred f => yUses f [] [] [] | .emovLive f => yUses f [] [f.s.toNat] []
  | .trap f => yUses f [] [] [] | .brk f => yUses f [] [] [] | .tret f => yUses f [] [] []
  | .mpt f => yUses f [] [] []
  | .sadd f => sUses f true | .ssub f => sUses f true | .smul f => sUses f true | .sand f => sUses f true
  | .sor f => sUses f true | .sxor f => sUses f true | .sshl f => sUses f true | .sshr f => sUses f true
  | .scmp f => { sUses f true with ws := [], wp := [f.sd.toNat % 8] }
  | .smov f => sUses f false | .smovi f => sUses f false | .sld f => sUses f false
  | .sst f => { sUses f true with ws := [] }
  | .sbfe f => sUses f true
  | .ssel f => { sUses f true with rs := f.sd.toNat :: (sUses f true).rs }
  | .slea f => sUses f true
  | .iadd f => vUses (binUse f.ty) f | .isub f => vUses (binUse f.ty) f | .imul f => vUses (binUse f.ty) f
  | .imad f => vUses (use f.ty.opk f.ty.opk f.ty.opk f.ty.opk .inB) f
  | .imulh f => vUses (binUse f.ty) f | .idiv f => vUses (binUse f.ty) f
  | .ineg f => vUses (unUse f.ty) f | .iabs f => vUses (unUse f.ty) f
  | .imin f => vUses (binUse f.ty) f | .imax f => vUses (binUse f.ty) f
  | .and f => vUses bin32 f | .or f => vUses bin32 f | .xor f => vUses bin32 f | .not f => vUses un32 f
  | .shl f => vUses (shiftUse f.ty) f | .shr f => vUses (shiftUse f.ty) f | .sar f => vUses (shiftUse f.ty) f
  | .rot f => vUses bin32 f | .bfe f => vUses bin32 f | .bfi f => vUses tern32 f
  | .popc f => vUses un32 f | .clz f => vUses un32 f | .ctz f => vUses un32 f | .brev f => vUses un32 f
  | .icmp f => vUses (use .predDst f.ty.opk f.ty.opk .unused .inB) f
  | .sel f => vUses (use f.ty.opk f.ty.opk f.ty.opk .predSrc .inB) f
  | .mov f => vUses (use f.ty.opk f.ty.opk .unused .unused .inA) f
  | .movi f => viUses false f | .movh f => viUses true f
  | .lea f => vUses (shiftUse f.ty) f
  | .plog f => vUses (use .predDst .predSrc .predSrc .unused .noScalar) f
  | .shfl f => vUses (shiftUse f.ty) f
  | .matchV f => vUses (use .r64 f.ty.opk .unused .unused .noScalar) f
  | .vote f =>
    vUses (if f.fn == 3 then use .r64 .predSrc .unused .unused .dest
      else use .predDst .predSrc .unused .unused .noScalar) f
  | .scan f => vUses (unUse f.ty) f
  | .redux f => vUses (use f.ty.opk f.ty.opk .unused .unused .dest) f
  | .bcast f => vUses (use f.ty.opk f.ty.opk .unused .unused .dest) f
  | .lmul f => vUses bin32 f | .ldiv f => vUses bin32 f | .lrcp f => vUses un32 f | .lsqr f => vUses un32 f
  | .lsqrt f => vUses un32 f | .lpow f => viUses true f | .lscl f => vUses bin32 f | .lneg f => vUses un32 f
  | .labs f => vUses un32 f | .ladd f => vUses bin32 f | .lsub f => vUses bin32 f | .lmad f => vUses tern32 f
  | .lmin f => vUses bin32 f | .lmax f => vUses bin32 f
  | .lcmp f => vUses (use .predDst .r32 .r32 .unused .inB) f
  | .lcls f => vUses un32 f | .lcvt f => vUses un32 f
  | .lfi f => vUses (use .r32 (if f.fn.toNat % 4 < 2 then .r32 else .r64) .unused .unused .noScalar) f
  | .lti f => vUses (use (if f.fn.toNat % 4 < 2 then .r32 else .r64) .r32 .unused .unused .noScalar) f
  | .lxf f => vUses un32 f | .lfx f => vUses un32 f | .lexp2 f => vUses un32 f | .llg2 f => vUses un32 f
  | .lpk f => vUses (if f.ty == .l8 then tern32 else bin32) f
  | .lupk f => vUses un32 f
  | .ld f => mUses f true false | .st f => mUses f false true | .ldc f => mUses f true false
  | .stc f => mUses f false true | .festFull f => mUses f false false | .festEmpty f => mUses f false false
  | .feq f => { mUses f false false with wp := [f.d.toNat] }
  | .pf f => mUses f false false | .dsc f => mUses f false false | .wbk f => mUses f false false
  | .linv f => mUses f false false
  | .aadd f => aUses f true false | .amin f => aUses f true false | .amax f => aUses f true false
  | .aand f => aUses f true false | .aor f => aUses f true false | .axor f => aUses f true false
  | .axchg f => aUses f true false | .acas f => aUses f true true | .adecp f => aUses f false false
  | .afmax f => aUses f true false | .ladda f => aUses f true false
  | .fence f => yUses f [] [] [] | .fenceSc f => yUses f [] [] []
  | .baraInit f => yUses f [f.s.toNat] [] [] | .baraFree f => yUses f [f.s.toNat] [] []
  | .baraArr f => yUses f [f.s.toNat] [f.d.toNat] [] | .baraDrop f => yUses f [f.s.toNat] [f.d.toNat] []
  | .barw f => yUses f [f.s.toNat, f.a.toNat] [] []
  | .bartArr f => yUses f [f.s.toNat] [f.d.toNat] [f.b.toNat]
  | .bartTest f => yUses f [f.s.toNat, f.a.toNat] [] [f.b.toNat]
  | .gbarInit f => yUses f [f.s.toNat] [] [] | .gbarArr f => yUses f [] [f.d.toNat] []
  | .gbarNtf f => yUses f [] [f.d.toNat] [] | .gbarWait f => yUses f [f.a.toNat] [] []
  | .waitv f => yUses f [f.s.toNat, f.a.toNat] [] [f.d.toNat] (some (f.idx.toNat % 8))
  | .wakeOne f => yUses f [f.s.toNat] [f.d.toNat] [] (some (f.idx.toNat % 8))
  | .wakeAll f => yUses f [f.s.toNat] [f.d.toNat] [] (some (f.idx.toNat % 8))
  | .tdec f => yUses f [f.s.toNat] [] [] | .tspn f => yUses f [f.s.toNat] [] []
  | .tendClu f => yUses f [] [f.d.toNat] [] | .tendDev f => yUses f [] [f.d.toNat] []
  | .mmla f => mmUses f | .mmls f => mmUses f
  | .mldb f => { rs := [f.s.toNat], rt := some 0 }
  | .mclr f => { wv := runFrom f.d.toNat 64, rp := [f.ps.toNat] }
  | .mscl f =>
    let d := runFrom f.d.toNat 64
    { rv := (if f.fn.getLsbD 0 then [f.a.toNat] else []) ++ d, wv := d,
      rs := if f.fn.getLsbD 0 then [] else [f.s.toNat], rp := [f.ps.toNat] }
  | .mstatFlags f => { ws := [f.s.toNat] } | .mstatClr f => { ws := [f.s.toNat] }
  | .mstatTile f => { ws := [f.s.toNat] } | .mstatEu f => { ws := [f.s.toNat] }
  | .cpq f => { rs := [f.sa.toNat] } | .cpi f => { rs := [f.sa.toNat] } | .cpl f => { ws := [f.sa.toNat] }
  | .cpc _ => {} | .cps f => { ws := [f.sa.toNat] } | .cpf f => { ws := [f.sa.toNat] }
  | .tlr f => yUses f [f.s.toNat] [f.d.toNat] [] | .tlc f => yUses f [] [] [] | .srd f => yUses f [] [f.s.toNat] []
  | .swr f => yUses f [f.s.toNat] [] [] | .feat f => yUses f [] [f.s.toNat] []
  | .msg f => yUses f [f.a.toNat] [f.d.toNat] [] | .rdc f => yUses f [] [f.s.toNat] []
  | .lease f => yUses f [f.s.toNat] [f.d.toNat] [] | .lrel f => yUses f [] [f.d.toNat] []
  | .slpIv f => yUses f [f.s.toNat] [] [] | .slpNtc f => yUses f [f.s.toNat] [] []
  | .groupExit _ _ => {} | .atomicReturn _ _ _ => {} | .monitorFire _ => {}
  | .mldbComplete _ _ _ => {} | .matrixWriteBack _ => {} | .pushedCommand _ => {}
  | .commandAccept _ => {} | .copy _ _ => {} | .convert _ _ => {} | .quantise _ _ => {}
  | .tileTranspose _ _ => {} | .gather _ _ => {} | .scatter _ _ => {} | .foldMax _ _ => {}
  | .chainNextBlock _ _ => {} | .commandEnd _ _ => {} | .engineCompletionFill _ _ => {}
  | .sleepWake _ _ => {} | .groupSelect _ => {} | .loadDataReturn _ _ _ => {}
  | .storeAck _ _ _ => {} | .continuationAdmit _ => {} | .feBudget _ _ => {}
  | .regroupRendezvous _ => {} | .regroupRejoin _ => {} | .pageFaultReport => {}
  | .taskDecrement => {} | .launchAdmit => {} | .teamPlace _ => {} | .gangPlace => {}
  | .phaseAdmit _ => {} | .furrowAgeing _ => {} | .teamRetire _ => {}
  | .producerTeamFinish _ => {} | .launchEnd _ => {} | .arrive _ _ => {}
  | .cctlPreempt _ => {} | .groupSave _ _ => {} | .cctlRestore _ => {} | .cctlKill _ => {}
  | .ctxcfgCreate _ _ => {} | .ctxcfgDelete _ => {} | .fresolveResolved _ _ => {}
  | .fresolveUnresolvable _ _ => {} | .shoot _ _ => {} | .shootdownComplete _ => {}
  | .shootRead _ => {} | .msgin _ => {} | .q15Outgoing _ _ => {}
  | .gbarCounterWrite _ _ _ => {} | .xlgo _ => {} | .translationComplete _ => {}
  | .provgo => {} | .lostCountClear _ _ => {} | .registerWrite _ _ _ _ => {}
  | .getMeasurements _ => {} | .deviceReset => {} | .hostMemoryWindowAccess _ _ _ _ _ => {}
  | .peerMemoryRead _ _ _ => {} | .peerPostedWrite _ _ _ => {}
  | .peerAtomicop _ _ _ _ _ _ => {} | .peerFeAccess _ _ _ _ _ => {}
  | .peerCompressedLine _ _ _ _ => {} | .peerProxyWake _ _ => {} | .peerStoreAck _ _ => {}
  | .peerDrainRequest _ => {} | .peerAckTimeout _ _ => {} | .drainSend _ => {}
  | .controlIntervalStart _ _ _ => {} | .packageIntervalEnd _ _ => {} | .leaseExpire _ _ => {}
  | .teamThrottle _ => {} | .railStopEnd _ => {} | .teamMigrate _ => {}
  | .linkTraining _ _ => {} | .portDown _ => {} | .queueTailRead _ _ _ => {}
  | .provisioningWritten => {} | .gridBarrierRequest => {} | .queuePopDelivery _ _ _ => {}

/-! ### Ports (03 R73) -/

/-- The port an instruction needs. -/
inductive Port where
  | rows | scalar | memory | matrix
  deriving DecidableEq, Repr

/-- The port of an opcode (03 R73). -/
def portOf (i : Instr) : Port :=
  let op := i.opc
  if op ≤ 0x1F || (0xC0 ≤ op && op ≤ 0xC9) then .scalar
  else if op ≤ 0x65 then .rows
  else if 0xA0 ≤ op && op ≤ 0xA5 then .matrix
  else .memory

/-- Grants of a port left in the cycle. -/
def grantsLeft (k : Core) : Port → Nat
  | .rows => 1
  | .scalar => k.grants.1
  | .memory => k.grants.2.1
  | .matrix => k.grants.2.2

/-- Take a grant of a port. -/
def takeGrant (k : Core) : Port → Core
  | .rows => k
  | .scalar => { k with grants := (k.grants.1 - 1, k.grants.2) }
  | .memory => { k with grants := (k.grants.1, k.grants.2.1 - 1, k.grants.2.2) }
  | .matrix => { k with grants := (k.grants.1, k.grants.2.1, k.grants.2.2 - 1) }

/-! ### Dependences (03 R69, R75) -/

/-- Do two lists share a member? -/
def meets (a b : List Nat) : Bool := a.any fun x => b.contains x

/-- Is a resource's fixed-latency result still to come at a cycle (03 R69)? -/
def notYet (x : Group) (cyc : Nat) (r : Res) : Bool := x.lat.any fun l => l.1 == r && cyc < l.2

/-- Does an instruction read a fixed-latency result that cannot be read yet (03 R75)? -/
def latHazard (x : Group) (cyc : Nat) (u : Uses) : Bool :=
  ((u.rv.filter (· ≤ 223)).any fun n => notYet x cyc (.v n)) || ((u.rs.filter (· != 127)).any fun n => notYet x cyc (.s n)) ||
    ((u.rp.filter (· != 0)).any fun n => notYet x cyc (.p n)) || u.rt.any fun n => notYet x cyc (.t n)

/-- The vector registers an outstanding result holds. -/
def pendRegs (p : Pend) : List Nat := p.regs ++ p.vregs.map (·.reg)

/-- Does an instruction read or write a register of an outstanding result (03 R75)? -/
def pendHazard (p : Pend) (u : Uses) : Bool :=
  meets ((u.rv ++ u.wv).filter (· ≤ 223)) (pendRegs p) ||
    meets ((u.rs ++ u.ws).filter (· != 127)) (p.sregs.map (·.1)) ||
    meets ((u.rp ++ u.wp).filter (· != 0)) (p.preds.map (·.1))

/-- The D run of an instruction that can be a member of a matrix chain (07 R172). An `mscl.v` whose A lies in its D run
reads a register of the chain's, so it is no member of it (07 R173, R186; log entry 55). -/
def chainOf : Instr → Option Nat
  | .mmla f => some f.d.toNat
  | .mmls f => some f.d.toNat
  | .mclr f => some f.d.toNat
  | .mscl f => if f.fn.getLsbD 0 && f.d.toNat ≤ f.a.toNat && f.a.toNat < f.d.toNat + 64 then none else some f.d.toNat
  | _ => none

/-- Is an outstanding result that of an earlier member of the chain an instruction continues (07 R172)? -/
def ownChain (s : State) (g : Nat) (i : Instr) (p : Pend) : Bool :=
  match (s.core (g / 32)).latch, (chainOf i) with
  | some l, some d => l.slot == g && l.d == d && !l.closed && p.kind == .matrix && p.aux == d && !p.ready
  | _, _ => false

/-- Does the latch of a group's open chain hold a register an instruction names (07 R173)? -/
def latchHazard (s : State) (g : Nat) (i : Instr) : Bool :=
  match (s.core (g / 32)).latch with
  | some l => l.slot == g && !l.closed && (chainOf i) != some l.d && meets ((usesOf i).rv ++ (usesOf i).wv) (runFrom l.d 64)
  | none => false

/-- Memory-port instructions, `sld`, `sst` and `mldb`, which a fence or a `cpf` holds (10 R270, 11 R305). -/
def isFenced (i : Instr) : Bool := (portOf i) == .memory || [0x1B, 0x1C, 0xA2].contains i.opc

/-- Does an instruction wait for a fence, or for a `cpf` (10 R270, 11 R305)? -/
def fenceHazard (x : Group) (i : Instr) : Bool :=
  (isFenced i && x.pend.any fun p => p.kind == .fence) ||
    ((portOf i) == .memory && x.pend.any fun p => p.kind == .cpf && !p.ready)

/-- Does an instruction take a scoreboard entry (03 R75)? -/
def takesEntry (i : Instr) : Bool :=
  let op := i.opc
  match i with
  | .ld _ => true | .ldc _ => true | .feq _ => true
  | .baraArr _ => true | .baraDrop _ => true | .gbarArr _ => true | .gbarNtf _ => true
  | .cpf _ => true | .lease _ => true | .lrel _ => true | .msg _ => true | .mldb _ => false
  | _ => (0x80 ≤ op && op ≤ 0x8A) || op == 0x93 || op == 0x95 || op == 0x96 || op == 0x99 || (0xA0 ≤ op && op ≤ 0xA5) ||
    ((portOf i) == .rows && (usesOf i).rv.any fun r => 224 ≤ r && r ≤ 239)

/-- Is a group held on a dependence of its next instruction (03 R75, 10 R270, 11 R305)? -/
def held (s : State) (g : Nat) (i : Instr) : Bool :=
  let x := s.grp g
  latHazard x (s.core (g / 32)).cyc.toNat (usesOf i) ||
    (x.pend.any fun p => isResult p.kind && pendHazard p (usesOf i) && !ownChain s g i p) ||
    fenceHazard x i || (takesEntry i && Config.scoreboard ≤ scoreUsed x)

/-! ### Issue -/

/-- Is what holds an instruction a load, an atomic or the memory port (15 R387)? -/
def memoryHolds (s : State) (g : Nat) (i : Instr) : Bool :=
  let x := s.grp g
  let mem (p : Pend) : Bool := p.kind == .load || p.kind == .atomic
  (x.pend.any fun p => mem p && pendHazard p (usesOf i)) || (fenceHazard x i && x.pend.any mem) ||
    ((portOf i) == .memory && !held s g i && grantsLeft (s.core (g / 32)) .memory == 0)

/-- Hold a group at the instruction it would issue. -/
def holdFor (s : State) (g : Nat) (i : Instr) : State :=
  let m := memoryHolds s g i
  (hold s g).modGrp g fun x => { x with memHeld := m }

/-- What the instruction's registers cost at the banks, in 2^−12 EU: 2 for 16 bytes of a register that is read and is neither
in the window nor in the reuse latch, or that is written and not by a K = 1 instruction (15 R386). -/
def bankEnergy (x : Group) (i : Instr) : Nat :=
  let u := usesOf i
  let words := max 1 (x.gw / 4)
  let inWindow (r : Nat) : Bool := x.window.any (fun e => e.vals.any fun v => v.reg == r) || x.reuse.any (·.1 == r)
  let own : Bool := match i with | .mmla _ => true | .mmls _ => true | .mclr _ => true | .mscl _ => true | _ => false
  let rd := (u.rv.filter fun r => r ≤ 223 && !inWindow r).length
  let wr := if u.keep || own then 0 else (u.wv.filter (· ≤ 223)).length
  2 * words * (rd + wr)

/-- The word a running group is at. -/
def issueWord (x : Group) : Option DWord := x.clause[slotNo x + 1]?

/-- Run an instruction with its port granted; an instruction that is held gives the grant back, but for a `gbar` that is
held once its request has left (03 R73, 12 R333). -/
def runGranted (s : State) (g : Nat) (i : Instr) : Host.Outcome State Fault Refusal :=
  let c := g / 32
  let before := (s.core c).grants
  let seq := (s.grp g).seq
  let s := s.modCore c fun k => takeGrant k (portOf i)
  let eu := bankEnergy (s.grp g) i
  match exec i { s with curCore := c, curSlot := g % 32 } with
  | .next t =>
    let y := t.grp g
    if y.st == .held && y.running && y.seq == seq && t.greqs.length ≤ s.greqs.length then
      -- credits reorder nothing under DETROT: the port stays with the instruction that was refused (07 R185)
      if policyOf t c == 2 && (t.core c).creditFirst.contains (g % 32) then .next t
      else .next (t.modCore c fun k => { k with grants := before })
    else .next (if y.seq == seq || y.st == .free then t else charge t g eu)
  | .fault r => .fault r
  | .refused r => .refused r

/-- Issue the next instruction of a running group, when its dependences are met and its port is granted
(03 R72 to R75, 07 R173). -/
def issue (s : State) (g : Nat) : Host.Outcome State Fault Refusal :=
  let x := s.grp g
  let c := g / 32
  if !x.running ∨ x.exiting ∨ x.st = .parked ∨ x.st = .free ∨ (s.core c).cyc.toNat < x.issueAt then .next s
  else match issueWord x with
    | none => .next (hold s g)
    | some w =>
      match decodeWord w with
      | .error _ => done (trap s g ((wordFault w).getD 1) x.pc x.em)
      | .ok i =>
        if latchHazard s g i then .next (hold (endChain s g) g)
        else if held s g i then .next (holdFor s g i)
        else if grantsLeft (s.core c) (portOf i) = 0 then .next (holdFor s g i)
        else runGranted (s.modGrp g fun x => { x with memHeld := false }) g i

/-! ### Which core moves (log entry 1) -/

/-- Does a core hold a group? -/
def busyCore (k : Core) : Bool := k.slots.any fun e => e.2.st != .free

/-- The next core in rotation that holds a group and leads its clock; the core itself when there is none. -/
def nextCore (s : State) (c : Nat) : Nat :=
  let busy := ((s.cores.filter fun k => decide (k.1 < Config.numCores) && busyCore k.2).map fun k => (clockCores s k.1).headD 0)
  match busy.find? (c < ·) with
  | some d => d
  | none => busy.headD c

/-- Does a core lead its clock, without a group on any core of it? -/
def idleLead (s : State) (c : Nat) : Bool :=
  decide (c < Config.numCores) && s.enabled c && (clockCores s c).headD c == c &&
    !((clockCores s c).any fun d => busyCore (s.core d))

/-- A core without a group passes to its next cycle, or stops for its rail (03 R71, R80). -/
def idleCycle (s : State) (c : Nat) : State :=
  if (s.core c).railStop.isSome then s.post (.railStopEnd (c / 16)) else newCycle s (clockCores s c)

/-- The idle cycle of the cores that nothing has touched since device reset (03 R80). -/
def idleRest (s : State) : State :=
  let one (t : Tab (DWord × DWord)) (k : Nat) : Tab (DWord × DWord) :=
    let v := tget t (0, 0) k
    tset t k (v.1 + 1, v.2 + BitVec.ofNat 64 (Config.ticks (s.cluster k).hi 0))
  { s with idle := (List.range Config.numClusters).foldl one s.idle }

/-- Every core that holds no group, but for core `d`, passes to its next cycle (03 R80, log entry 1). -/
def idleTurn (s : State) (d : Nat) : State :=
  eachDo ((s.cores.map Prod.fst).filter fun c => idleLead s c && c != d) (idleRest s) idleCycle

/-- A core issues for the next group of its cycle, or the next core begins a cycle. When the rotation starts again, the
cores without a group have passed a cycle (03 R80, log entry 1). -/
def coreStep (s : State) (c : Nat) : Host.Outcome State Fault Refusal :=
  let l := (clockCores s c).headD c
  match (s.core l).turn with
  | g :: r => issue (s.modCore l fun k => { k with turn := r }) g
  | [] =>
    let d := nextCore s l
    let s := if d ≤ l then idleTurn s d else s
    exec (.groupSelect d) { s with curCore := d }

/-! ### Placing one instruction -/

/-- The header of a clause that holds one instruction alone (02 R33 to R37). -/
def headerFor (w : DWord) : DWord :=
  let base (ec tcx rg jn ds : Nat) : DWord :=
    BitVec.ofNat 64 (15 * 2 ^ 60 + ec * 2 ^ 56 + tcx * 2 ^ 50 + rg * 2 ^ 15 + jn * 2 ^ 14 + ds * 2 ^ 12)
  match decodeWord w with
  | .ok i => base i.ec i.tc (b2n i.isRegroup) (b2n i.isJoin) (b2n i.dsSensitive)
  | .error _ => base 0 0 0 0 0

/-- The state in which a loader leaves the part for one instruction (log entry 14): core 0 is in a cycle, and the group
in its slot 0, 16 lanes wide, is at the one slot of a clause that holds the instruction. Its team has the widest
register window, all team registers and all tiles; t0 is its store window. -/
def placeWord (s : State) (nbits w : Nat) : State :=
  let word : DWord := BitVec.ofNat 64 (w % 2 ^ nbits)
  let size := 32 * 64 + 192 * 64
  let t : Team := { st := .resident, slots := [0], size := size, hr := 32 * 64, win := 192 * 64, tiles := List.range 128 }
  let x : Group := {
    st := .eligible, running := true, rows := 1, hdr := 4096, pc := 4104, clause := [headerFor word, word], nregs := 192,
    nhregs := 32, em := lowMask 16, live := lowMask 16,
    tregs := [(0, { val := true, limit := size, wr := true })] }
  let k : Core := { (s.core 0) with
    slots := tset (s.core 0).slots 0 x, turn := [0], grants := (1, 2, 1), cycling := true, railStop := none }
  { s with
    agenda := [], curCore := 0, curSlot := 0
    cores := tset s.cores 0 k
    teams := tset s.teams 0 t
    launches := tset s.launches 0 {} }

end Sys2Proof.Machine
end

