-- ==== Sys2Proof/Machine/Step.lean ====
section
/-! DEFINITION. One step of the part: the agent due moves, or a core issues (log entry 1). -/

namespace Sys2Proof.Machine

open State

/-- One step. The oldest agent due moves: an event of the part, or a core named from outside. With none due, the
core in turn issues its next instruction or begins its next cycle (log entry 1). -/
def step (s : State) : Host.Outcome State Fault Refusal :=
  match s.agenda with
  | .event i :: r => exec i { s with agenda := r }
  | .core c :: r => coreStep { s with agenda := r, curCore := c } c
  | [] => coreStep s s.curCore

/-- The state with one instruction where the next step issues it (log entry 14). -/
def State.withFetchWord (s : State) (nbits w : Nat) : State := placeWord s nbits w

end Sys2Proof.Machine
end

