-- ==== Sys2Proof/Safety.lean ====
section
/-! DEFINITION. What counts as a safe run: a step that answers a next state, from a state whose memories are canonical
and whose enabled cores are those of the part. -/

namespace Sys2Proof.Machine

/-- Strictly rising numbers. -/
def rising : List Nat → Bool
  | [] => true
  | [_] => true
  | a :: b :: r => a < b && rising (b :: r)

/-- The memories of one core are canonical. -/
def Core.memWf (k : Core) : Bool := Mem.wf k.store && Mem.wf k.veneer && Mem.wf k.chainBuf && rising k.storeEmpty

/-- Every memory of the part is canonical: equal contents are equal data (log entry 3). -/
def State.memWf (s : State) : Bool := Mem.wf s.hbm && rising s.empties && s.cores.all fun c => c.2.memWf

/-- A step that neither faults nor is refused. -/
def stepSafe (s : State) : Prop := ∃ t, step s = .next t

end Sys2Proof.Machine
end

