-- ==== Sys2Proof/Claims.lean ====
section
/-! DEFINITION. The words the statements about the part are made of: what an instruction leaves alone when it goes on, where
the program counter goes, what the registers read afterwards. -/

namespace Sys2Proof.Claims

open Machine Machine.State

/-! ### What an instruction leaves alone -/

/-- The record `y` with the fields that going on to another instruction changes taken from `x`: the program counter, the
state of the slot and of its issue, the forwarding window and the work in flight. Every other field is y's: masks, control
stack, scalar, predicate and translation registers, flag registers, trap registers, queues, counters. -/
def asIssued (y x : Group) : Group :=
  { y with
    pc := x.pc, st := x.st, running := x.running, rows := x.rows, hdr := x.hdr, clause := x.clause, window := x.window,
    reuse := x.reuse, pend := x.pend, seq := x.seq, inflight := x.inflight, lat := x.lat, issueAt := x.issueAt,
    tail := x.tail, came := x.came, memHeld := x.memHeld, park := x.park, redo := x.redo, replay := x.replay }

/-- Outstanding work is as it was, or its K results go to the bank, or they end with their clause (04 R103). -/
inductive KeptWork : Pend → Pend → Prop
  | same (p : Pend) : KeptWork p p
  | bank (p : Pend) : KeptWork p { p with k := false }
  | gone (p : Pend) : KeptWork p (dropK p)

/-- Group g goes on from s to t: its architectural registers, every other group, core and team but for the energy meter,
all memory above the core's store, and everything else of the part stay as they were. -/
structure Moves (s t : State) (g : Nat) : Prop where
  grp : asIssued (t.grp g) (s.grp g) = s.grp g
  work : ∃ f : Pend → Pend, (∀ p, KeptWork p (f p)) ∧ (t.grp g).pend = (s.grp g).pend.map f
  others : ∀ h, h ≠ g → t.grp h = s.grp h
  cores : ∀ c, c ≠ g / 32 → t.core c = s.core c
  core : { t.core (g / 32) with
      slots := (s.core (g / 32)).slots, pipe := (s.core (g / 32)).pipe, latch := (s.core (g / 32)).latch,
      store := (s.core (g / 32)).store, badStore := (s.core (g / 32)).badStore,
      softStore := (s.core (g / 32)).softStore } = s.core (g / 32)
  latch : ((t.core (g / 32)).latch.map fun l => { l with closed := true }) =
    (s.core (g / 32)).latch.map fun l => { l with closed := true }
  teams : ∀ n, { t.team n with meter := (s.team n).meter } = s.team n
  rest : { t with cores := s.cores, teams := s.teams, agenda := s.agenda, monitors := s.monitors } = s
  agenda : ∃ l, t.agenda = s.agenda ++ l

/-- The store of the group's core and the monitors stay as they were as well. -/
structure Still (s t : State) (g : Nat) : Prop where
  store : (t.core (g / 32)).store = (s.core (g / 32)).store
  badStore : (t.core (g / 32)).badStore = (s.core (g / 32)).badStore
  softStore : (t.core (g / 32)).softStore = (s.core (g / 32)).softStore
  monitors : t.monitors = s.monitors

/-- The present instruction is the last of its clause (03 R84). -/
def lastSlot (x : Group) : Bool := x.clause.length ≤ slotNo x + 2

/-- Where the pc goes past the present instruction (02 R32, 03 R84). -/
def nextPc (x : Group) : Nat := if lastSlot x then (x.hdr + 8 * x.clause.length) % 2 ^ 57 else x.pc + 8

/-- The switch marker of the present instruction stops the group: results are outstanding (02 R36). -/
def stopsHere (x : Group) : Bool := marked x (slotNo x) && x.pend.any fun p => isResult p.kind

/-- The park of a switch marker, at the pc the group has reached. -/
def markerPark (x : Group) (pc : Nat) : ParkRec := { cause := .marker, mask := x.em, pc := pc }

/-- Group g goes past its present instruction: to the next slot or the clause that follows; at a switch marker with results
outstanding it parks there. In the middle of a clause, the results it kept out of the bank are then written there; at the
end of one they are not (04 R103). -/
structure Passes (s t : State) (g : Nat) : Prop where
  moves : Moves s t g
  still : ¬ (stopsHere (s.grp g) ∧ ¬ lastSlot (s.grp g)) → Still s t g
  pc : (t.grp g).pc = nextPc (s.grp g)
  st : (t.grp g).st = if stopsHere (s.grp g) then .parked else .eligible
  seq : (t.grp g).seq = (s.grp g).seq + 1
  window : (t.grp g).window = if lastSlot (s.grp g) || stopsHere (s.grp g) then [] else (s.grp g).window
  pend : (t.grp g).pend = if lastSlot (s.grp g) then (s.grp g).pend.map dropK
    else if stopsHere (s.grp g) then (s.grp g).pend.map (fun p => { p with k := false }) else (s.grp g).pend
  park : stopsHere (s.grp g) → (t.grp g).park = some (markerPark (s.grp g) (nextPc (s.grp g)))

/-- Group g goes on at the clause at address a, and parks before it at a switch marker with results outstanding
(03 R86 to R91, 02 R36). -/
structure Jumps (s t : State) (g a : Nat) : Prop where
  moves : Moves s t g
  still : Still s t g
  pc : (t.grp g).pc = a % 2 ^ 57
  st : (t.grp g).st = if stopsHere (s.grp g) then .parked else .eligible
  running : (t.grp g).running = false
  seq : (t.grp g).seq = (s.grp g).seq + 1
  window : (t.grp g).window = []
  pend : (t.grp g).pend = (s.grp g).pend.map dropK
  park : stopsHere (s.grp g) → (t.grp g).park = some (markerPark (s.grp g) (a % 2 ^ 57))

/-- The instruction is in flight with these flags; it retires when its latency l has passed (05 R139). -/
def Flies (s t : State) (g l : Nat) (fl : BitVec 4) : Prop :=
  (t.grp g).inflight = (s.grp g).inflight ++ [((s.core (g / 32)).cyc.toNat + l - 1, fl)]

/-! ### How an instruction completes -/

/-- Instruction i completes: the state e with its own effect, and the group goes past it; it retires after latency l with
the flags fl. -/
def Completes (i : Instr) (s e : State) (l : Nat) (fl : BitVec 4) : Prop :=
  ∃ t, exec i s = .next t ∧ Passes e t s.cur ∧ Flies e t s.cur l fl

/-- Instruction i completes without a result that waits for its latency: one that issues work of variable latency, or none. -/
def Issues (i : Instr) (s e : State) : Prop :=
  ∃ t, exec i s = .next t ∧ Passes e t s.cur ∧ (t.grp s.cur).inflight = (e.grp s.cur).inflight

/-- Instruction i completes with a transfer of control: the state e with its own effect, and the group goes on at a. -/
def Transfers (i : Instr) (s e : State) (a : Nat) : Prop :=
  ∃ t, exec i s = .next t ∧ Jumps e t s.cur a ∧ Flies e t s.cur 1 0

/-- Instruction i completes and writes v to scalar n; s127 discards it, and every other scalar reads as before. -/
def SetsScalar (i : Instr) (s : State) (n : Nat) (v : DWord) (l : Nat) : Prop :=
  ∃ t, exec i s = .next t ∧ Passes (writeS s s.cur n v) t s.cur ∧ Flies (writeS s s.cur n v) t s.cur l 0 ∧
    ∀ m, readS t s.cur m = if m = 127 then 0 else if m = n then v else readS s s.cur m

/-- Instruction i completes and answers scalars and predicates: outstanding work with these results is on its way, a
predicate all ones or all zeros below GW (12 R324). -/
def Answers (i : Instr) (s e : State) (sregs : List (Nat × DWord)) (preds : List (Nat × Bool)) : Prop :=
  let x := e.grp s.cur
  let ps := preds.map fun p => (p.1, BitVec.allOnes 64, if p.2 then lowMask x.gw else 0)
  let u := addPend e s.cur { kind := .sync, sregs := sregs, preds := ps }
  Issues i s { u with agenda := u.agenda ++ [.event (.atomicReturn (s.cur / 32) (s.cur % 32) x.seq)] }

/-- Instruction i traps with a code, an address and the lanes for which the cause holds (13 R355); `done` says that the
trap state is the next one, or that the fault record fell outside device memory. -/
def Traps (i : Instr) (s : State) (code addr : Nat) (lanes : Mask) : Prop :=
  exec i s = done (trap s s.cur code addr lanes)

/-! ### Operands -/

/-- Operand B of format S: the sign-extended immediate with I = 1, else scalar SB (02 R43). -/
def operandB (s : State) (f : FmtS) : DWord :=
  if f.i then f.imm.signExtend 64 else readS s s.cur f.sb.toNat

/-- The store-local address of `sld` and `sst` (04 R111). -/
def localAddr (s : State) (f : FmtS) : Nat :=
  (readS s s.cur f.sa.toNat + f.imm.signExtend 64).toNat

/-- A group that has parked for a cause at its instruction, its masks, stack and registers as they were but for its own K
results, and an agent told of it. -/
def ParkedFor (s t : State) (g : Nat) (cause : Cause) (told : Instr) : Prop :=
  let x := s.grp g
  let y := t.grp g
  y.st = .parked ∧ (∃ r, y.park = some r ∧ r.cause = cause ∧ r.pc = x.pc ∧ r.woken = false) ∧
    y.em = x.em ∧ y.live = x.live ∧ y.stack = x.stack ∧ y.sregs = x.sregs ∧ y.preds = x.preds ∧ y.tregs = x.tregs ∧
    .event told ∈ t.agenda

/-! ### Vector instructions -/

open Wf

/-- The format-V word and the use of its fields, of an instruction of formats V and VI (02 R40, R42, 04 R112, R117,
06 R144). -/
def vForm : Instr → Option (FmtV × VUse)
  | .iadd f => some (f, binUse f.ty) | .isub f => some (f, binUse f.ty) | .imul f => some (f, binUse f.ty)
  | .imad f => some (f, use f.ty.opk f.ty.opk f.ty.opk f.ty.opk .inB)
  | .imulh f => some (f, binUse f.ty) | .idiv f => some (f, binUse f.ty)
  | .ineg f => some (f, unUse f.ty) | .iabs f => some (f, unUse f.ty)
  | .imin f => some (f, binUse f.ty) | .imax f => some (f, binUse f.ty)
  | .and f => some (f, bin32) | .or f => some (f, bin32) | .xor f => some (f, bin32) | .not f => some (f, un32)
  | .shl f => some (f, shiftUse f.ty) | .shr f => some (f, shiftUse f.ty) | .sar f => some (f, shiftUse f.ty)
  | .rot f => some (f, bin32) | .bfe f => some (f, bin32) | .bfi f => some (f, tern32)
  | .popc f => some (f, un32) | .clz f => some (f, un32) | .ctz f => some (f, un32) | .brev f => some (f, un32)
  | .icmp f => some (f, use .predDst f.ty.opk f.ty.opk .unused .inB)
  | .sel f => some (f, use f.ty.opk f.ty.opk f.ty.opk .predSrc .inB)
  | .mov f => some (f, use f.ty.opk f.ty.opk .unused .unused .inA)
  | .movi f => some (viAsV f, use .r32 .unused .unused .unused .noScalar) | .movh f => some (viAsV f, un32)
  | .lea f => some (f, shiftUse f.ty) | .plog f => some (f, use .predDst .predSrc .predSrc .unused .noScalar)
  | .shfl f => some (f, shflUse f.ty) | .matchV f => some (f, use .r64 f.ty.opk .unused .unused .noScalar)
  | .vote f => some (f, if f.fn = 3 then use .r64 .predSrc .unused .unused .dest
      else use .predDst .predSrc .unused .unused .noScalar)
  | .scan f => some (f, unUse f.ty) | .redux f => some (f, use f.ty.opk f.ty.opk .unused .unused .dest)
  | .bcast f => some (f, bcastUse f.ty)
  | .lmul f => some (f, bin32) | .ldiv f => some (f, bin32) | .lrcp f => some (f, un32) | .lsqr f => some (f, un32)
  | .lsqrt f => some (f, un32) | .lpow f => some (viAsV f, un32) | .lscl f => some (f, bin32)
  | .lneg f => some (f, un32) | .labs f => some (f, un32) | .ladd f => some (f, bin32) | .lsub f => some (f, bin32)
  | .lmad f => some (f, tern32) | .lmin f => some (f, bin32) | .lmax f => some (f, bin32)
  | .lcmp f => some (f, use .predDst .r32 .r32 .unused .inB) | .lcls f => some (f, un32) | .lcvt f => some (f, un32)
  | .lfi f => some (f, use .r32 (if f.fn.toNat % 4 < 2 then .r32 else .r64) .unused .unused .noScalar)
  | .lti f => some (f, use (if f.fn.toNat % 4 < 2 then .r32 else .r64) .r32 .unused .unused .noScalar)
  | .lxf f => some (f, un32) | .lfx f => some (f, un32) | .lexp2 f => some (f, un32) | .llg2 f => some (f, un32)
  | .lpk f => some (f, if f.ty == .l8 then tern32 else bin32) | .lupk f => some (f, un32)
  | _ => none

/-- The register runs a format-V word names, in the order D, A, B, C. -/
def vRuns (f : FmtV) (u : VUse) : List (Nat × Nat) :=
  let r := vFields f u
  r.1 ++ r.2.1 ++ r.2.2.1 ++ r.2.2.2

/-- A run of registers lies within the group's counts (02 R51). -/
def within (x : Group) (p : Nat × Nat) : Prop :=
  (p.1 ≤ 191 → p.1 + p.2 ≤ x.nregs) ∧ (192 ≤ p.1 → p.1 ≤ 223 → p.1 + p.2 ≤ 192 + x.nhregs)

/-- Instruction i, of format V with fields f and use u, completes with the results o: when nothing stops it, its results
are written, and it retires after its latency with its flags; with a popped queue entry among its operands, its results
are delivered later. -/
def VGives (i : Instr) (s : State) (f : FmtV) (u : VUse) (tm : VTime) (o : VOut) : Prop :=
  vGate s f u = none →
    (vQueue f u = none → Completes i s (vEffect s f u tm o) tm.l o.fl) ∧
    ∀ q, vQueue f u = some q → Issues i s (vEffect s f u tm o)

/-- Results lane by lane: each active lane's from its own operands a, b and c. -/
def lanewise (s : State) (f : FmtV) (u : VUse) (op : Nat → Nat → Nat → Nat) : VOut :=
  { vals := (vLanes s f).map fun i =>
      (i, op (vOperands s f u i).1 (vOperands s f u i).2.1 (vOperands s f u i).2.2) }

/-- Results with flags, which are ORed over the active lanes (06 R147). -/
def flagwise (s : State) (f : FmtV) (u : VUse) (op : Nat → Nat → Nat → Nat × Flags) : VOut :=
  let r (i : Nat) := op (vOperands s f u i).1 (vOperands s f u i).2.1 (vOperands s f u i).2.2
  { vals := (vLanes s f).map fun i => (i, (r i).1), fl := (vLanes s f).foldl (fun a i => a ||| (r i).2) 0 }

/-- Results of log values: the operands decoded, the result encoded. -/
def logwise (s : State) (f : FmtV) (u : VUse) (op : LV → LV → LV → LV × Flags) : VOut :=
  let t := Log.fmtOf f.ty
  flagwise s f u fun a b c =>
    let r := op (Log.decode t a) (Log.decode t b) (Log.decode t c)
    (Log.encode t r.1, r.2)

/-- The integer an operand of type TY stands for (04 R112, R113). -/
def intOf (ty : Ty) (v : Nat) : Int :=
  match ty with
  | .i32 => (BitVec.ofNat 32 v).toInt
  | .i64 => (BitVec.ofNat 64 v).toInt
  | .n64 => ((BitVec.ofNat 64 v).toNat : Int)
  | _ => ((BitVec.ofNat 32 v).toNat : Int)

/-- The least and the greatest value of an integer type. -/
def leastOf (ty : Ty) : Int :=
  match ty with
  | .i32 => -2147483648 | .i64 => -9223372036854775808 | _ => 0
def greatestOf (ty : Ty) : Int :=
  match ty with
  | .i32 => 2147483647 | .i64 => 9223372036854775807 | .n64 => 18446744073709551615 | _ => 4294967295

/-- The result x of the common operation: saturated with FN = 1, then taken modulo 2^w (04 R113). -/
def narrowed (f : FmtV) (x : Int) : Nat :=
  let y := if f.fn = 1 then (if x < leastOf f.ty then leastOf f.ty else if greatestOf f.ty < x then greatestOf f.ty else x) else x
  (y % (2 : Int) ^ f.ty.width).toNat

/-- The mode of the final Pack (06 R147). -/
def packMode (f : FmtV) : Nat := if f.fn = 1 then 2 else 0

/-- The kinds of a log value, its sign (NaN has none) and the L of a finite value (05 R122). -/
def nanV : LV → Bool
  | .nan => true | _ => false
def infV : LV → Bool
  | .inf _ => true | _ => false
def zeroV : LV → Bool
  | .zero _ => true | _ => false
def signV : LV → Bool
  | .nan => false | .inf s => s | .zero s => s | .fin s _ => s
def lOf : LV → Int
  | .fin _ l => l | _ => 0

/-- Pack of an exact sign and L in a format and mode (05 R123): in range the value; above it infinity, or the largest value in
modes 1 and 2, with OV; below it zero, or the smallest value in mode 1, with UF. -/
def packed (t : LFmt) (mode : Nat) (s : Bool) (l : Int) : LV × Flags :=
  if (2 : Int) ^ (t.lbits - 1) - 1 < l then (if mode = 0 then .inf s else .fin s ((2 : Int) ^ (t.lbits - 1) - 1), 1)
  else if l < -(2 : Int) ^ (t.lbits - 1) then (if mode = 1 then .fin s (-(2 : Int) ^ (t.lbits - 1)) else .zero s, 2)
  else (.fin s l, 0)

/-- n is the integer nearest to the real x = p / q, ties to even (02 R59, RNE). -/
def nearest (p q : Int) : Int :=
  let k := p.fdiv q
  let r := 2 * (p - k * q)
  if r < q then k else if q < r then k + 1 else if k % 2 = 0 then k else k + 1

/-- Below, at or above: the order of two values that are not NaN, by value, the zeros equal (05 R130). -/
def below (a b : LV) : Bool :=
  match a, b with
  | .inf true, .inf true => false
  | .inf true, _ => true
  | _, .inf true => false
  | .inf false, _ => false
  | _, .inf false => true
  | .fin true l, .fin true m => m < l
  | .fin true _, _ => true
  | _, .fin true _ => false
  | .zero _, .fin false _ => true
  | .fin false l, .fin false m => l < m
  | _, _ => false

/-- The magnitude of a value. -/
def magnitude : LV → LV
  | .nan => .nan | .inf _ => .inf false | .zero _ => .zero false | .fin _ l => .fin false l

/-- A value with its L times k. -/
def scaleL (k : Int) : LV → LV
  | .fin s l => .fin s (k * l)
  | v => v

/-- The product of two values with its exact L and no range limit (06 R150). -/
def exactProduct (a b : LV) : LV × Flags :=
  let sg := signV a ^^ signV b
  if nanV a ∨ nanV b then (.nan, 0)
  else if (zeroV a ∧ infV b) ∨ (infV a ∧ zeroV b) then (.nan, 8)
  else if infV a ∨ infV b then (.inf sg, 0)
  else if zeroV a ∨ zeroV b then (.zero sg, 0)
  else (.fin sg (lOf a + lOf b), 0)

/-! ### Memory access -/

/-- A place the part can reach: the store window, device memory below its end, a peer or the host (09 R221). -/
def Reachable (pl : Place) (n : Nat) : Prop :=
  ∀ p ∈ placePieces pl n, p.2.pr = true ∨ p.2.hb = true ∨ p.2.pa + p.1 ≤ Config.hbmBytes

/-- The active lanes of an access resolved, and the words it reads first. -/
def resolved (s : State) (q : AReq) : State × List (Nat × LaneX) := resolveLanes s s.cur q (laneList s q)
def firstWords (s : State) (q : AReq) : State × Tab Nat × Option (Nat × WordX) :=
  readWords (resolved s q).1 s.cur ((laneList s q).filterMap q.words).eraseDups []

/-- The lanes of an access performed. -/
def performed (s : State) (q : AReq) (lane : AOut → Nat → Place → AOut) : AOut :=
  performLanes (firstWords s q).1 q (firstWords s q).2.1 (resolved s q).2 lane

/-- Nothing stops an access, and no address it reaches lies beyond device memory: its registers and operands are in order,
every active lane resolves, or may be dropped, nothing traps, a release has no store to a peer to wait for, and every page
entry it may write lies in device memory. -/
structure Clear (s : State) (q : AReq) : Prop where
  start : s.noMem = none
  gate : accessGate s q = none
  lanes : ∀ l ∈ (resolved s q).2,
    (∃ a p, l.2 = .ok a p ∧ Reachable p q.bytes) ∨ (q.drop = true ∧ ∃ a, l.2 = .absent a)
  traps : accessTrap (resolved s q).1 s.cur q (resolved s q).2 = none
  peers : peerRelease (resolved s q).1 s.cur q (resolved s q).2 = false
  words : (firstWords s q).2.2 = none
  walks : (firstWords s q).1.noMem = none
  pages : ∀ e ∈ ((firstWords s q).1.core (s.cur / 32)).tlb, e.entry < Config.hbmBytes

/-- Instruction i, an access with request q, completes when nothing stops it and every lane is performed: what it leaves
outstanding is delivered later. -/
def Accesses (i : Instr) (s : State) (q : AReq) (pd : Option Nat) (lane : AOut → Nat → Place → AOut) : Prop :=
  Clear s q → (performed s q lane).fmt = [] → (performed s q lane).wrong = [] →
    ∃ t, exec i s = .next t ∧ Passes (accessWork (afterLanes q (resolved s q).2 (performed s q lane)) q (performed s q lane) pd true) t s.cur

/-- The first n elements converted one by one: their codes side by side, db bytes each, and their flags together. -/
def converted (step : Nat → Nat × Flags) (db n : Nat) : Nat × Flags :=
  ((List.range n).foldl (fun a k => a + (step k).1 * 2 ^ (8 * db * k)) 0,
   (List.range n).foldl (fun a k => a ||| (step k).2) 0)

/-- The cores whose stores hold a store-local address of a team: both of a pair for its team registers (04 R99). -/
def holders (t : Team) (core off : Nat) : List Nat :=
  if t.pair && inTeamRegs t off then [t.core, t.core + 1] else [storeCore t core off]

/-- No watchpoint of a group is armed (13 R360). -/
def unwatched (x : Group) : Prop := x.trap.wpc.getLsbD 0 = false ∧ x.trap.wpc.getLsbD 8 = false

/-- Every active lane of a store-window access lies in the window at its alignment. -/
def InWindow (s : State) (f : FmtM) : Prop :=
  let x := s.grp s.cur
  let t0 := tget x.tregs {} 0
  f.t = 0 ∧ t0.val = true ∧ ∀ i ∈ laneList s (memReq s f true false),
    0 ≤ laneOffset s s.cur f i ∧ laneOffset s s.cur f i + (2 : Int) ^ f.sz.toNat ≤ t0.limit ∧
      ((t0.vbase : Int) + laneOffset s s.cur f i) % (2 : Int) ^ f.sz.toNat = 0

/-- The atomics: their fields, the register operands they read, how they travel, and what the word holds after them, from
the old value v, the operand b and the comparand c, with their flags (09 R239). -/
def atomForm : Instr → Option (FmtA × Bool × Bool × Travel × (Nat → Nat → Nat → Nat × Flags))
  | .aadd f => some (f, true, false, .op .fetchAdd, fun v b _ => ((v + b) % 2 ^ f.ty.width, 0))
  | .amin f => some (f, true, false, .message 0x81,
      fun v b _ => ((if intOf f.ty v ≤ intOf f.ty b then v else b) % 2 ^ f.ty.width, 0))
  | .amax f => some (f, true, false, .message 0x82,
      fun v b _ => ((if intOf f.ty v ≤ intOf f.ty b then b else v) % 2 ^ f.ty.width, 0))
  | .aand f => some (f, true, false, .message 0x83, fun v b _ => (v &&& b, 0))
  | .aor f => some (f, true, false, .message 0x84, fun v b _ => (v ||| b, 0))
  | .axor f => some (f, true, false, .message 0x85, fun v b _ => (v ^^^ b, 0))
  | .axchg f => some (f, true, false, if f.ty = .l16 then .message 0x86 else .op .swap, fun _ b _ => (b, 0))
  | .acas f => some (f, true, true, if f.ty = .l16 then .message 0x87 else .op .cas, fun v b c => (if v = c then b else v, 0))
  | .adecp f => some (f, false, false, .message 0x88, fun v _ _ => (if 0 < intOf f.ty v then v - 1 else v, 0))
  | .afmax f => some (f, true, false, .message 0x89, fun v b _ =>
      let t := Log.fmtOf f.ty
      let x := Log.decode t v
      let y := Log.decode t b
      (Log.encode t (if nanV x ∨ nanV y then .nan
        else if f.c = 1 then (if below (magnitude x) (magnitude y) then magnitude y else magnitude x)
        else if below x y then y else if below y x then x else if !signV x then x else if !signV y then y else x), 0))
  | .ladda f => some (f, true, false, .message 0x8A, fun v b _ =>
      let t := Log.fmtOf f.ty
      let r := Log.gla t (if f.c = 1 then 2 else 0) (Log.decode t v) (Log.decode t b)
      (Log.encode t r.1, r.2))
  | _ => none

/-- Every core's L1 is clean, every L2 line is listed once, and a byte of it that is valid and not dirty is as HBM holds it:
what the part's own operations keep between accesses that reach the home. -/
def Settled (s : State) : Prop :=
  (∀ c, ∀ x ∈ (s.core c).l1, x.dirty = 0) ∧ (s.l2.map (·.line)).Nodup ∧
  ∀ l ∈ s.l2, ∀ o, o < 256 → l.valid.getLsbD (o / 32) = true → l.dirty.getLsbD o = false →
    (lineByte l.data o).toNat = hbmLine s l.line / 2 ^ (8 * o) % 256

/-- The n bytes from a lie in one line of the L2, and a core's TLB maps their page to p in device memory; no word of them has
an uncorrectable error. -/
def Resident (s : State) (core ctx a n : Nat) (p : Phys) : Prop :=
  a + n ≤ 2 ^ 57 ∧ a % 256 + n ≤ 256 ∧
  (∃ t, ((s.core core).tlb.find? fun t => t.ctx == ctx && t.page == a / 65536) = some t ∧ leafPhys t.leaf t.big a = p) ∧
  p.pr = false ∧ p.hb = false ∧ p.pa < Config.hbmBytes ∧ memBad s p.pa n = false ∧ ∃ l ∈ s.l2, l.line = p.pa / 256

/-- The page of a may be written and has been, and its line carries no tag of a release. -/
def Writable (s : State) (core ctx a : Nat) (p : Phys) : Prop :=
  p.w = true ∧ (∀ t ∈ (s.core core).tlb, t.ctx = ctx → t.page = a / 65536 → t.dirty = true) ∧
  ∀ l ∈ s.l2, l.line = p.pa / 256 → l.promo = none

/-! ### Tasks, batches and steps of the command processor -/

/-- The continuation, phase and team tasks of a furrow whose contexts run (12 R319). -/
def contTask (s : State) (f : FEntry) : Bool :=
  entryRuns s f && match f.task with
    | .cont _ _ => true | .team _ => false | .phase _ _ => false
def phaseTask (s : State) (f : FEntry) : Bool :=
  entryRuns s f && match f.task with
    | .phase _ _ => true | .team _ => false | .cont _ _ => false
def teamTask (s : State) (f : FEntry) : Bool := isTeamTask s f && entryRuns s f

/-- The groups of a first batch, as target and number, and the lanes of one with their origins (03 R92). -/
def batchJobs (ths : List (Nat × Nat × Nat)) (slots : Nat) : List (Nat × Nat) :=
  (batchTargets slots (groupsNeeded ths) (sortBy (fun a b => a ≤ b) (ths.map Prod.fst).eraseDups) 0).flatMap fun a =>
    (List.range (groupsNeeded ths a)).map fun k => (a, k)
def jobLanes (ths : List (Nat × Nat × Nat)) (a k : Nat) : Tab Nat :=
  (List.range 64).filterMap fun i => ((threadsAt ths a i)[k]?).map fun o => (i, o)

/-- The eight doublewords of a task record at the place p, and the state after they are read (12 R307). -/
def recordAt (s : State) (c : Nat) (p : Phys) : State × List DWord :=
  (List.range 8).foldl (fun (acc : State × List DWord) j =>
    let v := cpLoad acc.1 c { p with pa := p.pa + 8 * j } 8
    (v.1, acc.2 ++ [BitVec.ofNat 64 v.2])) (s, [])

/-- The launches that wait to be placed whole, and the plan for one of them (12 R322). -/
def gangs (s : State) : List (Nat × Launch) :=
  s.launches.filter fun e => e.2.gangWait && !e.2.ended && !e.2.aborted && (s.ctx e.2.ctx).state == 0
def gangPlan (s : State) (l : Nat) (x : Launch) : Option (List (Nat × Nat)) :=
  let h := shapeOf x.dw
  planTeams s h (fun u => roomOf s u h.pair)
    (fun u n => unitOpen s l u h.pair && energyFits s (u / 16) (recEnergy x.dw) (recPcc x.dw) n)
    ((s.teams.filter fun p => p.2.launch == l).map fun p => (p.1, p.2.cluster)) [] []

/-- A team whose last group has exited, retired, before DONE of its launch is written (01 R25, 10 R254). -/
def retiredTeam (s : State) (n : Nat) : State :=
  let t := s.team n
  let v := eachDo (if t.pair then [t.core, t.core + 1] else [t.core]) s l1WriteAll
  let gone := (s.launch t.launch).aborted
  let held := teamLocal v n
  let v := v.modTeam n fun y =>
    { y with st := .retired, reserved := false, windowHeld := held, finished := y.finished || gone }
  let v := if held then v else dropCarve v t
  let v := v.modLaunch t.launch fun y => { y with nret := if gone then y.nret else y.nret + 1 }
  v.modLaunch t.launch fun y => { y with reserved := (unitsLeft v t.launch).eraseDups }

/-- The groups of a context's teams that have not exited. -/
def ctxGroups (s : State) (c : Nat) : List Nat :=
  ((s.teams.filter fun e => e.2.ctx == c && e.2.st != .none).map Prod.fst).flatMap fun tm => liveGroups s tm

/-- Vector v of a function has been raised from s to t: its message has left, or its pending bit is set while the vector is
masked (16 R404, R405). -/
def Raised (s t : State) (fn v : Nat) : Prop :=
  if (s.fn fn).vmask.getLsbD v then (t.fn fn).pba.getLsbD v = true else .msix fn v ∈ t.outbox

/-- The team parks nowhere with all its groups: one that has not exited waits for no wide barrier (15 R389). -/
def hasWork (s : State) (tm : Nat) : Bool :=
  (liveGroups s tm).any fun g => !((s.grp g).park.any fun r => wideCause r.cause)

end Sys2Proof.Claims
end

