-- ==== Sys2Proof/Certificates/Slice0/Obligations.lean ====
section
/-! DEFINITION. The statements about the part. -/

open Sys2Proof Sys2Proof.Machine Sys2Proof.Machine.State Sys2Proof.Claims
/-! ### Encodings (02 R31 to R57) -/

/-- 02 R38 to R50: decoding the word of a legal instruction gives it back, every field at every value the encoding admits. -/
def Obligations.DecodeEncode : Prop :=
  ∀ (i : Instr) (w : DWord), i.encFault = none → encode i = some w → decodeWord w = .ok i

/-- 02 R38 to R50: a word that decodes is the word of the instruction it gives, and that instruction is legal: no bit of it
is dropped. -/
def Obligations.EncodeDecode : Prop :=
  ∀ (w : DWord) (i : Instr), decodeWord w = .ok i → encode i = some w ∧ i.encFault = none

/-- 02 R56: what becomes of every opcode the map does not assign; a word is a header exactly when its bits [63:60] are 0xF, and no
instruction decodes from one. 02 R40, R43, R44, R45, R46, R47, R48, R49: words written out from the layouts decode to the
instructions they stand for. -/
def Obligations.DecodedWords : Prop :=
  (∀ w : DWord,
    let op := (w.extractLsb' 56 8).toNat
    (isHeader w = true ↔ 0xF0 ≤ op) ∧
    (0xF0 ≤ op → decodeWord w = .error .tagSpace) ∧
    (op < 0xF0 → (op ∈ [0x0F, 0x3F, 0x66, 0x67] ∨ (0x59 ≤ op ∧ op ≤ 0x5F) ∨ (0x72 ≤ op ∧ op ≤ 0x7F) ∨
        (0x8B ≤ op ∧ op ≤ 0x8F) ∨ (0x9A ≤ op ∧ op ≤ 0x9F) ∨ (0xA6 ≤ op ∧ op ≤ 0xAF) ∨ (0xB6 ≤ op ∧ op ≤ 0xBF) ∨
        0xCA ≤ op) →
      decodeWord w = .error .unassigned) ∧
    ∀ i, decodeWord w = .ok i → isHeader w = false) ∧
  (decodeWord 0x20005060700FE000 = .ok (.iadd ⟨false, 0, 5, 6, 7, 0, 127, false, false, .i32, 0⟩) ∧
  decodeWord 0x3BA0900FFFFFF100 = .ok (.movi ⟨true, 2, 9, 0, 0xFFFFFF, false, .b32, 0⟩) ∧
  decodeWord 0x1000414040000005 = .ok (.sadd ⟨2, 5, 0, true, 5⟩) ∧
  decodeWord 0x6800822285000010 = .ok (.ld ⟨false, 0, 8, 0x22, 1, 2, 0, 1, 1, 0, 0, false, 16⟩) ∧
  decodeWord 0x87008090A0B53000 = .ok (.acas ⟨false, 0, 8, 9, 10, 11, 2, 2, 1, true, .i32⟩) ∧
  decodeWord 0x02B10004FFFFFFFE = .ok (.brx ⟨true, 3, 1, 4, 0xFFFFFFFE⟩) ∧
  decodeWord 0xA004000003012000 = .ok (.mmla ⟨false, 0, 64, 0, 3, 0, 9, 0, 0⟩) ∧
  decodeWord 0xB000820300000000 = .ok (.cpq ⟨4, 2, 3, 0⟩) ∧
  decodeWord 0xC40000000100E000 = .ok (.srd ⟨false, 0, 0, 0, 0, 0x10, 7, 0⟩))

/-! ### Steps -/

/-- A step performs the oldest event that is due (log entry 1); with none due, the group in turn that may issue runs the instruction
the bytes at its program counter decode to, with its port granted (03 R72 to R75), and its team is charged for the banks
(15 R386); an instruction held at a unit gives its grant back, but for a `gbar` whose request has left (12 R333) and, under
DETROT, for one that lacks credit (07 R185). -/
def Obligations.StepRuns : Prop :=
  (∀ (s : State) (i : Instr) (r : List Turn), s.agenda = .event i :: r → step s = exec i { s with agenda := r }) ∧
  (∀ (s : State) (g : Nat) (r : List Nat) (w : DWord) (i : Instr),
    let l := (clockCores s s.curCore).headD s.curCore
    let c := g / 32
    let u := s.modCore l fun k => { k with turn := r }
    let x := u.grp g
    let n := u.modGrp g fun y => { y with memHeld := false }
    let v : State := { (n.modCore c fun k => takeGrant k (portOf i)) with curCore := c, curSlot := g % 32 }
    let stays (t : State) : Prop :=
      (t.grp g).st = .held ∧ (t.grp g).running = true ∧ (t.grp g).seq = x.seq ∧ t.greqs.length ≤ s.greqs.length
    let kept (t : State) : Prop := policyOf t c = 2 ∧ g % 32 ∈ (t.core c).creditFirst
    s.agenda = [] → (s.core l).turn = g :: r → x.running = true → x.exiting = false → x.st ≠ .parked → x.st ≠ .free →
    x.issueAt ≤ (u.core c).cyc.toNat → issueWord x = some w → decodeWord w = .ok i → latchHazard u g i = false →
    held u g i = false → grantsLeft (u.core c) (portOf i) ≠ 0 →
      (∀ t, exec i v = .next t → ¬ stays t →
        step s = .next (if (t.grp g).seq = x.seq ∨ (t.grp g).st = .free then t else charge t g (bankEnergy (v.grp g) i))) ∧
      (∀ t, exec i v = .next t → stays t → kept t → step s = .next t) ∧
      (∀ t, exec i v = .next t → stays t → ¬ kept t →
        step s = .next (t.modCore c fun k => { k with grants := (n.core c).grants })) ∧
      (∀ f, exec i v = .fault f → step s = .fault f) ∧
      ∀ f, exec i v = .refused f → step s = .refused f)

/-- 03 R75: in a clause whose words have passed the slot checks, an instruction with an unmet dependence, or without a free port,
is held where it stands. 02 R33 to R37, R55, R57: a clause is fetched and checked whole before its first issue: the legal headers,
what fails the checks of a slot, and the first fault in the order header, TH, RG, slots, timing class traps with TPC at the header
and TADDR at the failing word; a clause that passes runs, or is held for its WAIT conditions where it is entered at its header. A
page that is absent parks the group, a word that cannot be fetched traps, and so does a word that is no header. That TH comes
before an RG without its branch, that only a word that decodes counts as that branch, and that a regroup branch with RG = 0 fails
at its own slot are the model's choice (log entry 54). -/
def Obligations.IssueHoldsAndTraps : Prop :=
  (∀ (s : State) (g : Nat) (w : DWord) (h : Header) (det : Bool),
    let x := s.grp g
    x.running = true → x.exiting = false → x.st ≠ .parked → x.st ≠ .free →
    x.issueAt ≤ (s.core (g / 32)).cyc.toNat → issueWord x = some w →
    (∀ j v, (x.clause.drop 1)[j]? = some v → slotFault h det x.gw j v = none) →
      ∃ i, decodeWord w = .ok i ∧
        (latchHazard s g i = false → (held s g i = true ∨ grantsLeft (s.core (g / 32)) (portOf i) = 0) →
          ∃ t, issue s g = .next t ∧ t.grp g = { x with st := .held, memHeld := memoryHolds s g i } ∧
            (∀ k, k ≠ g → t.grp k = s.grp k) ∧ (∀ c, { t.core c with slots := (s.core c).slots } = s.core c) ∧
            { t with cores := s.cores } = s)) ∧
  (∀ h : DWord, headerLegal h = true ↔
    (h.extractLsb' 60 4 = 15 ∧ (h.extractLsb' 56 4).toNat ≤ 3 ∧ h.extractLsb' 48 2 = 0 ∧ h.extractLsb' 32 8 = 0 ∧
      h.extractLsb' 8 3 = 0 ∧ h.extractLsb' 0 8 = 0 ∧
      ∀ j, j < 16 → h.getLsbD (16 + j) = true → j < (h.extractLsb' 52 4).toNat + 1)) ∧
  (∀ (h : Header) (det : Bool) (gw j : Nat) (w : DWord),
    (∀ e, decodeWord w = .error e →
      slotFault h det gw j w = some (if e = .enc .matrixFmt then 0x0C else if e = .enc .veneer then 0x0B else 0x01)) ∧
    ∀ i, decodeWord w = .ok i →
      let bad := laneFault gw i = true ∨ (i.endsClause = true ∧ j + 1 ≠ h.n) ∨ (i.isJoin = true ∧ ¬ (j = 0 ∧ h.jn = true)) ∨
        (i.isJoin = false ∧ j = 0 ∧ h.jn = true) ∨ (i.isRegroup = true ∧ h.rg = false) ∨ (i.ec ≠ 0 ∧ i.ec ≠ h.ec) ∨
        (det = true ∧ i.dsSensitive = true ∧ h.ds = false)
      (bad → slotFault h det gw j w = some 0x01) ∧ (¬ bad → slotFault h det gw j w = none)) ∧
  (∀ (s u : State) (g a pc : Nat) (rows : BitVec 4) (h : DWord) (ws : List DWord),
    let x := u.grp g
    let d := headerOf h
    let fault (j : Nat) : Option Nat := (ws[j]?).bind fun w => slotFault d (isDet u g) x.gw j w
    let tooHigh (j : Nat) : Prop := ∃ w i, ws[j]? = some w ∧ decodeWord w = .ok i ∧ d.tcx < i.tc
    let regroup : Prop := ∃ w ∈ ws, ∃ i, decodeWord w = .ok i ∧ i.isRegroup = true
    let priv : Prop := d.th = true ∧ x.trap.hmode = false
    let trapped (code at_ : Nat) : Prop := beginClause s g a pc rows = trapAt u g code at_ x.em a a
    clauseWords s g a = (u, h :: ws, none) →
      (isHeader h = false → x.came = none → ¬ (x.trap.hmode = true ∧ a = (u.ctx (u.ctxOf g)).tvec) →
        trapped (if a = fld (dwOf (u.launchOf g).dw 1) 0 57 ∧ x.seq = 0 then 0x02 else 0x01) a) ∧
      (isHeader h = true → headerLegal h = false → trapped 0x01 a) ∧
      (headerLegal h = true →
        (priv → trapped 0x03 a) ∧
        (¬ priv → d.rg = true → ¬ regroup → trapped 0x01 a) ∧
        (¬ priv → (d.rg = true → regroup) →
          (∀ j c, (∀ k, k < j → fault k = none) → fault j = some c → trapped c (a + 8 * (j + 1))) ∧
          ((∀ k, fault k = none) →
            (∀ j, (∀ k, k < j → ¬ tooHigh k) → tooHigh j → trapped 0x04 (a + 8 * (j + 1))) ∧
            ((∀ j, ¬ tooHigh j) →
              (x.hdr = 0 → waitOk x d.wait = false →
                beginClause s g a pc rows = u.setGrp g { x with st := .held, came := none }) ∧
              (x.hdr ≠ 0 ∨ waitOk x d.wait = true →
                beginClause s g a pc rows = u.setGrp g { x with
                  running := true, rows := rows, tail := none, hdr := a, clause := h :: ws, pc := pc, st := .eligible,
                  came := none })))))) ∧
  (∀ (x : Group) (w : BitVec 8), waitOk x w = true ↔
    ∀ b k, (b, k) ∈ [(7, PKind.load), (6, .store), (5, .matrix), (4, .copySub), (3, .atomic), (3, .cpf), (3, .sync), (2, .pop),
      (1, .peerStore), (0, .mldb)] → w.getLsbD b = true → ∀ p ∈ x.pend, p.kind ≠ k) ∧
  (∀ (s u : State) (g a b pc : Nat) (rows : BitVec 4) (ws : List DWord) (e : FetchX),
    let x := u.grp g
    clauseWords s g a = (u, ws, some (b, e)) →
      (e = .absent → ∃ r, ((beginClause s g a pc rows).grp g).park = some r ∧ r.cause = .pages (u.ctxOf g) [b / 65536] ∧
        r.pc = a ∧ r.mask = x.em ∧ ((beginClause s g a pc rows).grp g).st = .parked) ∧
      (e = .ecc → beginClause s g a pc rows = trapAt u g 0x0E b x.em a a) ∧
      (e = .prot → ¬ (x.trap.hmode = true ∧ a = (u.ctx (u.ctxOf g)).tvec) →
        beginClause s g a pc rows = trapAt u g 0x06 a x.em a a) ∧
      (e = .malformed → beginClause s g a pc rows = trapAt (malformedRecord u g b 1) g 0x06 a x.em a a))

/-! ### Reset -/

/-- 03 R80, 16 R405, R406, R407: registers with a reset value have it after reset: the core counters, the context and the
device registers; no context is enabled, and no group, team or launch exists (08 R194, 00 R2). That every byte then reads as 0 is
the model's choice (log entry 3); 336 cores are enabled. -/
def Obligations.ResetState : Prop :=
  (let s := State.reset
  (∀ c, (s.core c).cyc = 0 ∧ (s.core c).elt = 0 ∧ (s.core c).ce = 0 ∧ (s.core c).trip = 95 ∧
    ∀ k, ((s.core c).slots = [] ∧ (s.grp (c * 32 + k)).st = .free)) ∧
  (∀ c, (s.ctx c).en = false ∧ (s.ctx c).state = 0 ∧ (s.ctx c).feretry = 1024 ∧ (s.ctx c).monquota = 16 ∧
    (s.ctx c).tvec = 0 ∧ (s.ctx c).mastat = 0 ∧ (s.ctx c).fqhead = 0 ∧ (s.ctx c).fqtail = 0 ∧ (s.ctx c).fqlost = 0) ∧
  (∀ t, (s.team t).st = .none) ∧ (∀ l, (s.launch l).st = 0) ∧
  s.dev.peermap = BitVec.allOnes 64 ∧ s.dev.provst = 0 ∧ s.dev.l2ce = 0 ∧ s.dev.up = 0 ∧ s.dev.trained = 0 ∧
  s.agenda = [] ∧ s.headland = [] ∧ s.monitors = [] ∧ s.faults = [] ∧ s.decs = []) ∧
  (State.reset.memWf = true ∧ State.reset.noMem = none ∧ (∀ a n, peek State.reset a n = 0) ∧ (∀ c a n, storeRead State.reset c a n = 0) ∧
  State.reset.empties = [] ∧
  ((List.range 352).filter fun c => State.reset.dev.enabled.getLsbD c).length = 336)

/-! ### Every step -/

/-- Every step keeps every memory of the part in its canonical form (log entry 3), and leaves no access beyond device memory
standing: such an access is a fault. -/
def Obligations.StepKeepsMemories : Prop :=
  ∀ s t : State, s.memWf = true → s.noMem = none → step s = .next t → t.memWf = true ∧ t.noMem = none

/-! ### Registers (02 R59) -/

/-- 02 R51, R59: what the special register numbers, s127 and p0 read, and that a write to s127 is discarded; a register v0 to
v191 reads the newest result the forwarding window holds for it, else its bank word (04 R103), h0 to h31 their words of the
store (04 R95), and `vlc` the logical core, modulo 4,096 outside deterministic launches (12 R307, 14 R372). -/
def Obligations.RegisterReads : Prop :=
  (∀ (s : State) (g i : Nat) (e : QEntry),
    readV s g e 240 i = 0 ∧ readV s g e 241 i = BitVec.ofNat 32 i ∧ readV s g e 242 i = BitVec.ofNat 32 (s.grp g).vgrp ∧
    readV s g e 243 i = BitVec.ofNat 32 (s.teamOf g).number ∧ readV s g e 245 i = BitVec.ofNat 32 (s.grp g).gw ∧
    (let core := fld (dwOf (s.launchOf g).dw 3) 32 12 + (s.teamOf g).number
     readV s g e 244 i = BitVec.ofNat 32 (if (s.launchOf g).det = true then core else core % 4096)) ∧
    (∀ k, k ≤ 31 → readV s g e (192 + k) i = BitVec.ofNat 32
      (storeRead s (g / 32) ((s.teamOf g).frame + (s.teamOf g).scr + k * (s.grp g).gw * 4 + i * 4) 4)) ∧
    (∀ r, 224 ≤ r → r ≤ 239 → readV s g e r i = e.getD i 0) ∧
    readS s g 127 = 0 ∧ (∀ v, writeS s g 127 v = s) ∧
    predOf (s.grp g) 0 = BitVec.allOnes 64 ∧
    (∀ pn : Bool, ∀ ps : BitVec 3, ∀ j, j < 64 →
      (activeMask (s.grp g) ps pn).getLsbD j =
        (decide (j < (s.grp g).gw) && (s.grp g).em.getLsbD j && ((predOf (s.grp g) ps.toNat).getLsbD j ^^ pn)))) ∧
  (∀ (s : State) (g r i : Nat) (e : QEntry), r ≤ 191 →
    let x := s.grp g
    (∀ a b v, x.window = a ++ b :: (x.window.drop (a.length + 1)) → (∀ y ∈ a, ∀ q ∈ y.vals, ¬ (q.reg = r ∧ q.lane = i)) →
      b.vals.find? (fun q => q.reg == r && q.lane == i) = some v → readV s g e r i = v.val) ∧
    ((∀ y ∈ x.window, ∀ q ∈ y.vals, ¬ (q.reg = r ∧ q.lane = i)) →
      readV s g e r i = BitVec.ofNat 32 (storeRead s (g / 32) (regOff (s.teamOf g) x r i) 4)))

/-! ### Scalar instructions (04 R108 to R111) -/

/-- 04 R108: the results of the scalar arithmetic instructions, written to SD at latency 1. 04 R109: `scmp` writes its condition
to bits 0 to GW − 1 of pN, all alike, and zero above; every other predicate reads as before. -/
def Obligations.ScalarResults : Prop :=
  (∀ (s : State) (f : FmtS),
    let a := readS s s.cur f.sa.toNat
    let b := operandB s f
    let sd := f.sd.toNat
    SetsScalar (.sadd f) s sd (a + b) 1 ∧ SetsScalar (.ssub f) s sd (a - b) 1 ∧ SetsScalar (.smul f) s sd (a * b) 1 ∧
    SetsScalar (.sand f) s sd (a &&& b) 1 ∧ SetsScalar (.sor f) s sd (a ||| b) 1 ∧ SetsScalar (.sxor f) s sd (a ^^^ b) 1 ∧
    SetsScalar (.sshl f) s sd (if 64 ≤ b.toNat then 0 else BitVec.ofNat 64 (a.toNat * 2 ^ b.toNat)) 1 ∧
    SetsScalar (.sshr f) s sd (if 64 ≤ b.toNat then 0 else BitVec.ofNat 64 (a.toNat / 2 ^ b.toNat)) 1 ∧
    SetsScalar (.smov f) s sd a 1 ∧
    (f.i = true → SetsScalar (.smovi f) s sd (BitVec.ofNat 64 (a.toNat * 2 ^ 30) + f.imm.signExtend 64) 1) ∧
    SetsScalar (.ssel f) s sd (if readS s s.cur sd ≠ 0 then a else b) 1 ∧
    (f.i = false →
      SetsScalar (.slea f) s sd (a + BitVec.ofNat 64 ((readS s s.cur f.sb.toNat).toNat * 2 ^ (f.imm.toNat % 8))) 1)) ∧
  (∀ (s : State) (f : FmtS),
    let g := s.cur
    let a := readS s g f.sa.toNat
    let b := operandB s f
    let n := f.sd.toNat % 8
    let gw := (s.grp g).gw
    let cond : Bool := match f.sd.toNat / 8 with
      | 0 => a = b
      | 1 => a ≠ b
      | 2 => a.slt b
      | 3 => a.sle b
      | 4 => b.slt a
      | 5 => b.sle a
      | 6 => a.ult b
      | 7 => a.ule b
      | 8 => b.ult a
      | _ => b.ule a
    n ≠ 0 → gw ≤ 64 →
      ∃ t, exec (.scmp f) s = .next t ∧ Passes (writePU s g n cond) t g ∧ Flies (writePU s g n cond) t g 1 0 ∧
        (∀ i, i < 64 → (predOf (t.grp g) n).getLsbD i = (decide (i < gw) && cond)) ∧
        ∀ m, m ≠ n → predOf (t.grp g) m = predOf (s.grp g) m)

/-- 04 R110: the field `sbfe` extracts. -/
def Obligations.ScalarBitField : Prop :=
  ∀ (s : State) (f : FmtS),
    let a := readS s s.cur f.sa.toNat
    let b := operandB s f
    let pos := (b.extractLsb' 0 6).toNat
    let wd := (b.extractLsb' 6 7).toNat
    let x := a.toNat / 2 ^ pos % 2 ^ wd
    SetsScalar (.sbfe f) s f.sd.toNat
      (if wd = 0 ∨ 64 < wd then 0
       else if b.getLsbD 13 = true ∧ 2 ^ (wd - 1) ≤ x then BitVec.ofInt 64 ((x : Int) - (2 : Int) ^ wd)
       else BitVec.ofNat 64 x) 1

/-- 04 R111: `sld` and `sst` access 8 bytes, little-endian, at store-local address e = ReadS(SA) + sext(IMM30); e mod 8 ≠ 0 raises
MISALIGN, and e + 8 beyond t0's limit PROT; an `sst` to a word of a sync-held barrier object raises SYNC_CLOBBER. 04 R111: the
bytes `sst` stores, and every other byte of every core's store as before; device memory is as before. Of a team register of a
pair both copies are written (04 R99). -/
def Obligations.ScalarStores : Prop :=
  (∀ (s : State) (f : FmtS),
    let g := s.cur
    let t := s.teamOf g
    let e := localAddr s f
    let limit := (tget (s.grp g).tregs {} 0).limit
    let em := (s.grp g).em
    (e % 8 ≠ 0 → Traps (.sld f) s 0x05 e em ∧ Traps (.sst f) s 0x05 e em) ∧
    (e % 8 = 0 → limit < e + 8 → Traps (.sld f) s 0x06 e em ∧ Traps (.sst f) s 0x06 e em) ∧
    (e % 8 = 0 → e + 8 ≤ limit →
      (storeBad s (storeCore t (g / 32) e) (t.frame + e) 8 = true → Traps (.sld f) s 0x0E e em) ∧
      (storeBad s (storeCore t (g / 32) e) (t.frame + e) 8 = false →
        SetsScalar (.sld f) s f.sd.toNat (BitVec.ofNat 64 (mread (s.core (storeCore t (g / 32) e)).store (t.frame + e) 8)) 1) ∧
      ((∃ b ∈ t.barriers, b < e + 8 ∧ e < b + 16) → Traps (.sst f) s 0x09 e em) ∧
      ((∀ b ∈ t.barriers, ¬ (b < e + 8 ∧ e < b + 16)) →
        Completes (.sst f) s (winWrite s t (g / 32) e 8 (readS s g f.sb.toNat).toNat) 1 0))) ∧
  (∀ (s t : State) (f : FmtS),
    let g := s.cur
    let tm := s.teamOf g
    let e := localAddr s f
    let homes := if tm.pair && inTeamRegs tm e then [tm.core, tm.core + 1] else [storeCore tm (g / 32) e]
    e % 8 = 0 → e + 8 ≤ (tget (s.grp g).tregs {} 0).limit → (∀ b ∈ tm.barriers, ¬ (b < e + 8 ∧ e < b + 16)) →
    ¬ (stopsHere (s.grp g) ∧ ¬ lastSlot (s.grp g)) → exec (.sst f) s = .next t →
      (∀ c a, storeRead t c a 1 =
        if c ∈ homes ∧ tm.frame + e ≤ a ∧ a < tm.frame + e + 8 then
          (readS s g f.sb.toNat).toNat / 256 ^ (a - (tm.frame + e)) % 256
        else storeRead s c a 1) ∧
      (∀ a, peek t a 1 = peek s a 1) ∧ ∀ n, readS t g n = readS s g n)

/-! ### Control flow (03 R84 to R92) -/

/-- 03 R85, R91: `nop` does nothing, `yield` stands aside, the forms of `emov` read and set the masks; 15 R400: `mpt` does
nothing unless a pre-emption or a migration of the group is pending, and then the group stops running there. -/
def Obligations.MaskInstructions : Prop :=
  (∀ (s : State) (f : FmtY),
    let g := s.cur
    let x := s.grp g
    Completes (.nop f) s s 1 0 ∧
    Completes (.yield f) s (s.setGrp g { x with yielded := some (32, []) }) 1 0 ∧
    SetsScalar (.emovGet f) s f.s.toNat (x.em &&& lowMask x.gw) 1 ∧
    Completes (.emovSet f) s (s.setGrp g { x with em := readS s g f.s.toNat &&& x.live }) 1 0 ∧
    Completes (.emovPred f) s (s.setGrp g { x with em := activeMask x f.ps f.pn }) 1 0 ∧
    SetsScalar (.emovLive f) s f.s.toNat x.live 1) ∧
  (∀ (s : State) (f : FmtY),
    let g := s.cur
    let x := s.grp g
    (x.stopReq = false → Completes (.mpt f) s s 1 0) ∧
    (x.stopReq = true →
      ∃ t, exec (.mpt f) s = .next t ∧ Moves s t g ∧ (t.grp g).running = false ∧ (t.grp g).pc = nextPc x ∧
        (t.grp g).seq = x.seq + 1))

/-- 03 R86, 02 R58: `bra` is taken for the whole group when the lowest lane of LIVE is active; a target that is no clause
header raises ILLEGAL_TARGET. That a target on a page that is absent, outside the device or barred counts as a header until its
fetch is the model's reading (log entry 46), as is the address modulo 2^57 (log entry 58): when the fetch of a target that was
absent or outside the device finds no header, the transfer is taken back, with its masks, its stack, its count and the scalar of
a `loop`, and ILLEGAL_TARGET is raised at the branch. -/
def Obligations.UniformBranch : Prop :=
  (∀ (s : State) (f : FmtB),
    let g := s.cur
    let x := s.grp g
    let t := activeMask x f.ps f.pn
    let target := (((x.hdr : Int) + 8 * f.off.toInt) % (2 : Int) ^ 57).toNat
    let taken := ∃ j, j < 64 ∧ x.live.getLsbD j ∧ (∀ i, i < j → ¬ x.live.getLsbD i) ∧ t.getLsbD j
    (taken → headerAt s g target → Transfers (.bra f) s s target) ∧
    (taken → ¬ headerAt s g target → Traps (.bra f) s 0x02 target t) ∧
    (¬ taken → Completes (.bra f) s s 1 0) ∧
    (taken → (codeAt s g target = .absent ∨ codeAt s g target = .outside) →
      ∃ u c, exec (.bra f) s = .next u ∧ (u.grp g).came = some c ∧ c.pc = x.pc ∧ c.hdr = x.hdr ∧ c.em = x.em ∧
        c.live = x.live ∧ c.stack = x.stack ∧ c.lanes = t ∧ c.sreg = none ∧ c.tret = false)) ∧
  (∀ (s : State) (g a : Nat) (w : Came),
    let x := s.grp g
    let y := (takeBack s g w).grp g
    x.came = some w → w.tret = false →
      notHeader s g a = trapAt (takeBack s g w) g 0x02 a w.lanes w.pc w.hdr ∧
      y.em = w.em ∧ y.live = w.live ∧ y.stack = w.stack ∧ y.retc = x.retc - 1 ∧ (w.sreg = none → y.sregs = x.sregs) ∧
      ∀ n v, w.sreg = some (n, v) → ∀ m, readS (takeBack s g w) g m = if m = 127 then 0 else if m = n then v else readS s g m)

/-- 03 R88: what `join` does with the top of the control stack; at a fall address that holds no header it raises ILLEGAL_TARGET
(log entry 54). 02 R46: a join address that holds no header with JN = 1 raises ILLEGAL_TARGET; one on an absent page parks the
group for it, and one that only a fetch can read is fetched (log entry 46). 03 R92: `brx.regroup` raises ILLEGAL_TARGET when
`em` ≠ LIVE or the control stack is not empty; otherwise each live thread takes a target, and the group parks at the team
rendezvous. The target of a taken one is read before it parks, as a join address is (log entry 46). -/
def Obligations.JoinsAndRegroups : Prop :=
  (∀ (s : State) (f : FmtY),
    let g := s.cur
    let x := s.grp g
    (∀ saved pending fall rest, x.stack = .diverge x.hdr saved pending fall :: rest → pending ≠ 0 →
      headerAt s g fall →
        Transfers (.join f) s (s.setGrp g { x with em := pending, stack := .diverge x.hdr saved 0 fall :: rest }) fall) ∧
    (∀ saved pending fall rest, x.stack = .diverge x.hdr saved pending fall :: rest → pending ≠ 0 →
      ¬ headerAt s g fall → Traps (.join f) s 0x02 fall x.em) ∧
    (∀ saved fall rest, x.stack = .diverge x.hdr saved 0 fall :: rest →
      Completes (.join f) s (s.setGrp g { x with em := saved &&& x.live, stack := rest }) 1 0) ∧
    (∀ rest, x.stack = .regroup x.hdr :: rest → (∀ p ∈ x.pend, isResult p.kind = false) → releaseReady x 1 2 = true →
      ∃ t, exec (.join f) s = .next t ∧ ParkedFor s t g .rejoin (.regroupRejoin x.team)) ∧
    ((∀ saved pending fall rest, x.stack ≠ .diverge x.hdr saved pending fall :: rest) →
      (∀ rest, x.stack ≠ .regroup x.hdr :: rest) → Completes (.join f) s s 1 0)) ∧
  (∀ (s : State) (f : FmtB),
    let g := s.cur
    let x := s.grp g
    let t := activeMask x f.ps f.pn
    let target := branchTarget x f.off.toInt
    let join := branchTarget x f.join.toNat
    (codeAt s g join = .other → Traps (.brxRegroup f) s 0x02 join t) ∧
    (∀ h, codeAt s g join = .header h → (headerOf h).jn = false → Traps (.brxRegroup f) s 0x02 join t) ∧
    (codeAt s g join = .absent → exec (.brxRegroup f) s = done (checkPark s g join)) ∧
    ((codeAt s g join = .outside ∨ codeAt s g join = .barred) → (joinCheck s g join t).2 = false →
      exec (.brxRegroup f) s = done (checkFetched (fetchAt s g join).1 g join t (·.jn) (fetchAt s g join).2).1) ∧
    (joinAt s g join → (x.em ≠ x.live ∨ x.stack ≠ []) → Traps (.brxRegroup f) s 0x02 target t) ∧
    (joinAt s g join → x.em = x.live → x.stack = [] → t ≠ 0 →
      (codeAt s g target = .other → Traps (.brxRegroup f) s 0x02 target t) ∧
      (codeAt s g target = .absent → exec (.brxRegroup f) s = done (checkPark s g target)) ∧
      ((codeAt s g target = .outside ∨ codeAt s g target = .barred) → (targetCheck s g target t).2 = false →
        exec (.brxRegroup f) s = done (checkFetched (fetchAt s g target).1 g target t (fun _ => true) (fetchAt s g target).2).1)) ∧
    ((t = 0 ∨ ∃ h, codeAt s g target = .header h) → targetCheck s g target t = (s, true)) ∧
    (joinAt s g join → x.em = x.live → x.stack = [] → (targetCheck s g target t).2 = true →
      (∀ p ∈ x.pend, isResult p.kind = false) → releaseReady x 1 2 = true →
      ∃ u, exec (.brxRegroup f) s = .next u ∧ ParkedFor (targetCheck s g target t).1 u g .regroup (.regroupRendezvous x.team) ∧
        (u.team x.team).rgJoin = join ∧
        ∀ i, i < 64 → x.live.getLsbD i = true →
          tget (u.grp g).target 0 i = if t.getLsbD i then target else x.hdr + 8 * x.clause.length))

/-- 03 R89: `call` pushes the return and enables the calling lanes; `ret` pops it, or raises ILLEGAL_TARGET with TADDR = 0. 03
R91: `exit` removes the active lanes from LIVE, from `em` and from every stack entry; with no lane left the group ends, its RETC
complete, and with `em` empty it resolves its top stack entry. 02 R58: where the address they go to holds no header, they raise
ILLEGAL_TARGET. The model's choices: a target that only a fetch can judge counts as a header until then (log entry 46), an
`exit` that raises ILLEGAL_TARGET removes no lane, and one that resolves an entry with nothing pending goes on at slot 1 of the
join clause without its WAIT conditions (log entry 54). -/
def Obligations.CallsReturnsAndExits : Prop :=
  (∀ (s : State) (f : FmtB) (y : FmtY),
    let g := s.cur
    let x := s.grp g
    let t := activeMask x f.ps f.pn
    let target := branchTarget x f.off.toInt
    let fall := x.hdr + 8 * x.clause.length
    (t = 0 → Completes (.call f) s s 1 0) ∧
    (t ≠ 0 → 32 ≤ x.stack.length → Traps (.call f) s 0x02 target t) ∧
    (t ≠ 0 → x.stack.length < 32 → ¬ headerAt s g target → Traps (.call f) s 0x02 target t) ∧
    (t ≠ 0 → x.stack.length < 32 → headerAt s g target →
      Transfers (.call f) s (s.setGrp g { x with stack := .ret fall x.em :: x.stack, em := t }) target) ∧
    (∀ a saved rest, x.stack = .ret a saved :: rest → headerAt s g a →
      Transfers (.ret y) s (s.setGrp g { x with em := saved &&& x.live, stack := rest }) a) ∧
    (∀ a saved rest, x.stack = .ret a saved :: rest → ¬ headerAt s g a → Traps (.ret y) s 0x02 a x.em) ∧
    ((∀ a saved rest, x.stack ≠ .ret a saved :: rest) → Traps (.ret y) s 0x02 0 x.em)) ∧
  (∀ (s : State) (f : FmtY),
    let g := s.cur
    let x := s.grp g
    let t := activeMask x f.ps f.pn
    let live := x.live &&& ~~~t
    let em := x.em &&& ~~~t
    let stack := x.stack.map (dropLanes t)
    let e (em : Mask) (stack : List StackEntry) : State := s.setGrp g { x with live := live, em := em, stack := stack }
    (live ≠ 0 → (em ≠ 0 ∨ stack = []) → Completes (.exit f) s (e em stack) 1 0) ∧
    (∀ j saved pending fall rest, live ≠ 0 → em = 0 → stack = .diverge j saved pending fall :: rest → pending ≠ 0 →
      (headerAt s g fall → Transfers (.exit f) s (e pending (.diverge j saved 0 fall :: rest)) fall) ∧
      (¬ headerAt s g fall → Traps (.exit f) s 0x02 fall t)) ∧
    (∀ j saved fall rest, live ≠ 0 → em = 0 → stack = .diverge j saved 0 fall :: rest →
      ∃ u, exec (.exit f) s = .next u ∧ Moves (e (saved &&& live) rest) u g ∧ (u.grp g).hdr = j ∧
        (u.grp g).pc = (j + 16) % 2 ^ 57 ∧ (u.grp g).st = (if stopsHere x then .parked else .eligible) ∧
        (u.grp g).running = false ∧ (u.grp g).pend = x.pend.map dropK) ∧
    (∀ a saved rest, live ≠ 0 → em = 0 → stack = .ret a saved :: rest →
      (headerAt s g a → Transfers (.exit f) s (e (saved &&& live) rest) a) ∧
      (¬ headerAt s g a → Traps (.exit f) s 0x02 a t)) ∧
    (∀ j rest, live ≠ 0 → em = 0 → stack = .regroup j :: rest → (∀ p ∈ x.pend, isResult p.kind = false) →
      releaseReady x 1 2 = true →
      ∃ u, exec (.exit f) s = .next u ∧ ParkedFor (e em stack) u g .rejoin (.regroupRejoin x.team)) ∧
    (live = 0 →
      ∃ u, exec (.exit f) s = .next u ∧ (u.grp g).exiting = true ∧ (u.grp g).live = 0 ∧ (u.grp g).running = false ∧
        (u.grp g).st = .held ∧ (u.grp g).retc = x.retc + BitVec.ofNat 64 (x.inflight.length + 1) ∧
        ((∀ p ∈ x.pend, isResult p.kind = false ∧ p.kind ≠ .store) → .event (.groupExit (g / 32) (g % 32)) ∈ u.agenda)))

/-- 03 R90, 02 R58: `jmpi` moves the group to (ReadS(SA) + 8 × sext(IMM30)) mod 2^57; `loop` counts down and branches while the
count is positive; a target that is no clause header raises ILLEGAL_TARGET. 03 R87, 02 R46: `brx` checks its join address,
pushes a divergence entry, and goes to the target with the taken lanes, or to fall with the others when no lane takes the
branch. A join address on an absent page parks the group for it, and one that only a fetch can read is fetched (log entry 46). -/
def Obligations.Branches : Prop :=
  (∀ (s : State) (f : FmtS),
    let g := s.cur
    let x := s.grp g
    let a := ((((readS s g f.sa.toNat).toNat : Int) + 8 * f.imm.toInt) % (2 : Int) ^ 57).toNat
    let n := readS s g f.sa.toNat - 1
    let target := branchTarget x f.imm.toInt
    (headerAt s g a → Transfers (.jmpi f) s s a) ∧
    (¬ headerAt s g a → Traps (.jmpi f) s 0x02 a x.em) ∧
    (0 < n.toInt → headerAt s g target → Transfers (.loop f) s (writeS s g f.sd.toNat n) target) ∧
    (0 < n.toInt → ¬ headerAt s g target → Traps (.loop f) s 0x02 target x.em) ∧
    (¬ 0 < n.toInt → SetsScalar (.loop f) s f.sd.toNat n 1)) ∧
  (∀ (s : State) (f : FmtB),
    let g := s.cur
    let x := s.grp g
    let t := activeMask x f.ps f.pn
    let off := x.em &&& ~~~t
    let target := branchTarget x f.off.toInt
    let join := branchTarget x f.join.toNat
    let fall := x.hdr + 8 * x.clause.length
    let pushed (pending em : Mask) : State :=
      s.setGrp g { x with stack := .diverge join x.em pending fall :: x.stack, em := em }
    let v := (joinCheck s g join t).1
    (codeAt s g join = .other → Traps (.brx f) s 0x02 join t) ∧
    (∀ h, codeAt s g join = .header h → (headerOf h).jn = false → Traps (.brx f) s 0x02 join t) ∧
    (codeAt s g join = .absent → exec (.brx f) s = done (checkPark s g join)) ∧
    ((codeAt s g join = .outside ∨ codeAt s g join = .barred) → (joinCheck s g join t).2 = false →
      exec (.brx f) s = done (checkFetched (fetchAt s g join).1 g join t (·.jn) (fetchAt s g join).2).1) ∧
    ((joinCheck s g join t).2 = true → x.stack.length < 32 → t ≠ 0 → headerAt v g target →
      Transfers (.brx f) s (v.modGrp g fun y =>
        { y with stack := .diverge join y.em off (y.hdr + 8 * y.clause.length) :: y.stack, em := t }) target) ∧
    (joinAt s g join → 32 ≤ x.stack.length → Traps (.brx f) s 0x02 target t) ∧
    (joinAt s g join → x.stack.length < 32 → t ≠ 0 → ¬ headerAt s g target → Traps (.brx f) s 0x02 target t) ∧
    (joinAt s g join → x.stack.length < 32 → t ≠ 0 → headerAt s g target → Transfers (.brx f) s (pushed off t) target) ∧
    (joinAt s g join → x.stack.length < 32 → t = 0 → Transfers (.brx f) s (pushed 0 off) fall))

/-! ### Traps (13 R353 to R359) -/

/-- 13 R357, R359: `trap` and `brk` raise USER and BREAK with IMM13 and the active lanes, and do nothing when no lane is active;
`tret` raises PRIV in program mode and ends the launch after ECC_UNCORR; else it clears H, takes `em` from TEM and LIVE, and
resumes at the header at TPC, or at the slot of the clause at THDR that TPC names, which is then read and checked whole again, or
it aborts the launch; what only a fetch can read is judged when it is fetched (log entry 46); after FE_BUDGET the instruction replays for the lanes of TLMASK (08 R206). 13 R355, R361: a
trap with a handler saves TCAUSE, TPC, THDR, TADDR, TLMASK and TEM, sets H and `em`, and the group continues at TVEC; its
control stack, scalar registers, predicates, translation registers and LIVE are unchanged. 13 R356, R358: without a handler,
and in handler mode, it aborts the launch with the original code. -/
def Obligations.TrapsTaken : Prop :=
  (∀ (s : State) (f : FmtY),
    let t := activeMask (s.grp s.cur) f.ps f.pn
    (t = 0 → Completes (.trap f) s s 1 0 ∧ Completes (.brk f) s s 1 0) ∧
    (t ≠ 0 → Traps (.trap f) s 0x0F f.imm.toNat t ∧ Traps (.brk f) s 0x10 f.imm.toNat t)) ∧
  (∀ (s : State) (f : FmtY),
    let g := s.cur
    let x := s.grp g
    let l := (s.teamOf g).launch
    let tpc := x.trap.tpc.toNat
    let thdr := x.trap.thdr.toNat
    let back (y : Group) : Prop :=
      y.trap = { x.trap with hmode := false } ∧ y.em = x.trap.tem &&& x.live ∧
      y.st = (if stopsHere x then .parked else .eligible) ∧ y.seq = x.seq + 1 ∧ y.running = false ∧ y.clause = [] ∧
      y.live = x.live ∧ y.stack = x.stack ∧ y.sregs = x.sregs ∧ y.preds = x.preds ∧ y.tregs = x.tregs
    (x.trap.hmode = false → Traps (.tret f) s 0x03 0 x.em) ∧
    (x.trap.hmode = true → x.trap.tcause = 0x0E → exec (.tret f) s = done (abortLaunch s l 0x0E (g / 32) (slotNum s g))) ∧
    (∀ w, s.noMem = none → x.trap.hmode = true → x.trap.tcause ≠ 0x0E → codeAt s g tpc = .header w →
      ∃ t, exec (.tret f) s = .next t ∧ back (t.grp g) ∧ (t.grp g).pc = tpc ∧ (t.grp g).hdr = 0) ∧
    (∀ h, s.noMem = none → x.trap.hmode = true → x.trap.tcause ≠ 0x0E → (∀ w, codeAt s g tpc ≠ .header w) →
      codeAt s g thdr = .header h → thdr < tpc → tpc ≤ thdr + 8 * (headerOf h).n → (tpc - thdr) % 8 = 0 →
      ∃ t, exec (.tret f) s = .next t ∧ back (t.grp g) ∧ (t.grp g).pc = tpc ∧ (t.grp g).hdr = thdr ∧
        (stopsHere x = false → (t.grp g).redo =
          if x.trap.tcause = 0x07 then some { cause := .marker, mask := x.trap.tlmask, pc := tpc } else none)) ∧
    (s.noMem = none → x.trap.hmode = true → x.trap.tcause ≠ 0x0E →
      ((codeAt s g tpc = .other ∧ thdr < tpc ∧ tpc ≤ thdr + 128 ∧ (tpc - thdr) % 8 = 0 ∧
        (∀ h, codeAt s g thdr ≠ .header h) ∧ codeAt s g thdr ≠ .other) ∨
       ((∀ w, codeAt s g tpc ≠ .header w) ∧ codeAt s g tpc ≠ .other ∧
        ∀ h, codeAt s g thdr = .header h → ¬ (thdr < tpc ∧ tpc ≤ thdr + 8 * (headerOf h).n ∧ (tpc - thdr) % 8 = 0))) →
      ∃ t c, exec (.tret f) s = .next t ∧ back (t.grp g) ∧ (t.grp g).pc = tpc ∧
        (t.grp g).hdr = (if codeAt s g tpc = .other then thdr else 0) ∧
        (t.grp g).came = some c ∧ c.tret = true ∧ c.pc = tpc ∧ c.hdr = thdr) ∧
    (x.trap.hmode = true → x.trap.tcause ≠ 0x0E → codeAt s g tpc = .other →
      (codeAt s g thdr = .other ∨
        (∃ h, codeAt s g thdr = .header h ∧ ¬ (thdr < tpc ∧ tpc ≤ thdr + 8 * (headerOf h).n ∧ (tpc - thdr) % 8 = 0)) ∨
        ((∀ h, codeAt s g thdr ≠ .header h) ∧ ¬ (thdr < tpc ∧ tpc ≤ thdr + 128 ∧ (tpc - thdr) % 8 = 0))) →
      (s.launch l).aborted = false → (s.launch l).ended = false →
      ∃ t, exec (.tret f) s = done t ∧ (t.launch l).aborted = true)) ∧
  (∀ (s : State) (g code addr : Nat) (lanes : Mask),
    let x := s.grp g
    let vec := (s.ctx (s.ctxOf g)).tvec
    let y := (trap s g code addr lanes).grp g
    x.trap.hmode = false → vec ≠ 0 → code ≠ 0x0E →
      y.trap.tcause = BitVec.ofNat 64 code ∧ y.trap.tpc = BitVec.ofNat 64 x.pc ∧ y.trap.thdr = BitVec.ofNat 64 x.hdr ∧
      y.trap.taddr = BitVec.ofNat 64 addr ∧ y.trap.tlmask = lanes &&& lowMask x.gw ∧ y.trap.tem = x.em &&& lowMask x.gw ∧
      y.trap.hmode = true ∧ y.em = x.live ∧ y.pc = vec ∧ y.running = false ∧ y.st = .eligible ∧
      y.live = x.live ∧ y.stack = x.stack ∧ y.sregs = x.sregs ∧ y.preds = x.preds ∧ y.tregs = x.tregs ∧ y.q = x.q ∧
      y.lstat = x.lstat ∧ y.mxst = x.mxst ∧ y.cqst = x.cqst ∧ y.retc = x.retc) ∧
  (∀ (s : State) (g addr : Nat) (lanes : Mask),
    let x := s.grp g
    let vec := (s.ctx (s.ctxOf g)).tvec
    let y := (trap s g 0x0E addr lanes).grp g
    x.trap.hmode = false → vec ≠ 0 →
      y.trap.tcause = 0x0E ∧ y.trap.tpc = BitVec.ofNat 64 x.pc ∧ y.trap.taddr = BitVec.ofNat 64 addr ∧
      y.trap.hmode = true ∧ y.pc = vec ∧ y.sregs = x.sregs ∧ y.preds = x.preds ∧ y.stack = x.stack) ∧
  (∀ (s : State) (g code addr : Nat) (lanes : Mask),
    let l := (s.teamOf g).launch
    code ≠ 0x0E → ((s.grp g).trap.hmode = true ∨ (s.ctx (s.ctxOf g)).tvec = 0) →
    (s.launch l).aborted = false → (s.launch l).ended = false →
      trap s g code addr lanes = abortLaunch (stopMid s g) l code (g / 32) (slotNum s g) ∧
      ((trap s g code addr lanes).launch l).aborted = true ∧
      .event (.launchEnd l) ∈ (trap s g code addr lanes).agenda)

/-! ### Vector instructions: what stops them, what their results do (02 R51, R60, 04 R103 to R107, R113) -/

/-- 02 R51, R52, 04 R107, 13 R361: a format-V instruction whose register lies beyond a count traps with PROT and the first such
register; one that reads an empty queue, or writes a full one, is held at itself, and parks there as a continuation when its
context is asked to pre-empt; one with an uncorrectable operand word traps with ECC_UNCORR. The order D, A, B, C, which fixes
TADDR, and that the counts are checked before the queues are the model's reading (log entry 23). -/
def Obligations.VectorStops : Prop :=
  (∀ (s : State) (i : Instr) (f : FmtV) (u : VUse), vForm i = some (f, u) →
    let g := s.cur
    let x := s.grp g
    let act := activeMask x f.ps f.pn
    let runs := vRuns f u
    (∀ r, firstLimit x runs = some r → Traps i s 0x06 r act) ∧
    ((∀ p ∈ runs, within x p) ↔ firstLimit x runs = none) ∧
    (∀ q, firstLimit x runs = none → vQueue f u = some q → queueEmpty x q = true → (s.ctx (s.ctxOf g)).state ≠ 1 → s.noMem = none →
      exec i s = .next (s.setGrp g { x with st := .held })) ∧
    (firstLimit x runs = none → (∀ q, vQueue f u = some q → queueEmpty x q = false) → u.d = .r32 → f.d = 239 →
      4 ≤ x.q.q15out.length → (s.ctx (s.ctxOf g)).state ≠ 1 → s.noMem = none →
      ∃ t, exec i s = .next t ∧ t.grp g = { x with st := .held }) ∧
    (∀ a, firstLimit x runs = none → (∀ q, vQueue f u = some q → queueEmpty x q = false) →
      (u.d = .r32 → f.d.toNat < 224 ∨ 239 < f.d.toNat) → (u.d = .r64 → f.d.toNat < 224 ∨ 239 < f.d.toNat) →
      operandBadAt s g (bankReads s f u) = some a → Traps i s 0x0E a act)) ∧
  (∀ (s : State) (i : Instr) (f : FmtV) (u : VUse) (q : Nat), vForm i = some (f, u) →
    let g := s.cur
    let x := s.grp g
    firstLimit x (vRuns f u) = none → vQueue f u = some q → queueEmpty x q = true → (s.ctx (s.ctxOf g)).state = 1 → s.noMem = none →
      ∃ t r, exec i s = .next t ∧ (t.grp g).st = .parked ∧ (t.grp g).park = some r ∧ r.cause = .queue ∧ r.pc = x.pc ∧
        (t.grp g).em = x.em ∧ (t.grp g).live = x.live ∧ (t.grp g).stack = x.stack ∧ (t.grp g).sregs = x.sregs ∧
        (t.grp g).preds = x.preds ∧ (t.grp g).q = x.q)

/-- 02 R59, R60, 04 R103, R104, R113: after a result in v0 to v191, the active lanes of the destination read it, from the window
and, unless K = 1, from the bank; every other register, lane, group and byte reads as before. 02 R59, 04 R106, R116, R118,
R119: what a predicate, a scalar, a team-register and a `vz` destination hold afterwards. -/
def Obligations.VectorResults : Prop :=
  (∀ (s : State) (f : FmtV) (u : VUse) (tm : VTime) (o : VOut) (res : Nat → Nat),
    let g := s.cur
    let x := s.grp g
    let d := f.d.toNat
    let n := opWidth u.d
    let t := s.teamOf g
    let e := vEffect s f u tm o
    vQueue f u = none → (u.d = .r32 ∨ u.d = .r64) → d + n ≤ 192 → o.vals = (vLanes s f).map (fun i => (i, res i)) →
      (∀ k i, k < n → i ∈ vLanes s f → readV e g [] (d + k) i = BitVec.ofNat 32 (res i / 2 ^ (32 * k))) ∧
      (∀ r i, r ≤ 191 → i < x.gw → (r < d ∨ d + n ≤ r ∨ i ∉ vLanes s f) → x.window.length < 8 →
        readV e g [] r i = readV s g [] r i) ∧
      (∀ k i j, f.k = false → k < n → i ∈ vLanes s f → j < 4 →
        storeRead e (g / 32) (regOff t x (d + k) i + j) 1 = res i / 2 ^ (32 * k) % 2 ^ 32 / 256 ^ j % 256) ∧
      (∀ c a, (f.k = true ∨ c ≠ g / 32 ∨
          ∀ k i, k < n → i ∈ vLanes s f → a < regOff t x (d + k) i ∨ regOff t x (d + k) i + 4 ≤ a) →
        storeRead e c a 1 = storeRead s c a 1) ∧
      (∀ a, peek e a 1 = peek s a 1) ∧ (∀ h, h ≠ g → e.grp h = s.grp h) ∧
      { e.grp g with window := x.window, reuse := x.reuse, sregs := x.sregs } = x ∧
      { e with cores := s.cores, agenda := s.agenda, monitors := s.monitors } = s) ∧
  (∀ (s : State) (f : FmtV) (u : VUse) (tm : VTime) (o : VOut) (res : Nat → Nat),
    let g := s.cur
    let x := s.grp g
    let d := f.d.toNat
    let e := vEffect s f u tm o
    vQueue f u = none → o.vals = (vLanes s f).map (fun i => (i, res i)) →
      (u.d = .predDst → 1 ≤ d → x.gw ≤ 64 →
        (∀ i, i < 64 → (predOf (e.grp g) d).getLsbD i =
          if i ∈ vLanes s f then decide (res i ≠ 0) else (predOf x d).getLsbD i) ∧
        (∀ m, m ≠ d → predOf (e.grp g) m = predOf x m) ∧ (e.grp g).window = x.window ∧ Still s e g) ∧
      (∀ v, u.s = .dest → f.s ≠ 127 → o.scalar = some v →
        ∀ m, readS e g m = if m = 127 then 0 else if m = f.s.toNat then BitVec.ofNat 64 v else readS s g m) ∧
      ((u.s ≠ .dest ∨ f.s = 127) → (d < 224 ∨ 239 < d) → ∀ m, readS e g m = readS s g m) ∧
      (u.d = .r32 → 192 ≤ d → d ≤ 223 →
        (e.team x.team).hpend = (s.team x.team).hpend ++
          (vLanes s f).map (fun i => (teamCyc s g + tm.l - 1, g, d - 192, i, BitVec.ofNat 32 (res i))) ∧
        (e.grp g).window = x.window ∧ Still s e g) ∧
      ((u.d = .r32 ∨ u.d = .r64) → d = 240 → (e.grp g).window = x.window ∧ Still s e g ∧ e.teams = s.teams))

/-- 04 R107: an instruction with a queue register among its sources takes the queue's head entry, and its results wait for their
delivery; one with a queue register as its destination pushes one entry, the active lanes' words and zero elsewhere: a copy queue
takes the 16 doublewords of a command block (11 R278), q15 a message (16 R415). -/
def Obligations.QueueRegisters : Prop :=
  (∀ (s : State) (f : FmtV) (u : VUse) (tm : VTime) (o : VOut) (r : Nat),
    let g := s.cur
    let x := s.grp g
    let e := vEffect s f u tm o
    vQueue f u = some r → r ∈ [228, 229, 230, 239] → (f.d.toNat < 224 ∨ 239 < f.d.toNat) →
      ((e.grp g).q.q4 = if r = 228 then x.q.q4.tail else x.q.q4) ∧
      ((e.grp g).q.q5 = if r = 229 then x.q.q5.tail else x.q.q5) ∧
      ((e.grp g).q.q6 = if r = 230 then x.q.q6.tail else x.q.q6) ∧
      ((e.grp g).q.q15in = if r = 239 then x.q.q15in.tail ++ x.q.owed.take 1 else x.q.q15in) ∧
      ((e.grp g).q.q15out = x.q.q15out) ∧
      (∀ j, u.a = .r32 → f.a.toNat = r → (u.s ≠ .inA ∨ f.s = 127) →
        (vOperands s f u j).1 =
          (((if r = 228 then x.q.q4 else if r = 229 then x.q.q5 else if r = 230 then x.q.q6 else x.q.q15in).headD []).getD j 0).toNat) ∧
      (∃ p, (e.grp g).pend = x.pend ++ [p] ∧ p.kind = .pop ∧ p.seq = x.seq ∧ p.flags = o.fl ∧ p.k = f.k ∧
        p.vregs = (resultWords u.d f.d.toNat o.vals).filter (fun v => v.reg ≤ 223)) ∧
      .event (.queuePopDelivery (g / 32) (g % 32) x.seq) ∈ e.agenda) ∧
  (∀ (s : State) (f : FmtV) (u : VUse) (tm : VTime) (o : VOut) (res : Nat → Nat),
    let g := s.cur
    let x := s.grp g
    let d := f.d.toNat
    let e := vEffect s f u tm o
    let word (j : Nat) : Word := if j ∈ vLanes s f then BitVec.ofNat 32 (res j) else 0
    vQueue f u = none → u.d = .r32 → x.gw ≤ 64 → o.vals = (vLanes s f).map (fun i => (i, res i)) →
      (d = 239 →
        (e.grp g).q.q15out = x.q.q15out ++ [(List.range 64).map word] ∧
        .event (.q15Outgoing (g / 32) (g % 32)) ∈ e.agenda) ∧
      (224 ≤ d → d ≤ 227 →
        (∃ c, (e.core (g / 32)).cmds = (s.core (g / 32)).cmds ++ [c] ∧ c.q = d - 224 ∧ c.addr = none ∧ c.slot = g ∧
          c.team = x.team ∧ c.launch = (s.teamOf g).launch ∧ c.ctx = s.ctxOf g ∧
          c.block = (List.range 16).map fun j => (word (2 * j + 1)).setWidth 32 ++ (word (2 * j)).setWidth 32) ∧
        g ∉ (e.core (g / 32)).subs ∧ .event (.pushedCommand (g / 32)) ∈ e.agenda))

/-! ### Integer vector instructions (04 R112 to R116) -/

/-- 04 R112, R113, R114: the results of the integer arithmetic instructions, saturated under `.sat`, else modulo 2^w; `idiv`
truncates towards zero, the remainder takes the sign of a; by zero the quotient is the greatest or the least value and the
remainder is a; lo divided by −1 is lo, with remainder 0. -/
def Obligations.IntegerArithmetic : Prop :=
  (∀ (s : State) (f : FmtV),
    let w := f.ty.width
    let bin := Wf.binUse f.ty
    let un := Wf.unUse f.ty
    let tern := Wf.use f.ty.opk f.ty.opk f.ty.opk f.ty.opk .inB
    let gives (i : Instr) (u : VUse) (tm : VTime) (op : Int → Int → Int → Int) : Prop :=
      VGives i s f u tm (lanewise s f u fun a b c => narrowed f (op (intOf f.ty a) (intOf f.ty b) (intOf f.ty c)))
    gives (.iadd f) bin tc0 (fun a b _ => a + b) ∧ gives (.isub f) bin tc0 (fun a b _ => a - b) ∧
    gives (.imul f) bin tc2 (fun a b _ => a * b) ∧ gives (.imad f) tern tc2 (fun a b c => a * b + c) ∧
    gives (.imulh f) bin tc2 (fun a b _ => (a * b).fdiv ((2 : Int) ^ w)) ∧
    gives (.ineg f) un tc0 (fun a _ _ => -a) ∧ gives (.iabs f) un tc0 (fun a _ _ => a.natAbs) ∧
    gives (.imin f) bin tc0 (fun a b _ => if a ≤ b then a else b) ∧
    gives (.imax f) bin tc0 (fun a b _ => if a ≤ b then b else a)) ∧
  (∀ (s : State) (f : FmtV),
    let u := Wf.binUse f.ty
    VGives (.idiv f) s f u (if f.ty.width = 64 then ⟨17, 2, 17, 17⟩ else ⟨9, 2, 9, 9⟩)
      (lanewise s f u fun x y _ =>
        let a := intOf f.ty x
        let b := intOf f.ty y
        let q : Int := (if (a < 0) = (b < 0) then 1 else -1) * (a.natAbs / b.natAbs : Nat)
        let r : Int :=
          if f.fn = 1 then (if b = 0 then a else a - q * b)
          else if b = 0 then (if 0 ≤ a then greatestOf f.ty else leastOf f.ty)
          else if f.ty.isSigned ∧ a = leastOf f.ty ∧ b = -1 then leastOf f.ty else q
        (r % (2 : Int) ^ f.ty.width).toNat))

/-- 04 R112, R115: the logic, shift and rotate instructions, a shift by w or more giving 0, an arithmetic one the sign; the
field `bfe` extracts and the field `bfi` replaces; `popc`, `clz`, `ctz` and `brev`. -/
def Obligations.LogicShiftsAndFields : Prop :=
  (∀ (s : State) (f : FmtV),
    let w := f.ty.width
    let gives (i : Instr) (u : VUse) (op : Nat → Nat → Nat → Nat) : Prop := VGives i s f u tc0 (lanewise s f u op)
    gives (.and f) Wf.bin32 (fun a b _ => a &&& b) ∧ gives (.or f) Wf.bin32 (fun a b _ => a ||| b) ∧
    gives (.xor f) Wf.bin32 (fun a b _ => a ^^^ b) ∧ gives (.not f) Wf.un32 (fun a _ _ => a ^^^ 0xFFFFFFFF) ∧
    gives (.shl f) (Wf.shiftUse f.ty) (fun a b _ => (BitVec.ofNat w a <<< (b % 2 ^ 32)).toNat) ∧
    gives (.shr f) (Wf.shiftUse f.ty) (fun a b _ => (BitVec.ofNat w a >>> (b % 2 ^ 32)).toNat) ∧
    gives (.sar f) (Wf.shiftUse f.ty) (fun a b _ => ((BitVec.ofNat w a).sshiftRight (min (b % 2 ^ 32) (w - 1))).toNat) ∧
    gives (.rot f) Wf.bin32 (fun a b _ => ((BitVec.ofNat 32 a).rotateLeft (b % 32)).toNat)) ∧
  (∀ (s : State) (f : FmtV),
    VGives (.bfe f) s f Wf.bin32 tc0 (lanewise s f Wf.bin32 fun a b _ =>
      let pos := b % 256
      let wd := min (b / 256 % 256) 32
      let x := a % 2 ^ 32 / 2 ^ pos % 2 ^ wd
      if wd = 0 ∨ 32 ≤ pos then 0
      else if f.ty = .i32 ∧ x / 2 ^ (wd - 1) = 1 then x + (2 ^ 32 - 2 ^ wd) else x) ∧
    VGives (.bfi f) s f Wf.tern32 tc0 (lanewise s f Wf.tern32 fun a b c =>
      let pos := c % 256
      let wd := min (c / 256 % 256) (32 - pos)
      if wd = 0 ∨ 32 ≤ pos then b % 2 ^ 32
      else ((BitVec.ofNat 32 b &&& ~~~(BitVec.ofNat 32 ((2 ^ wd - 1) * 2 ^ pos))) |||
        BitVec.ofNat 32 (a % 2 ^ wd * 2 ^ pos)).toNat)) ∧
  (∀ (s : State) (f : FmtV),
    let gives (i : Instr) (op : Nat → Nat) : Prop := VGives i s f Wf.un32 tc0 (lanewise s f Wf.un32 fun a _ _ => op a)
    gives (.popc f) (fun a => ((List.range 32).filter fun j => a.testBit j).length) ∧
    gives (.clz f) (fun a => ((List.range 32).takeWhile fun j => !a.testBit (31 - j)).length) ∧
    gives (.ctz f) (fun a => ((List.range 32).takeWhile fun j => !a.testBit j).length) ∧
    gives (.brev f) (fun a => (BitVec.ofNat 32 a).reverse.toNat))

/-- 04 R112, R116: comparisons and truth tables into a predicate, selection by one; moves, immediates and `lea`. -/
def Obligations.ComparesAndMoves : Prop :=
  (∀ (s : State) (f : FmtV),
    let k := f.ty.opk
    let cmp := Wf.use .predDst k k .unused .inB
    let sel := Wf.use k k k .predSrc .inB
    let tab := Wf.use .predDst .predSrc .predSrc .unused .noScalar
    VGives (.icmp f) s f cmp tc0 (lanewise s f cmp fun x y _ =>
      let a := intOf f.ty x
      let b := intOf f.ty y
      let c : Bool := match f.fn.toNat with
        | 0 => a = b
        | 1 => a ≠ b
        | 2 => a < b
        | 3 => a ≤ b
        | 4 => a > b
        | _ => a ≥ b
      if c then 1 else 0) ∧
    VGives (.sel f) s f sel tc0 (lanewise s f sel fun a b c => if c = 1 then a else b) ∧
    VGives (.plog f) s f tab tc0 (lanewise s f tab fun a b _ => f.fn.toNat / 2 ^ (2 * a + b) % 2)) ∧
  (∀ (s : State) (f : FmtV) (v : FmtVI),
    let k := f.ty.opk
    let mv := Wf.use k k .unused .unused .inA
    let imm := Wf.use .r32 .unused .unused .unused .noScalar
    VGives (.mov f) s f mv tc0 (lanewise s f mv fun a _ _ => a % 2 ^ f.ty.width) ∧
    VGives (.movi v) s (viAsV v) imm tc0 (lanewise s (viAsV v) imm fun _ _ _ => (v.imm.signExtend 32).toNat) ∧
    VGives (.movh v) s (viAsV v) Wf.un32 tc0
      (lanewise s (viAsV v) Wf.un32 fun a _ _ => v.imm.toNat % 2 ^ 16 * 2 ^ 16 + a % 2 ^ 16) ∧
    VGives (.lea f) s f (Wf.shiftUse f.ty) tc0 (lanewise s f (Wf.shiftUse f.ty) fun a b _ =>
      ((intOf f.ty a + (BitVec.ofNat 32 b).toInt * (2 : Int) ^ f.fn.toNat) % (2 : Int) ^ f.ty.width).toNat))

/-! ### Lane-cross instructions (04 R117 to R120) -/

/-- 04 R118, R119: `shfl` and `bcast` read their source lane whether or not it is active, and no other lane of A (13 R361); what `vote` and `match` find over the
active lanes. -/
def Obligations.LaneCross : Prop :=
  (∀ (s : State) (f : FmtV),
    let gw := s.g.gw
    let sh := Wf.shflUse f.ty
    let bc := Wf.bcastUse f.ty
    let src (i d : Nat) : Nat := match f.fn.toNat with
      | 0 => d &&& (gw - 1)
      | 1 => if d > i then i else i - d
      | 2 => if i + d ≥ gw then i else i + d
      | _ => i ^^^ (d &&& (gw - 1))
    (gw ∈ [16, 32, 64] →
      VGives (.shfl f) s f sh tc0 { vals := (vLanes s f).map fun i =>
        (i, (vOperands s f sh (src i ((vOperands s f sh i).2.1 % 2 ^ 32))).1) }) ∧
    VGives (.bcast f) s f bc tc0 {
      vals := (vLanes s f).map fun i => (i, (vOperands s f bc f.fn.toNat).1)
      scalar := some (vOperands s f bc f.fn.toNat).1 } ∧
    (gw ∈ [16, 32, 64] → f.a.toNat ≤ 223 → reuseHit s s.cur f sh = false → ∀ r ls, (r, ls) ∈ bankReads s f sh →
      (ls = (vLanes s f).map fun i => src i ((vOperands s f sh i).2.1 % 2 ^ 32)) ∨ ls = vLanes s f) ∧
    (f.a.toNat ≤ 223 → reuseHit s s.cur f bc = false → ∀ r ls, (r, ls) ∈ bankReads s f bc → ls = [f.fn.toNat])) ∧
  (∀ (s : State) (f : FmtV),
    let ls := vLanes s f
    let pv := Wf.use .predDst .predSrc .unused .unused .noScalar
    let bal := Wf.use .r64 .predSrc .unused .unused .dest
    let mt := Wf.use .r64 f.ty.opk .unused .unused .noScalar
    let set (u : VUse) (i : Nat) : Prop := (vOperands s f u i).1 = 1
    (∀ m : Nat, f.fn = 3 → m < 2 ^ 64 → (∀ j, j < 64 → (m.testBit j = true ↔ j ∈ ls ∧ set bal j)) → s.g.gw ≤ 64 →
      VGives (.vote f) s f bal tc0 { vals := ls.map fun i => (i, m), scalar := some m }) ∧
    (∀ b : Bool, f.fn ≠ 3 →
      (b = true ↔ if f.fn = 0 then ∃ i, i ∈ ls ∧ set pv i else if f.fn = 1 then ∀ i, i ∈ ls → set pv i
        else (∀ i, i ∈ ls → set pv i) ∨ ∀ i, i ∈ ls → ¬ set pv i) →
      VGives (.vote f) s f pv tc0 { vals := ls.map fun i => (i, if b then 1 else 0) }) ∧
    (∀ m : Nat → Nat, s.g.gw ≤ 64 → (∀ i, m i < 2 ^ 64) →
      (∀ i j, j < 64 → ((m i).testBit j = true ↔ j ∈ ls ∧ (vOperands s f mt j).1 = (vOperands s f mt i).1)) →
      VGives (.matchV f) s f mt tc1 { vals := ls.map fun i => (i, m i) }))

/-- 04 R120: `scan` and `redux` over the active lanes, with the flags of every joining, their operation for the integer and the log
types, and that what an inactive position enters as leaves the other operand as it is. That an inactive position enters a log
sum as −0, where R120 names +0 as the identity, is the model's reading (log entry 25). -/
def Obligations.ScanAndReduce : Prop :=
  (∀ (s : State) (f : FmtV),
    let ls := vLanes s f
    let op := f.fn.toNat % 8
    let un := Wf.unUse f.ty
    let red := Wf.use f.ty.opk f.ty.opk .unused .unused .dest
    let tm : VTime := if f.ty.isLog then tc3 else tc1
    let a (u : VUse) (i : Nat) : Nat := (vOperands s f u i).1 % 2 ^ (if f.ty = .l16 then 16 else f.ty.width)
    let join (x y : Nat) : Nat := (crossOp f.ty op x y).1
    let flag (x y : Nat) : Flags := (crossOp f.ty op x y).2
    -- scan: the running value over the lanes before lane i, in home-lane order
    (∀ (p : Nat → Nat) (fl : Flags),
      (∀ i, i ∈ ls → p i = match ls.takeWhile (· < i) with
        | [] => crossId f.ty op
        | h :: r => r.foldl (fun v j => join v (a un j)) (a un h)) →
      fl = (ls.drop 1).foldl (fun v i => v ||| flag (p i) (a un i)) 0 →
      VGives (.scan f) s f un tm {
        vals := ls.map fun i => (i, if f.fn.getLsbD 3 then p i else if ls.head? = some i then a un i else join (p i) (a un i))
        fl := fl }) ∧
    -- redux: level n of the tree joins adjacent results of the level below; an inactive position enters as what changes
    -- no result, and with no active lane the result is the identity
    (∀ (v : Nat → Nat → Nat) (n : Nat), s.g.gw = 2 ^ n → s.g.gw ≤ 64 →
      (∀ j, v 0 j = if j ∈ ls then a red j else crossFill f.ty op) →
      (∀ l j, v (l + 1) j = join (v l (2 * j)) (v l (2 * j + 1))) →
      let fl : Flags := (List.range n).foldl (fun x l =>
        (List.range (2 ^ (n - l - 1))).foldl (fun y j => y ||| flag (v l (2 * j)) (v l (2 * j + 1))) x) 0
      (f.ty.isLog = false → fl = 0) ∧
        VGives (.redux f) s f red tm {
          vals := ls.map fun i => (i, v n 0), fl := fl, scalar := some (if ls = [] then crossId f.ty op else v n 0) })) ∧
  ((∀ (ty : Ty) (a b : Nat), ty.isLog = false → a < 2 ^ ty.width → b < 2 ^ ty.width →
    (crossOp ty 0 a b).1 = (a + b) % 2 ^ ty.width ∧
    (crossOp ty 1 a b).1 = (if intOf ty a ≤ intOf ty b then a else b) ∧
    (crossOp ty 2 a b).1 = (if intOf ty a ≤ intOf ty b then b else a) ∧
    (crossOp ty 3 a b).1 = a &&& b ∧ (crossOp ty 4 a b).1 = a ||| b ∧ (crossOp ty 5 a b).1 = a ^^^ b) ∧
  (∀ (ty : Ty) (a b : Nat), ty = .l16 ∨ ty = .l32 →
    let t := Log.fmtOf ty
    let x := Log.decode t a
    let y := Log.decode t b
    crossOp ty 0 a b = (Log.encode t (Log.gla t 0 x y).1, (Log.gla t 0 x y).2) ∧
    crossOp ty 1 a b = (Log.encode t (if nanV x ∨ nanV y then .nan else if below x y then x else if below y x then y
      else if signV x then x else if signV y then y else x), 0) ∧
    crossOp ty 2 a b = (Log.encode t (if nanV x ∨ nanV y then .nan else if below x y then y else if below y x then x
      else if !signV x then x else if !signV y then y else x), 0)) ∧
  (∀ (ty : Ty) (op a : Nat), op ≤ 5 → ty.isLog = false → a < 2 ^ ty.width →
    (crossOp ty op (crossId ty op) a).1 = a ∧ (crossOp ty op a (crossId ty op)).1 = a) ∧
  (∀ (ty : Ty) (op : Nat) (v : LV), op ≤ 2 → (ty = .l16 ∨ ty = .l32) →
    (∀ s l, v = .fin s l → (Log.fmtOf ty).lmin ≤ l ∧ l ≤ (Log.fmtOf ty).lmax) → v ≠ .nan →
    let c := Log.encode (Log.fmtOf ty) v
    (crossOp ty op c (crossFill ty op)).1 = c ∧ (crossOp ty op (crossFill ty op) c).1 = c))

/-! ### Log instructions (06 R144 to R167) -/

/-- 05 R122, R123: reading the code of a value gives the value back, every NaN code reads as NaN and the canonical one is written
for it; Pack keeps a value in range and otherwise gives what its mode says, with OV or UF. 06 R156, R157, R158: `lmin` and
`lmax` return one of their operands, `lcmp` compares with NaN unordered, `lcls` names the class of a code; R165, R166: packing
narrow codes into a register and taking one out, a NaN code made canonical. -/
def Obligations.LogCodesAndOrder : Prop :=
  ((∀ (t : LFmt) (v : LV), 2 ≤ t.lbits → (∀ s l, v = .fin s l → -(2 : Int) ^ (t.lbits - 1) ≤ l ∧ l < (2 : Int) ^ (t.lbits - 1)) →
    Log.decode t (Log.encode t v) = v ∧ Log.encode t v < 2 ^ (t.lbits + 2)) ∧
  (∀ (t : LFmt) (c : Nat), 2 ≤ t.lbits → c < 2 ^ (t.lbits + 2) → Log.decode t c ≠ .nan → Log.encode t (Log.decode t c) = c) ∧
  (∀ (t : LFmt) (mode : Nat) (s : Bool) (l : Int), Log.pack t mode s l = packed t mode s l) ∧
  (Log.encode .l32 .nan = 0x60000000 ∧ Log.encode .l16 .nan = 0x6000 ∧ Log.encode .l8 .nan = 0x60 ∧
    Log.encode .l32 (.inf true) = 0xDFFFFFFF ∧ Log.encode .l16 (.inf false) = 0x5FFF ∧ Log.encode .l8 (.zero true) = 0xC0)) ∧
  (∀ (s : State) (f : FmtV),
    let t := Log.fmtOf f.ty
    let bin := Wf.bin32
    let cmp := Wf.use .predDst .r32 .r32 .unused .inB
    let key (a : LV) : LV := if f.fn = 1 then magnitude a else a
    VGives (.lmin f) s f bin tc0 (logwise s f bin fun a b _ => (
      if nanV a ∨ nanV b then .nan
      else if below (key a) (key b) then a else if below (key b) (key a) then b
      else if signV a then a else if signV b then b else a, 0)) ∧
    VGives (.lmax f) s f bin tc0 (logwise s f bin fun a b _ => (
      if nanV a ∨ nanV b then .nan
      else if below (key a) (key b) then b else if below (key b) (key a) then a
      else if !signV a then a else if !signV b then b else a, 0)) ∧
    VGives (.lcmp f) s f cmp tc0 (lanewise s f cmp fun x y _ =>
      let a := Log.decode t x
      let b := Log.decode t y
      let un := nanV a || nanV b
      let lt := below a b
      let gt := below b a
      let c : Bool := match f.fn.toNat with
        | 0 => !un && !lt && !gt
        | 1 => un || lt || gt
        | 2 => !un && lt
        | 3 => !un && !gt
        | 4 => !un && gt
        | 5 => !un && !lt
        | 6 => un
        | _ => !un
      if c then 1 else 0) ∧
    VGives (.lcls f) s f Wf.un32 tc0 (lanewise s f Wf.un32 fun x _ _ =>
      match Log.decode t x with
      | .zero false => 0 | .zero true => 1 | .fin false _ => 2 | .fin true _ => 3 | .inf false => 4 | .inf true => 5
      | .nan => if x % 2 ^ (t.lbits + 2) = 2 ^ t.lbits + 2 ^ (t.lbits - 1) then 6 else 7)) ∧
  (∀ (s : State) (f : FmtV),
    let p (t : LFmt) (y : Nat) : Nat := if Log.decode t y = .nan then 2 ^ t.lbits + 2 ^ (t.lbits - 1) else y % 2 ^ (t.lbits + 2)
    let pk := if f.ty = .l8 then Wf.tern32 else Wf.bin32
    VGives (.lpk f) s f pk tc0 (lanewise s f pk fun a b c =>
      if f.ty = .l8 then
        if f.fn = 1 then c % 65536 + p .l8 (a % 256) * 65536 + p .l8 (b % 256) * 16777216
        else p .l8 (a % 256) + p .l8 (b % 256) * 256 + c / 65536 % 65536 * 65536
      else p .l16 (a % 65536) + p .l16 (b % 65536) * 65536) ∧
    VGives (.lupk f) s f Wf.un32 tc0 (lanewise s f Wf.un32 fun a _ _ =>
      if f.ty = .l8 then p .l8 (a / 256 ^ f.fn.toNat % 256) else p .l16 (a / 65536 ^ f.fn.toNat % 65536)))

/-- 06 R150 to R153: `lmul` and `ldiv`: the sign is sa XOR sb and a finite result is exact before the range check; the unary
multiplicative instructions; `lpow` raises to the power of its immediate, `lscl` multiplies by a power of two. -/
def Obligations.LogMultiplicative : Prop :=
  (∀ (s : State) (f : FmtV),
    let t := Log.fmtOf f.ty
    let gives (i : Instr) (op : LV → LV → LV × Flags) : Prop :=
      VGives i s f Wf.bin32 tc0 (logwise s f Wf.bin32 fun a b _ => op a b)
    gives (.lmul f) (fun a b =>
      let sg := signV a ^^ signV b
      if nanV a ∨ nanV b then (.nan, 0)
      else if (zeroV a ∧ infV b) ∨ (infV a ∧ zeroV b) then (.nan, 8)
      else if infV a ∨ infV b then (.inf sg, 0)
      else if zeroV a ∨ zeroV b then (.zero sg, 0)
      else packed t (packMode f) sg (lOf a + lOf b)) ∧
    gives (.ldiv f) (fun a b =>
      let sg := signV a ^^ signV b
      if nanV a ∨ nanV b then (.nan, 0)
      else if (zeroV a ∧ zeroV b) ∨ (infV a ∧ infV b) then (.nan, 8)
      else if infV a ∨ zeroV b then (.inf sg, 0)
      else if zeroV a ∨ infV b then (.zero sg, 0)
      else packed t (packMode f) sg (lOf a - lOf b))) ∧
  (∀ (s : State) (f : FmtV),
    let t := Log.fmtOf f.ty
    let gives (i : Instr) (op : LV → LV × Flags) : Prop :=
      VGives i s f Wf.un32 tc0 (logwise s f Wf.un32 fun a _ _ => if nanV a then (.nan, 0) else op a)
    gives (.lrcp f) (fun a => if zeroV a then (.inf (signV a), 0) else if infV a then (.zero (signV a), 0)
      else packed t (packMode f) (signV a) (-lOf a)) ∧
    gives (.lsqr f) (fun a => if zeroV a then (.zero false, 0) else if infV a then (.inf false, 0)
      else packed t (packMode f) false (2 * lOf a)) ∧
    gives (.lsqrt f) (fun a => if zeroV a then (a, 0) else if signV a then (.nan, 8) else if infV a then (a, 0)
      else (.fin false (nearest (lOf a) 2), 0)) ∧
    gives (.lneg f) (fun a => (match a with
      | .nan => .nan | .inf s => .inf (!s) | .zero s => .zero (!s) | .fin s l => .fin (!s) l, 0)) ∧
    gives (.labs f) (fun a => (magnitude a, 0))) ∧
  (∀ (s : State) (f : FmtV) (v : FmtVI),
    let k := v.imm.toInt
    let w := viAsV v
    VGives (.lpow v) s w Wf.un32 tc0 (logwise s w Wf.un32 fun a _ _ =>
      let sg := signV a && decide (k % 2 = 1)
      if nanV a then (.nan, 0)
      else if k = 0 then (.fin false 0, 0)
      else if zeroV a then (if 0 < k then .zero sg else .inf sg, 0)
      else if infV a then (if 0 < k then .inf sg else .zero sg, 0)
      else packed (Log.fmtOf v.ty) (packMode w) sg (k * lOf a)) ∧
    VGives (.lscl f) s f Wf.bin32 tc0 (flagwise s f Wf.bin32 fun a b _ =>
      let t := Log.fmtOf f.ty
      let x := Log.decode t a
      let r := if nanV x ∨ zeroV x ∨ infV x then (x, 0)
        else packed t (packMode f) (signV x) (lOf x + (BitVec.ofNat 32 b).toInt * (2 : Int) ^ t.f)
      (Log.encode t r.1, r.2)))

/-- 05 R131, R133, R136: the Gaussian-log sum: the special operands in the order of the table, else the larger operand's sign and
L plus the distance of its tables, packed; 06 R154, R155: `ladd`, `lsub` and `lmad`; log8 operands are widened to log16 and the
sum is narrowed. -/
def Obligations.LogSums : Prop :=
  (∀ (t : LFmt) (mode : Nat) (a b : LV), t = .l16 ∨ t = .l32 →
    let dist := if t = .l16 then Log.dist16 else Log.dist32
    ((a = .nan ∨ b = .nan) → Log.gla t mode a b = (.nan, 0)) ∧
    (∀ s, a = .inf s → b = .inf (!s) → Log.gla t mode a b = (.nan, 8)) ∧
    (∀ s, (a = .inf s ∧ b ≠ .nan ∧ b ≠ .inf (!s)) ∨ (b = .inf s ∧ a ≠ .nan ∧ a ≠ .inf (!s)) →
      Log.gla t mode a b = (.inf s, 0)) ∧
    (∀ s r, a = .zero s → b = .zero r → Log.gla t mode a b = (.zero (s && r), 0)) ∧
    (∀ s r l, (a = .fin s l ∧ b = .zero r) ∨ (b = .fin s l ∧ a = .zero r) → Log.gla t mode a b = packed t mode s l) ∧
    (∀ s l, a = .fin s l → b = .fin (!s) l → Log.gla t mode a b = (.zero false, 0)) ∧
    (∀ s r l m, a = .fin s l → b = .fin r m → m ≤ l → ¬ (l = m ∧ s ≠ r) →
      let d := dist (s == r) (m - l)
      let p := packed t mode s (l + d.1)
      Log.gla t mode a b = (p.1, d.2 ||| p.2) ∧ (m < l → Log.gla t mode b a = (p.1, d.2 ||| p.2)))) ∧
  (∀ (s : State) (f : FmtV),
    let t := Log.fmtOf f.ty
    let mode := packMode f
    let minus (a : LV) : LV := match a with
      | .nan => .nan | .inf s => .inf (!s) | .zero s => .zero (!s) | .fin s l => .fin (!s) l
    let wide (a : LV) : LV := match a with
      | .fin s l => .fin s (64 * l) | .nan => .nan | .inf s => .inf s | .zero s => .zero s
    let narrow (r : LV × Flags) : LV × Flags :=
      match r.1 with
      | .fin s l => let p := packed .l8 mode s (nearest l 64); (p.1, r.2 ||| p.2)
      | v => (v, r.2)
    let sum (a b : LV) : LV × Flags := if f.ty = .l8 then narrow (Log.gla .l16 0 (wide a) (wide b)) else Log.gla t mode a b
    let prod (a b : LV) : LV × Flags :=
      let sg := signV a ^^ signV b
      if nanV a ∨ nanV b then (.nan, 0)
      else if (zeroV a ∧ infV b) ∨ (infV a ∧ zeroV b) then (.nan, 8)
      else if infV a ∨ infV b then (.inf sg, 0)
      else if zeroV a ∨ zeroV b then (.zero sg, 0)
      else (.fin sg (lOf a + lOf b), 0)
    (f.ty = .l8 ∨ f.ty = .l16 ∨ f.ty = .l32) →
      VGives (.ladd f) s f Wf.bin32 tc3 (logwise s f Wf.bin32 fun a b _ => sum a b) ∧
      VGives (.lsub f) s f Wf.bin32 tc3 (logwise s f Wf.bin32 fun a b _ => sum a (minus b)) ∧
      VGives (.lmad f) s f Wf.tern32 tc3 (logwise s f Wf.tern32 fun a b c =>
        if f.ty = .l8 then
          let p := prod (wide a) (wide b)
          let r := narrow (Log.gla .l16 0 p.1 (wide c))
          (r.1, p.2 ||| r.2)
        else
          let p := prod a b
          let r := Log.gla t mode p.1 c
          (r.1, p.2 ||| r.2)))

/-- 06 R159 to R164: conversions between log formats, integers and fixed point, powers and logarithms of two, and the exact cases
of the roundings; the roundings of log2 and of 2^x are otherwise those of log entry 10. -/
def Obligations.LogConversions : Prop :=
  (∀ (s : State) (f : FmtV),
    let t := Log.fmtOf f.ty
    let n := f.fn.toNat
    let sel : Ty := match n % 4 with | 0 => .i32 | 1 => .n32 | 2 => .i64 | _ => .n64
    let kind : OpK := if n % 4 < 2 then .r32 else .r64
    let fi := Wf.use .r32 kind .unused .unused .noScalar
    let ti := Wf.use kind .r32 .unused .unused .noScalar
    let un := Wf.un32
    let into (q : Nat) (mode : Nat) (x : Int) : Nat × Flags :=
      let r : LV × Flags := if x = 0 then (.zero false, 0)
        else packed t mode (decide (x < 0)) (Log.log2Fix x.natAbs (-(q : Int) * 4194304) t.f).rne
      (Log.encode t r.1, r.2)
    let outOf (q : Nat) (rz : Bool) (lo hi : Int) (w : Nat) (v : LV) : Nat × Flags :=
      let r : Int × Flags :=
        if nanV v then (0, 8) else if infV v then (if signV v then lo else hi, 1) else if zeroV v then (0, 0)
        else
          let e := Log.exp2Fix 1 (lOf v * 2 ^ (22 - t.f)) q
          let m := if rz then e.trunc else e.rne
          let x := if signV v then -m else m
          if hi < x then (hi, 1) else if x < lo then (lo, 1) else (x, 0)
      ((r.1 % (2 : Int) ^ w).toNat, r.2)
    (1 ≤ n % 4 →
      let src : LFmt := match n % 4 with | 1 => .l8 | 2 => .l16 | _ => .l32
      VGives (.lcvt f) s f un tc1 (flagwise s f un fun a _ _ =>
        let r : LV × Flags := match Log.decode src a with
          | .fin sg l =>
            let d := if src.f ≤ t.f then l * 2 ^ (t.f - src.f)
              else if n.testBit 2 then
                let m : Nat := l.natAbs / 2 ^ (src.f - t.f)
                let m : Nat := if l.natAbs % 2 ^ (src.f - t.f) ≠ 0 ∧ m % 2 = 0 then m + 1 else m
                if l < 0 then -(m : Int) else m
              else nearest l (2 ^ (src.f - t.f))
            packed t (if n.testBit 3 then 2 else 0) sg d
          | v => (v, 0)
        (Log.encode t r.1, r.2))) ∧
    VGives (.lfi f) s f fi tc1 (flagwise s f fi fun a _ _ => into 0 (if n.testBit 2 then 2 else 0) (intOf sel a)) ∧
    VGives (.lti f) s f ti tc1 (flagwise s f ti fun a _ _ =>
      outOf 0 (n.testBit 2) (leastOf sel) (greatestOf sel) sel.width (Log.decode t a)) ∧
    VGives (.lxf f) s f un tc1 (flagwise s f un fun a _ _ =>
      into (n % 32) (if n.testBit 5 then 2 else 0) (BitVec.ofNat 32 a).toInt) ∧
    VGives (.lfx f) s f un tc1 (flagwise s f un fun a _ _ =>
      outOf (n % 32) (n.testBit 5) (-2147483648) 2147483647 32 (Log.decode t a))) ∧
  (∀ (s : State) (f : FmtV),
    let t := Log.fmtOf f.ty
    let un := Wf.un32
    VGives (.lexp2 f) s f un tc2 (logwise s f un fun a _ _ =>
      if nanV a then (.nan, 0)
      else if zeroV a then (.fin false 0, 0)
      else if infV a then (if signV a then .zero false else .inf false, 0)
      else
        let m := (Log.exp2Fix 1 (lOf a * 2 ^ (22 - t.f)) t.f).rne
        packed t (packMode f) false (if signV a then -m else m)) ∧
    VGives (.llg2 f) s f un tc2 (logwise s f un fun a _ _ =>
      if nanV a then (.nan, 0)
      else if zeroV a then (.inf true, 0)
      else if signV a then (.nan, 8)
      else if infV a then (.inf false, 0)
      else if lOf a = 0 then (.zero false, 0)
      else packed t 0 (decide (lOf a < 0)) (Log.log2Fix (lOf a).natAbs (-(t.f : Int) * 4194304) t.f).rne)) ∧
  ((∀ (k f : Nat) (q : Int), f ≤ 22 → (Log.log2Fix (2 ^ k) (q * 4194304) f).rne = ((k : Int) + q) * (2 : Int) ^ f) ∧
  (∀ (k : Int) (q : Nat), 0 ≤ k + q → (Log.exp2Fix 1 (k * 4194304) q).rne = (2 : Int) ^ (k + q).toNat ∧
    (Log.exp2Fix 1 (k * 4194304) q).trunc = (2 : Int) ^ (k + q).toNat) ∧
  ∀ (k : Int) (q : Nat), k + q < 0 → (Log.exp2Fix 1 (k * 4194304) q).rne = 0 ∧ (Log.exp2Fix 1 (k * 4194304) q).trunc = 0)

/-! ### Memory access (08 R196 to R220, 09 R223 to R228) -/

/-- 08 R212 to R220: the memory instructions complete when nothing stops them: each lane is performed as its entry says, and the
results or the acknowledgement follow; `pf` completes whatever its lanes come to and changes no data, no register and no state; that
it drops them all when its offset register lies beyond the launch's count is the model's reading (log entry 23). 08 R215, R216,
R217, R219, R220, 11 R297, R298: what a lane of the other instructions does: the elements `ldc` and `stc` convert one by one, the
states `fest` sets and `feq` reads, the line that `dsc` drops at every level above HBM, that `wbk` writes back and `linv` takes
out of the core's L1. 08 R213, 09 R239, 03 R75: what a completed
access leaves outstanding: one entry with its kind, its registers, the loaded words and flags, the reply on its way, and an
entry for stores at peers; nothing else changes. -/
def Obligations.AccessesComplete : Prop :=
  (∀ (s : State) (f : FmtM),
    Accesses (.ld f) s (memReq s f true false) none (ldLane s.cur f) ∧
    Accesses (.st f) s (memReq s f false true) none (stLane s f) ∧
    Accesses (.ldc f) s (convReq s f true) none (ldcLane s f) ∧
    Accesses (.stc f) s (convReq s f false) none (stcLane s f) ∧
    Accesses (.festFull f) s (festReq s f true) none
      (fun o _ pl => laneDone o (festLane o.s s.cur f.as.toNat (2 ^ f.sz.toNat) true pl) [] 0) ∧
    Accesses (.festEmpty f) s (festReq s f false) none
      (fun o _ pl => laneDone o (festLane o.s s.cur f.as.toNat (2 ^ f.sz.toNat) false pl) [] 0) ∧
    Accesses (.feq f) s (feqReq s f) (some (f.d.toNat % 8)) (feqPut s.cur f) ∧
    Accesses (.dsc f) s (lineReq s f true) none (lineLane fun t pa => discardLine t (pa / 256)) ∧
    Accesses (.wbk f) s { lineReq s f false with drop := true } none
      (lineLane fun t pa => writeBackLine t t.curCore f.as.toNat (pa / 256)) ∧
    Accesses (.linv f) s { lineReq s f false with drop := true, now := true } none
      (lineLane fun t pa => l1Purge t t.curCore pa) ∧
    (let ls := if (firstLimit s.g [(f.a.toNat, 1)]).isSome then [] else lanesOf (activeMask s.g f.ps f.pn) s.g.gw
     let r := resolveLanes s s.cur (lineReq s f false) ls
     s.noMem = none → r.1.noMem = none →
     (∀ l ∈ r.2, ∀ a p, l.2 = .ok a p → Reachable p 1) →
       ∃ e t, exec (.pf f) s = .next t ∧ Passes e t s.cur ∧ (t.grp s.cur).inflight = s.g.inflight ∧
         { e.grp s.cur with retc := s.g.retc, park := s.g.park } = s.g ∧ (e.grp s.cur).retc = s.g.retc + 1 ∧
         (∀ c a, storeRead e c a 1 = storeRead s c a 1) ∧ e.teams = s.teams ∧ e.empties = s.empties ∧
         (Settled s → ∀ a, (∀ x ∈ (e.core (s.cur / 32)).tlb, a ≠ x.entry) → peek e a 1 = peek s a 1)) ∧
    (∀ r, s.noMem = none → firstLimit s.g [(f.a.toNat, 1)] = some r → Issues (.pf f) s (retireNow s s.cur))) ∧
  (∀ (s : State) (f : FmtM) (o : AOut) (i off : Nat),
    let g := s.cur
    let tm := s.teamOf g
    let x := recFor s f
    let scale (q : AReq) (div : Bool) : Option (Bool × LV) :=
      let a := laneAddr s.g q i
      if x.scm = 0 then none
      else some (div, Log.decode .l32 (tget o.tab 0 (if x.scm = 2 then x.scaddr + 4 * (Cv.rowOf x a).1 else x.scaddr)))
    let cl := convForm x true (2 ^ f.sz.toNat)
    let cs := convForm x false (2 ^ f.sz.toNat)
    let v := storeRead o.s (storeCore (o.s.teamOf g) (g / 32) off) ((o.s.teamOf g).frame + off) cl.span
    let d := storeData s g f (2 ^ f.sz.toNat) i
    let ld := ldcLane s f o i (.store off)
    let st := stcLane s f o i (.store off)
    let into := converted (fun k =>
      Cv.step x.menc cl.renc x.sat (x.rnd == 1) (scale (convReq s f true) false) (v / 2 ^ (8 * cl.e * k) % 2 ^ (8 * cl.e)))
      cl.per cl.count
    let out : Nat × Flags := if x.rfmt ∈ [1, 2, 3, 6] then converted (fun k =>
      Cv.step cs.renc x.menc x.sat (x.rnd == 1) (scale (convReq s f false) true) (d / 2 ^ (8 * cs.per * k) % 2 ^ (8 * cs.per)))
      cs.e cs.count else (d, 0)
    let codes := (List.range 32).foldl (fun a e =>
      a + Cv.blockCode x.menc (v * 2 ^ 32) e * 2 ^ ((if Cv.isBl8 x.menc then 8 else 4) * e)) 0
    let loads (w : Nat) (fl : Flags) : Prop :=
      ld.vregs = o.vregs ++ loadWords f i w ∧ ld.fl = o.fl ||| fl ∧ ld.done = o.done + 1 ∧ ld.fmt = o.fmt ∧ ld.s = o.s
    f.fe = 0 →
      (x.rfmt ∈ [1, 2, 3, 6] → loads into.1 into.2) ∧
      (x.rfmt = 4 → Cv.malformed x.menc (v * 2 ^ 32) = false → loads codes 0) ∧
      (x.rfmt = 4 → Cv.malformed x.menc (v * 2 ^ 32) = true → ld.fmt = o.fmt ++ [i] ∧ ld.vregs = o.vregs) ∧
      (x.rfmt ∈ [0, 5, 7] → loads v 0) ∧
      st.done = o.done + 1 ∧ st.fl = o.fl ||| out.2 ∧ st.vregs = o.vregs ∧
      ((o.s.teamOf g) = tm → ∀ c a, storeRead st.s c a 1 =
        if c ∈ holders tm (g / 32) off ∧ tm.frame + off ≤ a ∧ a < tm.frame + off + cs.span then
          out.1 / 256 ^ (a - (tm.frame + off)) % 256
        else storeRead o.s c a 1)) ∧
  (∀ (s : State) (f : FmtM) (o : AOut) (g as n i off : Nat) (full : Bool),
    let words := placeObjs (s.teamOf g) (g / 32) (.store off) n
    let t := festLane s g as n full (.store off)
    (∀ w ∈ words, isFull t w = full) ∧ (∀ w, (∀ v ∈ words, wordOf v ≠ wordOf w) → isFull t w = isFull s w) ∧
    (∀ c a, storeRead t c a 1 = storeRead s c a 1) ∧ (∀ a, peek t a 1 = peek s a 1) ∧
    (let ws := placeObjs (o.s.teamOf g) (g / 32) (.store off) (2 ^ f.sz.toNat)
     let u := feqPut g f o i (.store off)
     u.s = o.s ∧ u.pmask = o.pmask ||| laneBit i ∧ ((∀ w ∈ ws, isFull o.s w = true) → u.pval = o.pval ||| laneBit i) ∧
     (¬ (∀ w ∈ ws, isFull o.s w = true) → u.pval = o.pval))) ∧
  (∀ (s : State) (c as line pa : Nat),
    let dsc := discardLine s line
    let wbk := writeBackLine s c as line
    let linv := l1Purge s c pa
    (∀ k, ∀ x ∈ (dsc.core k).l1, x.line / 4 ≠ line) ∧ (∀ l ∈ dsc.l2, l.line ≠ line) ∧ dsc.empties = s.empties ∧
    (∀ x ∈ (wbk.core c).l1, x.line / 4 = line → x.dirty = 0) ∧ (as = 3 → ∀ l ∈ wbk.l2, l.line = line → l.dirty = 0) ∧
    (∀ x ∈ (linv.core c).l1, x.line ≠ pa / 64) ∧ (∀ x ∈ (s.core c).l1, x.line ≠ pa / 64 → x ∈ (linv.core c).l1) ∧
    (Settled s → ∀ a,
      peek dsc a 1 = (if a / 256 = line then hbmLine s line / 2 ^ (8 * (a % 256)) % 256 else peek s a 1) ∧
      peek wbk a 1 = peek s a 1 ∧ peek linv a 1 = peek s a 1 ∧
      (as = 3 → a / 256 = line → hbmLine wbk line / 2 ^ (8 * (a % 256)) % 256 = peek s a 1))) ∧
  (∀ (s : State) (q : AReq) (o : AOut) (pd : Option Nat),
    let g := s.cur
    let x := s.grp g
    let e := accessWork s q o pd true
    let reply : Instr := match q.kind with
      | .store => .storeAck (g / 32) (g % 32) x.seq
      | .atomic => .atomicReturn (g / 32) (g % 32) x.seq
      | _ => .loadDataReturn (g / 32) (g % 32) x.seq
    (q.now = false →
      (∃ p rest, (e.grp g).pend = x.pend ++ p :: rest ∧ (∀ r ∈ rest, r.kind = .peerStore ∧ r.seq = x.seq) ∧
        p.kind = q.kind ∧ p.seq = x.seq ∧ p.k = q.k ∧ p.regs = q.dest ∧ p.vregs = o.vregs ∧ p.flags = o.fl ∧
        p.retires = true ∧ p.preds = (match pd with | some d => [(d, o.pmask, o.pval)] | none => [])) ∧
      (e.grp g).window = (if q.win then (⟨x.seq, q.k, []⟩ :: x.window).take 8 else x.window) ∧
      e.agenda = s.agenda ++ [.event reply] ∧ (e.grp g).retc = x.retc) ∧
    (q.now = true → (e.grp g).retc = x.retc + 1 ∧ e.agenda = s.agenda ∧ (e.grp g).window = x.window) ∧
    { e.grp g with pend := x.pend, window := x.window, retc := x.retc } = x ∧ (∀ h, h ≠ g → e.grp h = s.grp h) ∧
    (∀ c a, storeRead e c a 1 = storeRead s c a 1) ∧ { e with cores := s.cores, agenda := s.agenda } = s)

/-- 08 R196, R214: a plain load through t0 reads each active lane's bytes of the team's window, zero-extended, for D on; nothing
else changes. 08 R196, R214, 04 R99: a plain store through t0 writes each active lane's data to its bytes of the team's
window, the highest lane's where lanes overlap; every other byte of every store, device memory and every register are as
before. 08 R197: the checks of a load or store through t0, in their order: MISALIGN, PROT, then a watchpoint, a sync-held word
for a store, and an uncorrectable word; the whole instruction traps for the failing lanes, with the lowest one's address. The
places of SYNC_CLOBBER and ECC_UNCORR in that order are the model's reading (log entry 27). -/
def Obligations.WindowAccesses : Prop :=
  (∀ (s : State) (f : FmtM),
    let g := s.cur
    let x := s.grp g
    let tm := s.teamOf g
    let n := 2 ^ f.sz.toNat
    let q := memReq s f true false
    let ls := laneList s q
    let off (i : Nat) : Nat := (laneOffset s g f i).toNat
    let data (i : Nat) : Nat := mread (s.core (storeCore tm (g / 32) (off i))).store (tm.frame + off i) n
    s.noMem = none → accessGate s q = none → InWindow s f → unwatched x → f.fe = 0 →
    (∀ i ∈ ls, storeBad s (storeCore tm (g / 32) (off i)) (tm.frame + off i) n = false) →
      ∃ t, exec (.ld f) s = .next t ∧
        Passes (accessWork s q { s := s, vregs := ls.flatMap fun i =>
            if 224 ≤ f.d.toNat then [] else (List.range (if f.sz.toNat < 2 then 1 else 2 ^ (f.sz.toNat - 2))).map fun k =>
              ⟨f.d.toNat + k, i, BitVec.ofNat 32 (data i / 2 ^ (32 * k))⟩ } none true) t g) ∧
  (∀ (s : State) (f : FmtM),
    let g := s.cur
    let x := s.grp g
    let tm := s.teamOf g
    let n := 2 ^ f.sz.toNat
    let q := memReq s f false true
    let ls := laneList s q
    let off (i : Nat) : Nat := (laneOffset s g f i).toNat
    let data (i : Nat) : Nat := storeData s g f n i
    let covers (c a i : Nat) : Bool := decide (c ∈ holders tm (g / 32) (off i)) && decide (tm.frame + off i ≤ a) &&
      decide (a < tm.frame + off i + n)
    s.noMem = none → accessGate s q = none → InWindow s f → unwatched x → f.fe = 0 →
    (∀ i ∈ ls, ∀ b ∈ tm.barriers, ¬ (b < off i + n ∧ off i < b + 16)) →
      ∃ e t, exec (.st f) s = .next t ∧ Passes (accessWork e q { s := e } none true) t g ∧
        (∀ c a, storeRead e c a 1 = match ls.reverse.find? (covers c a) with
          | some i => data i / 256 ^ (a - (tm.frame + off i)) % 256
          | none => storeRead s c a 1) ∧
        (∀ a, peek e a 1 = peek s a 1) ∧ (∀ h, e.grp h = s.grp h) ∧ e.teams = s.teams ∧ e.headland = s.headland) ∧
  (∀ (s : State) (f : FmtM) (load : Bool),
    let g := s.cur
    let x := s.grp g
    let tm := s.teamOf g
    let t0 := tget x.tregs {} 0
    let n : Nat := 2 ^ f.sz.toNat
    let q := memReq s f load (!load)
    let ls := laneList s q
    let i : Instr := if load then .ld f else .st f
    let off (j : Nat) : Int := laneOffset s g f j
    let addr (j : Nat) : Nat := (((t0.vbase : Int) + off j) % (2 : Int) ^ 64).toNat
    let mis := ls.filter fun j => ((t0.vbase : Int) + off j) % (n : Int) ≠ 0
    let prot := ls.filter fun j => !t0.val || off j < 0 || (t0.limit : Int) < off j + n
    let held := ls.filter fun j => !load && tm.barriers.any fun b => b < (off j).toNat + n && (off j).toNat < b + 16
    let bad := ls.filter fun j => (load || f.fe != 0) && storeBad s (storeCore tm (g / 32) (off j).toNat) (tm.frame + (off j).toNat) n
    s.noMem = none → accessGate s q = none → f.t = 0 →
      (∀ j r, mis = j :: r → Traps i s 0x05 (addr j) (maskOf mis)) ∧
      (∀ j r, mis = [] → prot = j :: r → Traps i s 0x06 (addr j) (maskOf prot)) ∧
      (∀ j r, mis = [] → prot = [] → unwatched x → held = j :: r → Traps i s 0x09 (addr j) (maskOf held)) ∧
      (∀ j r, mis = [] → prot = [] → unwatched x → held = [] → bad = j :: r → Traps i s 0x0E (addr j) (maskOf bad)))

/-- 08 R198, R199: a lane with a full/empty form is performed only when every word it touches is in the state the form waits for,
and then its words change state; a lane that is not performed changes nothing. 08 R204: a change of a word's state wakes
entries of its list: to full every `.wait` entry and the oldest `.take`, to empty the oldest `.fill`; the others stay, in
their order, and a word already in the state changes nothing. 08 R202, R205: when lanes are left that wait for a state, the
group parks at its instruction with those lanes, on the list of the lead word: at its tail, or, when it returns to the word it
waited for, at its old place, behind the entries that came before it alone (log entry 13); the count of futile wakes rises only
when no lane was performed. -/
def Obligations.FullEmptyWords : Prop :=
  (∀ (s : State) (g as n off v pol : Nat),
    let tm := s.teamOf g
    let words := placeObjs tm (g / 32) (.store off) n
    let is (full : Bool) : Prop := ∀ o ∈ words, isFull s o = full
    let c := storeCore tm (g / 32) off
    (¬ is true →
      loadLane s g 1 as n pol (.store off) = (s, none) ∧ loadLane s g 2 as n pol (.store off) = (s, none) ∧
      storeLane s g 1 as n v pol (.store off) = (s, false)) ∧
    (¬ is false → storeLane s g 3 as n v pol (.store off) = (s, false)) ∧
    (is true →
      loadLane s g 1 as n pol (.store off) = (s, some (storeRead s c (tm.frame + off) n)) ∧
      (loadLane s g 2 as n pol (.store off)).2 = some (storeRead s c (tm.frame + off) n) ∧
      (∀ o ∈ words, isFull (loadLane s g 2 as n pol (.store off)).1 o = false) ∧
      storeLane s g 1 as n v pol (.store off) = (winWrite s tm (g / 32) off n v, true)) ∧
    (is false → (storeLane s g 3 as n v pol (.store off)).2 = true ∧
      (∀ o ∈ words, isFull (storeLane s g 3 as n v pol (.store off)).1 o = true) ∧
      ∀ d a, storeRead (storeLane s g 3 as n v pol (.store off)).1 d a 1 =
        storeRead (winWrite s tm (g / 32) off n v) d a 1)) ∧
  (∀ (s : State) (o : WObj) (full : Bool),
    let o' := wordOf o
    let hit (w : Waiter) : Bool := w.obj == o' && (if full then w.fe == 1 || w.fe == 2 else w.fe == 3)
    let once := if full then 2 else 3
    (isFull s o = full → setFE s o full = s) ∧
    (isFull s o ≠ full →
      let t := setFE s o full
      isFull t o = full ∧
      (∀ w ∈ t.headland, w ∈ s.headland) ∧
      (∀ w ∈ s.headland, hit w = false → w ∈ t.headland) ∧
      (full = true → ∀ w ∈ t.headland, ¬ (w.obj = o' ∧ w.fe = 1)) ∧
      (t.headland.filter fun w => w.obj == o' && w.fe == once) =
        (s.headland.filter fun w => w.obj == o' && w.fe == once).drop 1)) ∧
  (∀ (s : State) (g : Nat) (mask : Mask) (q : AReq) (off lead : Nat) (some_ : Bool),
    let x := s.grp g
    let tm := s.teamOf g
    let a := tm.frame + off / 4 * 4
    let c := if tm.pair && inTeamRegs tm (off / 4 * 4) then tm.core else storeCore tm (g / 32) (off / 4 * 4)
    let cause : Cause := .feStore c a q.fe
    let w (n : Nat) : Waiter := { obj := .store c (a / 4 * 4), who := .group (g / 32) (g % 32), fe := q.fe, arr := n }
    let t := parkState s g mask q (.store off) lead some_
    (x.redo = none →
      (t.grp g).st = .parked ∧ (t.grp g).park = some { cause := cause, mask := mask, pc := x.pc, lead := lead, arr := s.arrivals,
                                                       proxy := some (g / 32, g % 32) } ∧
      t.arrivals = s.arrivals + 1 ∧
      ((∀ v ∈ s.headland, v.arr < s.arrivals) → t.headland = s.headland ++ [w s.arrivals])) ∧
    (∀ r, x.redo = some r → r.cause = cause →
      (t.grp g).st = .parked ∧ t.arrivals = s.arrivals ∧
      (s.headland.Pairwise (fun a b => a.arr ≤ b.arr) → (∀ v ∈ s.headland, v.arr ≠ r.arr) →
        t.headland = (s.headland.filter fun v => v.arr < r.arr) ++ w r.arr :: s.headland.filter fun v => r.arr < v.arr) ∧
      (∃ p, (t.grp g).park = some p ∧ p.cause = cause ∧ p.mask = mask ∧ p.pc = x.pc ∧ p.arr = r.arr ∧
        p.futile = r.futile + if some_ then 0 else 1) ∧
      (some_ = false → (s.ctx (s.ctxOf g)).feretry ≠ 0 → (s.ctx (s.ctxOf g)).feretry ≤ r.futile + 1 →
        .event (.feBudget (g / 32) (g % 32)) ∈ t.agenda)) ∧
    (t.grp g).em = x.em ∧ (t.grp g).sregs = x.sregs ∧ (t.grp g).preds = x.preds ∧ (t.grp g).stack = x.stack)

/-- 09 R225, R237: a write at the home writes its bytes and no other; a read at the home reads them and changes none. 09 R223,
R224: a load by the same core after a store into its L1 reads what it stored. 09 R232 to R234: every line is held in the first
form that fits it, in the sectors of that form, and expands to itself. -/
def Obligations.CachesAndLines : Prop :=
  (∀ (s : State) (ctx pa n v pol : Nat), Settled s → pa % 256 + n ≤ 256 → pa < Config.hbmBytes →
    (∀ a, peek (homeWrite s ctx pa n v pol) a 1 =
      if pa ≤ a ∧ a < pa + n then v / 256 ^ (a - pa) % 256 else peek s a 1) ∧
    (homeRead s ctx pa n pol).2 = peek s pa n ∧ (∀ a, peek (homeRead s ctx pa n pol).1 a 1 = peek s a 1)) ∧
  (∀ (s : State) (c ctx ctx' pa n v pol pol' : Nat),
    l1Sets s c ≠ 0 → pa % 64 + n ≤ 64 →
      (l1Load (l1Store s c ctx pa n v pol) c ctx' pa n pol').2 = v % 2 ^ (8 * n)) ∧
  (∀ d : Nat, d < 2 ^ 2048 →
    let c := compressLine d
    expandLine c.1 c.2.2 = d ∧ c.2.2 < 2 ^ (256 * c.2.1) ∧ c.2.1 = codeSectors c.1 ∧ c.1 ≤ 6 ∧
    let elem (eb i : Nat) : Nat := d / 2 ^ (eb * i) % 2 ^ eb
    let lOf (eb i : Nat) : Int := (BitVec.ofNat (eb - 2) (elem eb i)).toInt
    let fits (eb w : Nat) : Prop := ∀ i, i < 2048 / eb →
      elem eb i / 2 ^ (eb - 2) % 2 = 0 ∧ elem eb i / 2 ^ (eb - 1) = elem eb 0 / 2 ^ (eb - 1) ∧
      -(2 : Int) ^ (w - 1) ≤ lOf eb i - lOf eb 0 ∧ lOf eb i - lOf eb 0 < (2 : Int) ^ (w - 1)
    let word : Prop := ∃ w, w < 2 ^ 32 ∧ ∀ i, i < 64 → elem 32 i = w
    (d = 0 → c.1 = 1) ∧ (d ≠ 0 →
      (word → c.1 = 2) ∧ (¬ word →
        (fits 16 3 → c.1 = 3) ∧ (¬ fits 16 3 →
          (fits 32 7 → c.1 = 5) ∧ (¬ fits 32 7 →
            (fits 16 7 → c.1 = 4) ∧ (¬ fits 16 7 →
              (fits 32 15 → c.1 = 6) ∧ (¬ fits 32 15 → c.1 = 0)))))))

/-! ### Atomics (09 R238 to R245) -/

/-- 09 R239, R241: the atomics complete when nothing stops them, each lane performed with the operation of its entry; on store
words the active lanes, in home-lane order, each take the word's value as the one before left it and leave the result of their
operation; every lane returns the value it found, and the flags go to MASTAT. -/
def Obligations.Atomics : Prop :=
  (∀ (s : State) (i : Instr) (f : FmtA) (b c : Bool) (tr : Travel) (op : Nat → Nat → Nat → Nat × Flags),
    atomForm i = some (f, b, c, tr, op) → Accesses i s (atomReq s f b c tr) none (atomLanes s f b c tr op)) ∧
  (∀ (s : State) (f : FmtA) (b c : Bool) (tr : Travel) (op : Nat → Nat → Nat → Nat × Flags) (o : AOut) (i off : Nat),
    let g := s.cur
    let tm := s.teamOf g
    let w := atomWidth f.ty
    let v := storeRead o.s (storeCore tm (g / 32) off) (tm.frame + off) w
    let r := op v (atomOperand s g f.ty f.b.toNat i) (atomOperand s g f.ty f.c.toNat i)
    let u := atomLanes s f b c tr op o i (.store off)
    u.done = o.done + 1 ∧ u.vregs = o.vregs ++ atomWords f i v ∧ u.wrong = o.wrong ∧ u.fmt = o.fmt ∧
    (∀ d a, storeRead u.s d a 1 =
      if d ∈ holders tm (g / 32) off ∧ tm.frame + off ≤ a ∧ a < tm.frame + off + w then r.1 / 256 ^ (a - (tm.frame + off)) % 256
      else storeRead o.s d a 1) ∧
    (u.s.ctx (s.ctxOf g)).mastat = (o.s.ctx (s.ctxOf g)).mastat ||| r.2 ∧
    (∀ a, peek u.s a 1 = peek o.s a 1) ∧ (∀ h, u.s.grp h = o.s.grp h) ∧
    u.s.tickets = o.s.tickets +
      (if f.sq = true ∧ o.done = 0 ∧ ((s.grp g).redo.map (·.begun)).getD false = false then 1 else 0))

/-! ### Replies (03 R75, R81, 05 R139, 08 R213, 09 R239) -/

/-- 03 R75, R81, 04 R103, 05 R139: when the reply of a load, a store, an atomic or a popped queue arrives, the oldest such
work of its instruction is done: its registers, predicates and flags are written and it is counted retired, and the fences that
waited for it complete (10 R270); without such work nothing happens. -/
def Obligations.ReplyDelivers : Prop :=
  ∀ (s : State) (core slot n : Nat) (i : Instr) (ks : List PKind),
    (i, ks) ∈ [(.loadDataReturn core slot n, [.load]), (.storeAck core slot n, [.store]),
      (.atomicReturn core slot n, [.atomic, .sync, .cpf]), (.queuePopDelivery core slot n, [.pop])] →
    s.noMem = none →
    let g := core * 32 + slot
    let x := s.grp g
    let tm := s.teamOf g
    let found := x.pend.find? fun p => p.seq == n && p.ready && ks.contains p.kind
    (found = none → exec i s = .next s) ∧
    (∀ p, found = some p → p.fail = none → p.cq = none → x.gw ≤ 64 →
      (p.vregs.map fun v => (v.reg, v.lane)).Nodup → (∀ v ∈ p.vregs, v.reg ≤ 191 ∧ v.lane < x.gw) →
      ∃ t, exec i s = done (settleFences t g) ∧ ((∀ q ∈ x.pend, q.kind ≠ .fence) → exec i s = .next t) ∧
        (t.grp g).pend = x.pend.erase p ∧ (t.grp g).lstat = x.lstat ||| p.flags ∧
        (t.grp g).retc = (if p.retires then x.retc + 1 else x.retc) ∧
        (p.k = false → ∀ v ∈ p.vregs, storeRead t (g / 32) (regOff tm x v.reg v.lane) 4 = v.val.toNat) ∧
        (∀ c a, (p.k = true ∨ c ≠ g / 32 ∨ ∀ v ∈ p.vregs, a < regOff tm x v.reg v.lane ∨ regOff tm x v.reg v.lane + 4 ≤ a) →
          storeRead t c a 1 = storeRead s c a 1) ∧
        (t.grp g).window = x.window.map (fun e => if e.seq = p.seq then { e with vals := e.vals ++ p.vregs } else e) ∧
        (∀ d m v, p.preds = [(d, m, v)] → d ≠ 0 → predOf (t.grp g) d = (predOf x d &&& ~~~m) ||| (v &&& m)) ∧
        (p.preds = [] → (t.grp g).preds = x.preds) ∧
        (∀ d v, p.sregs = [(d, v)] → ∀ m, readS t g m = if m = 127 then 0 else if m = d then v else readS s g m) ∧
        (p.sregs = [] → (t.grp g).sregs = x.sregs) ∧
        (t.grp g).pc = x.pc ∧ (t.grp g).em = x.em ∧ (t.grp g).live = x.live ∧ (t.grp g).stack = x.stack ∧
        (t.grp g).tregs = x.tregs ∧ (t.grp g).trap = x.trap ∧ ∀ a, peek t a 1 = peek s a 1)


/-! ### Fences, barriers, monitors and tasks (10 R259 to R270, 12 R324 to R338) -/

/-- 12 R326 to R330: the barrier instructions: MISALIGN, PROT and (13 R361) ECC_UNCORR at their object; `bara.init` and `bara.free`; an arrival or a
departure answers the phase it found, once the earlier stores of the group are acknowledged, and parks, or is refused by
`bart.arr`, while members of the last phase have yet to see it; `barw` goes on when the phase has changed, else it parks;
`bart.test` answers whether it has. 12 R328: what an arrival or a departure leaves of the object, and whom it wakes: the last
one expected completes the phase, and every member that waited at the object is woken; the object's bytes are the only ones of
the core's store that change. -/
def Obligations.TeamBarriers : Prop :=
  (∀ (s : State) (f : FmtY),
    let g := s.cur
    let x := s.grp g
    let tm := x.team
    let e := barAddr s f
    let b := barRead s tm e
    let n := f.imm.toNat / 4 % 32 + 1
    let d := f.d.toNat
    let ph := BitVec.ofNat 64 b.ph
    let asked := (readS s g f.a.toNat).toNat % 2 ^ 16
    let all : List Instr := [.baraInit f, .baraFree f, .baraArr f, .baraDrop f, .barw f, .bartArr f, .bartTest f]
    let prot (i : Instr) : Prop := Traps i s 0x06 e x.em
    let parked (i : Instr) (u : State) (arrival : Bool) : Prop :=
      ∃ t r, exec i s = .next t ∧ Moves u t g ∧ (t.grp g).st = .parked ∧ (t.grp g).park = some r ∧
        r.cause = (if arrival then .barArrive tm e else .barWait tm e) ∧ r.pc = x.pc ∧ r.woken = false
    let waits (u : State) (arrival : Bool) : State :=
      u.modTeam tm fun t => { t with barQ := t.barQ ++ [(e, x.member, arrival)] }
    s.noMem = none →
    (e % 16 ≠ 0 → ∀ i ∈ all, Traps i s 0x05 e x.em) ∧
    (e % 16 = 0 → (s.team tm).scr < e + 16 → ∀ i ∈ all, prot i) ∧
    (e % 16 = 0 → e + 16 ≤ (s.team tm).scr → barBad s tm e = true → ∀ i ∈ all, Traps i s 0x0E e x.em) ∧
    (e % 16 = 0 → e + 16 ≤ (s.team tm).scr → barBad s tm e = false →
      (b.sh = false →
        Issues (.baraInit f) s (retireNow (barWrite s tm e ⟨0, n, 0, 0, 0, 0, true⟩) g) ∧
        prot (.baraArr f) ∧ prot (.baraDrop f) ∧ prot (.barw f) ∧ prot (.bartArr f) ∧ prot (.bartTest f)) ∧
      (b.sh = true → b.exp = n → Issues (.baraInit f) s (retireNow s g)) ∧
      (b.sh = true → b.exp ≠ n → prot (.baraInit f)) ∧
      ((b.sh = false ∨ (b.nw = 0 ∧ b.nr = 0 ∧ b.obs = 0)) →
        Issues (.baraFree f) s (retireNow (barWrite s tm e ⟨0, 0, 0, 0, 0, 0, false⟩) g)) ∧
      (b.sh = true → ¬ (b.nw = 0 ∧ b.nr = 0 ∧ b.obs = 0) → prot (.baraFree f)) ∧
      (b.sh = true → b.exp = 0 → prot (.baraArr f) ∧ prot (.baraDrop f) ∧ prot (.bartArr f)) ∧
      (b.sh = true → b.exp ≠ 0 → releaseReady x 1 2 = false →
        ∀ i ∈ [Instr.baraArr f, .baraDrop f, .bartArr f], exec i s = .next (s.setGrp g { x with st := .held })) ∧
      (b.sh = true → b.exp ≠ 0 → releaseReady x 1 2 = true → b.obs = 0 →
        Answers (.baraArr f) s (barStep (releaseHalf s g 1 2) tm e b false) [(d, ph)] [] ∧
        Answers (.baraDrop f) s (barStep (releaseHalf s g 1 2) tm e b true) [(d, ph)] [] ∧
        Answers (.bartArr f) s (barStep (releaseHalf s g 1 2) tm e b false) [(d, ph)] [(f.b.toNat % 8, true)]) ∧
      (b.sh = true → b.exp ≠ 0 → releaseReady x 1 2 = true → b.obs ≠ 0 →
        parked (.baraArr f) (waits (barWrite (releaseHalf s g 1 2) tm e { b with nr := b.nr + 1 }) true) true ∧
        parked (.baraDrop f) (waits (barWrite (releaseHalf s g 1 2) tm e { b with nr := b.nr + 1 }) true) true ∧
        Answers (.bartArr f) s s [(d, ph)] [(f.b.toNat % 8, false)]) ∧
      (b.sh = true → b.ph ≠ asked → x.replay = false → Issues (.barw f) s (retireNow (acquireHalf s g 1 2) g)) ∧
      (b.sh = true → b.ph ≠ asked → x.replay = true → 1 < b.obs →
        Issues (.barw f) s (retireNow (acquireHalf (barWrite s tm e { b with obs := b.obs - 1 }) g 1 2) g)) ∧
      (b.sh = true → b.ph ≠ asked → x.replay = true → b.obs = 1 →
        Issues (.barw f) s
          (retireNow (acquireHalf (barWake (barWrite s tm e { b with obs := 0, nr := 0 }) tm e true) g 1 2) g)) ∧
      (b.sh = true → b.ph = asked → parked (.barw f) (waits (barWrite s tm e { b with nw := b.nw + 1 }) false) false) ∧
      (b.sh = true →
        Answers (.bartTest f) s (if b.ph = asked then s else acquireHalf s g 1 2) [] [(f.b.toNat % 8, decide (b.ph ≠ asked))]))) ∧
  (∀ (s : State) (tm e : Nat) (drop : Bool),
    let t := s.team tm
    let b := barRead s tm e
    let u := barStep s tm e b drop
    let exp := if drop then b.exp - 1 else b.exp
    let arr := if drop then b.arr else b.arr + 1
    let last := 0 < exp ∧ exp ≤ arr
    0 < b.exp →
      (last → barRead u tm e = { b with ph := (b.ph + 1) % 2 ^ 16, exp := exp, arr := 0, obs := b.nw, nw := 0 } ∧
        (u.team tm).barQ = t.barQ.filter (fun q => !(q.1 == e && q.2.2 == false)) ∧
        ∀ q ∈ t.barQ, q.1 = e → q.2.2 = false → ∀ r, ((s.grp ((teamGroups t).getD q.2.1 0)).park = some r →
          ∃ r', ((u.grp ((teamGroups t).getD q.2.1 0)).park = some r' ∧ r'.woken = true ∧ r'.cause = r.cause ∧ r'.pc = r.pc))) ∧
      (¬ last → barRead u tm e = { b with exp := exp, arr := arr % 2 ^ 16 } ∧ (u.team tm).barQ = t.barQ ∧ ∀ h, u.grp h = s.grp h) ∧
      (∀ c a, (c ∉ holders t t.core e ∨ a < t.frame + e ∨ t.frame + e + 16 ≤ a) → storeRead u c a 1 = storeRead s c a 1) ∧
      ∀ a, peek u a 1 = peek s a 1)

/-- 10 R259, R265 to R270, 04 R101: `fence` and `fence.sc` complete with their release half, the ticket of the SC sequencer and
their acquire half when the group's earlier stores and atomics are acknowledged and, where they cover the store, its results have
reached the bank; otherwise they are outstanding, a system-scope one asks the peers for their acknowledgements (16 R411; log
entry 44), and they complete when what they wait for has come to its end. A release that reaches device
scope leaves no dirty byte in the core's L1, an acquire empties the L1 and the clause cache. -/
def Obligations.Fences : Prop :=
  (∀ (s : State) (f : FmtY) (sq : Bool),
    let g := s.cur
    let as := f.imm.toNat / 4 % 4
    let ss := f.imm.toNat % 4
    let i : Instr := if sq then .fenceSc f else .fence f
    let u := releaseHalf s g as ss
    let v := if sq then { u with tickets := u.tickets + 1 } else u
    let a := effAs (s.teamOf g) as
    let waits (k : PKind) : Prop := as ≠ 0 ∧ (k = .store ∨ k = .atomic ∨ (k = .peerStore ∧ as = 3 ∧ ss = 3) ∨
      (ss ≠ 1 ∧ (k = .load ∨ k = .matrix ∨ k = .pop)))
    let ready : Prop := ∀ p ∈ (s.grp g).pend, p.seq < (s.grp g).seq → ¬ waits p.kind
    (ready →
      Issues i s (retireNow ((acquireHalf v g as ss).modGrp g fun x =>
        { x with teamFence := if a = 1 then true else if 2 ≤ a then false else x.teamFence }) g)) ∧
    (¬ ready →
      Issues i s (addPend (askRelease u g as ss) g
        { kind := .fence, ready := false, aux := as * 4 + ss, aux2 := if sq then 1 else 0 }))) ∧
  (∀ (s : State) (g as ss : Nat),
    (¬ (as = 3 ∧ ss = 3) → askRelease s g as ss = s) ∧
    (∀ p l, (p, l) ∈ s.items → (∃ i ∈ l, i.asked = false ∧ ∃ n, i.grp = some (g, n)) →
      .feMsg p (g / 32) (g % 32) 0 .release ∈ (askRelease s g 3 3).outbox) ∧
    { askRelease s g as ss with outbox := s.outbox, items := s.items } = s) ∧
  (∀ (s : State) (g : Nat),
    let x := s.grp g
    let due (p : Pend) : Prop := p.kind = .fence ∧ fenceReady x (p.aux / 4) (p.aux % 4) p.seq = true
    ((∀ p ∈ x.pend, ¬ due p) → settleFences s g = s) ∧
    (∀ p, x.pend.filter (fun q => q.kind == .fence && fenceReady x (q.aux / 4) (q.aux % 4) q.seq) = [p] →
      settleFences s g = deliver (completeFence s g (p.aux / 4) (p.aux % 4) (p.aux2 == 1)) g p) ∧
    ∀ p ∈ ((settleFences s g).grp g).pend, p.kind = .fence → p ∈ x.pend ∧ ¬ due p) ∧
  ∀ (s : State) (g as ss : Nat),
    let c := g / 32
    let r := releaseHalf s g as ss
    let q := acquireHalf s g as ss
    2 ≤ effAs (s.teamOf g) as →
      (ssGlobal ss = true → (∀ x ∈ (r.core c).l1, x.dirty = 0) ∧
        (r.core c).l1.map (fun x => (x.line, x.data, x.valid)) = (s.core c).l1.map (fun x => (x.line, x.data, x.valid)) ∧
        (q.core c).l1 = []) ∧
      (q.core c).ccache = [] ∧ (∀ n, readS q g n = readS s g n) ∧ ∀ n, readS r g n = readS s g n

/-- 12 R333: the `gbar` instructions trap in a deterministic launch and in a context without grid barriers; otherwise they post
their request to the command processor and are held, `gbar.arr` and `gbar.ntf` once the group's stores are acknowledged. The
command processor performs the oldest request: `gbar.init` sets the counter; an arrival answers the phase it found, and the
last one expected completes the phase and wakes every waiter; `gbar.wait` goes on when the phase has changed, else it parks; one
that replays after its wake has seen the phase, and the last to do so lets the refused arrivals go on (R329). That a wait at a
counter with EXP = 0 compares phases is the model's reading (log entry 34). -/
def Obligations.GridBarriers : Prop :=
  (∀ (s : State) (f : FmtY),
    let g := s.cur
    let x := s.grp g
    let k := f.idx.toNat
    let forms : List (Instr × Nat × DWord × Bool) :=
      [(.gbarInit f, 3, readS s g f.s.toNat, false), (.gbarArr f, 0, 0, true), (.gbarNtf f, 2, 0, true),
        (.gbarWait f, 1, readS s g f.a.toNat, false)]
    ∀ p ∈ forms,
      let u := if p.2.2.2 then releaseHalf s g 3 3 else s
      (isDet s g = true → Traps p.1 s 0x08 0 x.em) ∧
      (isDet s g = false → (s.ctx (s.ctxOf g)).bar = false → Traps p.1 s 0x06 k x.em) ∧
      (isDet s g = false → (s.ctx (s.ctxOf g)).bar = true → p.2.2.2 = true → releaseReady x 3 3 = false →
        exec p.1 s = .next ((askRelease s g 3 3).setGrp g { x with st := .held })) ∧
      (isDet s g = false → (s.ctx (s.ctxOf g)).bar = true → (p.2.2.2 = true → releaseReady x 3 3 = true) →
        (∀ r ∈ s.greqs, r.core * 32 + r.slot ≠ g) →
        ∃ t, exec p.1 s = .next t ∧ t.grp g = { u.grp g with st := .held } ∧
          t.greqs = s.greqs ++ [⟨g / 32, g % 32, s.ctxOf g, k, p.2.1, p.2.2.1, f.d.toNat, x.seq⟩] ∧
          t.agenda = u.agenda ++ [.event .gridBarrierRequest] ∧ (∀ h, h ≠ g → t.grp h = u.grp h))) ∧
  ∀ (s : State) (r : GReq) (rest : List GReq), s.greqs = r :: rest → s.noMem = none →
    let g := r.core * 32 + r.slot
    let x := s.grp g
    let c := (s.ctx r.ctx)
    let q := tget c.gctrs {} r.k
    let v := { s with greqs := rest }
    let now (t : State) : GCtr := tget (t.ctx r.ctx).gctrs {} r.k
    let prot : Prop := exec .gridBarrierRequest s = done (Machine.trap v g 0x06 r.k x.em)
    (r.form = 3 → (r.val.toNat = 0 ∨ 2 ^ 24 ≤ r.val.toNat ∨ q.waiters ≠ []) → prot) ∧
    (r.form = 3 → 0 < r.val.toNat → r.val.toNat < 2 ^ 24 → q.waiters = [] →
      ∃ t, exec .gridBarrierRequest s = .next t ∧ t.greqs = rest ∧
        now t = { q with ph := 0, exp := r.val.toNat, arr := 0, obs := 0, refused := [] } ∧
        (g ∉ q.refused → (t.grp g).retc = x.retc + 1 ∧ (t.grp g).seq = x.seq + 1)) ∧
    ((r.form = 0 ∨ r.form = 2) → q.exp = 0 → prot) ∧
    ((r.form = 0 ∨ r.form = 2) → q.exp ≠ 0 → q.obs = 0 → g ∉ q.waiters →
      ∃ t p, exec .gridBarrierRequest s = .next t ∧ t.greqs = rest ∧ p ∈ (t.grp g).pend ∧ p.kind = .sync ∧
        p.sregs = [(r.sd, BitVec.ofNat 64 q.ph.toNat)] ∧ (t.grp g).seq = x.seq + 1 ∧
        (q.arr + 1 < q.exp → now t = { q with arr := q.arr + 1, owed := if r.form = 2 then q.owed ++ [g] else q.owed }) ∧
        (q.exp ≤ q.arr + 1 →
          now t = { q with ph := q.ph + 1, arr := 0, obs := q.waiters.length, waiters := [], owed := [] } ∧
          ∀ h ∈ q.waiters, ∀ r, (s.grp h).park = some r → ∃ r', (t.grp h).park = some r' ∧ r'.woken = true)) ∧
    ((r.form = 0 ∨ r.form = 2) → q.exp ≠ 0 → q.obs ≠ 0 →
      ∃ t p, exec .gridBarrierRequest s = .next t ∧ now t = { q with refused := q.refused ++ [g] } ∧
        (t.grp g).st = .parked ∧ (t.grp g).park = some p ∧ p.cause = .gbarArrive r.ctx r.k ∧ p.pc = x.pc) ∧
    (r.form = 1 → q.ph.toNat = r.val.toNat % 2 ^ 16 →
      ∃ t p, exec .gridBarrierRequest s = .next t ∧ now t = { q with waiters := q.waiters ++ [g] } ∧
        (t.grp g).st = .parked ∧ (t.grp g).park = some p ∧ p.cause = .gbarWait r.ctx r.k ∧ p.pc = x.pc) ∧
    (r.form = 1 → q.ph.toNat ≠ r.val.toNat % 2 ^ 16 → x.replay = false →
      ∃ t, exec .gridBarrierRequest s = .next t ∧ now t = q ∧ (t.grp g).retc = x.retc + 1 ∧ (t.grp g).seq = x.seq + 1) ∧
    (r.form = 1 → q.ph.toNat ≠ r.val.toNat % 2 ^ 16 → x.replay = true →
      ∃ t, exec .gridBarrierRequest s = .next t ∧
        ((g ∉ q.refused ∨ 2 ≤ q.obs) → (t.grp g).retc = x.retc + 1 ∧ (t.grp g).seq = x.seq + 1) ∧
        (2 ≤ q.obs → now t = { q with obs := q.obs - 1 }) ∧
        (q.obs ≤ 1 → now t = { q with obs := 0, refused := [] } ∧
          ∀ h ∈ q.refused, h ≠ g → ∀ p, (s.grp h).park = some p → ∃ p', (t.grp h).park = some p' ∧ p'.woken = true))

/-- 12 R331, R332, R337, R338: `tend` traps in a deterministic launch, in a context with grid barriers, outside a gang launch
and when its team arrives at the other scope; else its group parks with its register, and the last group of the last team
completes the wide barrier. `tdec` and `tspn` check their record's address and post their request after a release. -/
def Obligations.WideBarriersAndTasks : Prop :=
  (∀ (s : State) (f : FmtY) (device : Bool),
    let g := s.cur
    let x := s.grp g
    let tm := s.teamOf g
    let i : Instr := if device then .tendDev f else .tendClu f
    let gang := ((s.launch tm.launch).dw.getD 0 0).getLsbD 1
    let ok := (s.ctx tm.ctx).bar = false ∧ gang = true ∧ tm.wide ≠ some (!device)
    (isDet s g = true → Traps i s 0x08 0 x.em) ∧
    (isDet s g = false → ¬ ok → Traps i s 0x06 0 x.em) ∧
    (isDet s g = false → ok → releaseReady x 3 3 = false →
      exec i s = .next ((askRelease s g 3 3).setGrp g { x with st := .held })) ∧
    (isDet s g = false → ok → releaseReady x 3 3 = true →
      ∃ u, exec i s = .next (checkWide u tm.launch device tm.cluster) ∧ (u.grp g).st = .parked ∧
        (u.grp g).park = some { cause := .wide device, mask := x.em, pc := x.pc, futile := f.d.toNat } ∧
        (u.team x.team).wide = some device ∧ (u.grp g).em = x.em ∧ (u.grp g).stack = x.stack ∧
        (∀ n, readS u g n = readS s g n) ∧ ∀ h, h ≠ g → u.grp h = s.grp h)) ∧
  (∀ (s : State) (l k : Nat) (device : Bool),
    let ts := wideTeams s l device k
    ((ts = [] ∨ ∃ tm ∈ ts, (s.team tm).wide ≠ some device ∨ teamArrived s tm device = false) → checkWide s l device k = s) ∧
    (ts ≠ [] → (∀ tm ∈ ts, (s.team tm).wide = some device ∧ teamArrived s tm device = true) → ts.Nodup →
      let t := checkWide s l device k
      (if device then (t.launch l).phaseDev = (s.launch l).phaseDev + 1
        else tget (t.launch l).phaseClu 0 k = tget (s.launch l).phaseClu 0 k + 1) ∧
      ∀ tm ∈ ts, (t.team tm).wide = none)) ∧
  ∀ (s : State) (f : FmtY),
    let g := s.cur
    let x := s.grp g
    let a := (readS s g f.s.toNat).toNat
    let l := (s.teamOf g).launch
    let grp := some (x.team, x.member)
    ∀ p ∈ [(Instr.tdec f, ({ ctx := s.ctxOf g, rec_ := a, n := f.imm.toNat % 4096 + 1, src := some l, grp := grp } : CpReq)),
        (.tspn f, { spawn := true, ctx := s.ctxOf g, rec_ := a, src := some l, grp := grp })],
      (a % 64 ≠ 0 → Traps p.1 s 0x05 a x.em) ∧
      (a % 64 = 0 → 2 ^ 57 ≤ a → Traps p.1 s 0x06 a x.em) ∧
      (a % 64 = 0 → a < 2 ^ 57 → releaseReady x 3 3 = false →
        exec p.1 s = .next ((askRelease s g 3 3).setGrp g { x with st := .held })) ∧
      (a % 64 = 0 → a < 2 ^ 57 → releaseReady x 3 3 = true →
        let u := releaseHalf s g 3 3
        Issues p.1 s (retireNow { u with decs := u.decs ++ [p.2], agenda := u.agenda ++ [.event .taskDecrement] } g))

/-- 12 R334 to R336: `waitv` answers 1 at a full quota, 0 when the word does not hold the watched value, and else arms an entry
and parks, for a word of the store and for one of device memory, which is read at its home; `wake.one` and `wake.all` fire the oldest or every armed entry of their word and answer how many, after their
release; a fired entry is freed, its group's predicate is zero, and the group is woken. -/
def Obligations.Monitors : Prop :=
  (∀ (s v : State) (f : FmtY) (o : WObj) (pl : Place), uniformAddr s f true = (v, .word o pl) →
    let rd : State × Nat := match pl with
      | .store off => (v, winRead v (v.teamOf s.cur) (s.cur / 32) off 4)
      | .mem p => homeRead (homeAccess v s.cur (f.imm.toNat / 4 % 4) p) (v.ctxOf s.cur) p.pa 4
      | .span _ => (v, 0)
    v.noMem = none → rd.1.noMem = none →
    let g := s.cur
    let x := s.grp g
    let c := g / 32
    let as := f.imm.toNat / 4 % 4
    let ss := f.imm.toNat % 4
    let pd := f.d.toNat % 8
    let want := (readS s g f.a.toNat).setWidth 32
    let here := v.monitors.filter fun m => m.core = c
    let quota := min (v.ctx (v.ctxOf g)).monquota 64
    let full := 64 ≤ here.length ∨ quota ≤ (here.filter fun m => m.ctx = v.ctxOf g).length
    (full → Answers (.waitv f) s v [] [(pd, true)]) ∧
    (¬ full → BitVec.ofNat 32 rd.2 ≠ want → Answers (.waitv f) s (acquireHalf rd.1 g as ss) [] [(pd, false)]) ∧
    (∀ p, pl = .mem p → Settled v → p.pa % 4 = 0 → rd.2 = peek v p.pa 4) ∧
    (¬ full → BitVec.ofNat 32 rd.2 = want →
      ∃ t r, exec (.waitv f) s = .next t ∧ (t.grp g).st = .parked ∧ (t.grp g).park = some r ∧ r.cause = .monitor ∧
        r.pc = x.pc ∧ r.mask = x.em ∧ (t.grp g).em = x.em ∧ (t.grp g).preds = (v.grp g).preds ∧
        ∃ m ∈ t.monitors, m.core = c ∧ m.slot = g % 32 ∧ m.ctx = v.ctxOf g ∧ m.obj = wordOf o ∧ m.x = want ∧ m.pred = pd)) ∧
  (∀ (s v : State) (f : FmtY) (o : WObj) (p : Place) (all : Bool), uniformAddr s f false = (v, .word o p) → v.noMem = none →
    let g := s.cur
    let as := f.imm.toNat / 4 % 4
    let i : Instr := if all then .wakeAll f else .wakeOne f
    let u := releaseHalf v g as 3
    let armed := u.monitors.filter fun m => m.obj == wordOf o && !m.fired
    let hit := if all then armed else armed.take 1
    (releaseReady (s.grp g) as 3 = false → exec i s = .next ((askRelease s g as 3).setGrp g { s.grp g with st := .held })) ∧
    (releaseReady (s.grp g) as 3 = true →
      Answers i s (eachDo hit u fun s m => fireMonitor s m as) [(f.d.toNat, BitVec.ofNat 64 hit.length)] [])) ∧
  ∀ (s : State) (n : Nat),
    let mine := s.monitors.filter fun m => m.core * 32 + m.slot = n ∧ m.fired = true
    (mine = [] → exec (.monitorFire n) s = .next s) ∧
    let same (k j : Monitor) : Prop := { k with fired := j.fired, scope := j.scope } = j
    (∀ m r, s.noMem = none → mine.head? = some m → (s.grp n).park = some r → 0 < m.pred → m.pred < 8 → (s.grp n).gw ≤ 64 →
      ∃ t, exec (.monitorFire n) s = .next t ∧ (∀ k ∈ t.monitors, ∃ j ∈ s.monitors, j ≠ m ∧ same k j) ∧
        (∀ j ∈ s.monitors, j ≠ m → ∃ k ∈ t.monitors, same k j) ∧
        predOf (t.grp n) m.pred = 0 ∧ (∀ k, k ≠ m.pred → predOf (t.grp n) k = predOf (s.grp n) k) ∧
        (∃ r', (t.grp n).park = some r' ∧ r'.woken = true ∧ r'.cause = r.cause) ∧ (t.grp n).em = (s.grp n).em)

/-! ### The matrix array (07 R168 to R192) -/

/-- 07 R179, R180: the tree of an output: leaf k is the product of the elements packed to the node format, and each level joins
adjacent results of the level below with the node addition, with the flags of every step. 07 R171, R173, R177, R181, R184 to
R187: `mmla` and `mmls`: their traps in order, a malformed mask only when the port is granted; held while the array is busy, a tile of
the panel is not Ready or the credit does not cover the charge; else the rows take the scaled tree results in the latch, which
the chain's later members read alone, the charge is counted, and the results wait for the write-back. -/
def Obligations.MatrixProducts : Prop :=
  (∀ (m : MFmt) (row col : List MElem) (v : Nat → Nat → LV) (w : Nat → Nat → Flags),
    row.length = 2 ^ m.levels → col.length = 2 ^ m.levels →
    (∀ k, k < 2 ^ m.levels →
      let a := row.getD k ⟨.nan, 0, false⟩
      let b := col.getD k ⟨.nan, 0, false⟩
      let p := exactProduct a.v b.v
      let q : LV × Flags := match p.1 with
        | .fin s l => packed .node 0 s l
        | x => (x, 0)
      v 0 k = q.1 ∧ w 0 k = a.fl ||| b.fl ||| p.2 ||| q.2) →
    (∀ l j, let r := Log.gla .node 0 (v l (2 * j)) (v l (2 * j + 1))
      v (l + 1) j = r.1 ∧ w (l + 1) j = w l (2 * j) ||| w l (2 * j + 1) ||| r.2) →
      dot m row col = (v m.levels 0, w m.levels 0)) ∧
  (∀ (s : State) (f : FmtX) (set : Bool),
    let g := s.cur
    let x := s.grp g
    let c := g / 32
    let k := s.core c
    let t := s.teamOf g
    let m := mfmt f.fmt.toNat
    let d := f.d.toNat
    let a := f.a.toNat
    let vb := f.vb.toNat
    let act := activeMask x f.ps f.pn
    let i : Instr := if set then .mmls f else .mmla f
    let cq := f.fn.getLsbD 1
    let slice (n : Nat) : Nat := columnSlice s c t vb m.tiles n
    let row (r : Nat) : List MElem := rowElems s g m a r
    let col (n : Nat) : List MElem := columnElems m (slice n)
    let rows := (lanesOf act x.gw).filter fun r => f.rsel != 1 || (row r).any (·.nz)
    let za := (rows.map fun r => ((row r).filter (·.nz)).length).sum
    let zb := ((List.range 64).map fun n => ((col n).filter (·.nz)).length).sum
    let fr := if rows = [] then 0 else 256 * za * zb / (rows.length * m.k * 64 * m.k)
    let q := x.gw / 4 * 64 + rows.length * 48 * fr / 256
    let sigma := Log.decode .l16 ((readS s g f.s.toNat).toNat % 2 ^ 16)
    let out (r n : Nat) : LV × Flags :=
      let p := exactProduct (dot m (row r) (col n)).1 (scaleL 32 sigma)
      let v := scaleL 256 p.1
      let mode := if f.fn.getLsbD 0 then 2 else 0
      let z := if set then (match v with
        | .fin sg l => packed .l32 mode sg l
        | y => (y, 0)) else Log.gla .l32 mode v (Log.decode .l32 (accOf s g d r n).toNat)
      (z.1, (dot m (row r) (col n)).2 ||| p.2 ||| z.2)
    let ready := k.matBusy = 0 ∧ tilesReady s t c vb m.tiles = true
    let bad := ∃ n, n < 64 ∧ columnBad m (slice n) = true
    let latched := k.latch = none ∨ ∃ l, k.latch = some l ∧ l.slot = g ∧ l.d = d ∧ l.closed = false
    let inRegs := firstLimit x [(d, 64), (a, m.frag)] = none
    let inTiles := vb + m.tiles ≤ (tilesOn t c).length
    (∀ r, firstLimit x [(d, 64), (a, m.frag)] = some r → Traps i s 0x06 r act) ∧
    (inRegs → ¬ inTiles → Traps i s 0x0B vb act) ∧
    (inRegs → inTiles → ¬ ready → exec i s = .next (s.setGrp g { x with st := .held })) ∧
    let starts := inRegs ∧ inTiles ∧ ready ∧ (cq = true → q4Free x = true)
    let paid := ∀ n, k.credit = some n → q ≤ n
    let tidy := d + 64 ≤ 192 ∧ ∀ y ∈ x.window, (y.vals.map fun v => (v.reg, v.lane)).Nodup ∧ ∀ v ∈ y.vals, v.lane < x.gw
    let badA := operandBad s g (lanesOf act x.gw) ((List.range m.frag).map (a + ·))
    let badD := if set then none else accBad s g d rows
    (starts → ¬ paid →
      exec i s = .next (hold (s.modCore c fun k => { k with creditFirst := sins k.creditFirst (g % 32) }) g)) ∧
    -- an instruction that traps after the credit test is refused no more
    let traps (code a : Nat) : Prop :=
      exec i s = done (trap (s.modCore c fun k => { k with creditFirst := sdel k.creditFirst (g % 32) }) g code a act)
    (starts → paid → bad → traps 0x0C vb) ∧
    (∀ w, starts → paid → ¬ bad → latched → badA = some w → traps 0x0E w) ∧
    (∀ w, starts → paid → ¬ bad → latched → badA = none → badD = some w → traps 0x0E w) ∧
    (starts → paid → ¬ bad → latched → badA = none → badD = none →
        ∃ e l, Issues i s e ∧ (e.core c).latch = some l ∧ l.slot = g ∧ l.d = d ∧
          (∀ r n, r ∈ rows → n < 64 → accOf e g d r n = BitVec.ofNat 32 (Log.encode .l32 (out r n).1)) ∧
          (tidy → ∀ r n, r ∉ rows → r < x.gw → n < 64 → accOf e g d r n = accOf s g d r n) ∧
          (∃ p, (e.grp g).pend = x.pend ++ [p] ∧ p.kind = .matrix ∧ p.ready = false ∧ p.aux = d ∧
            p.regs = (List.range 64).map (d + ·) ∧
            p.flags = rows.foldl (fun b r => (List.range 64).foldl (fun b n => b ||| (out r n).2) b) 0 ∧
            p.cq.isSome = cq) ∧
          (e.grp g).charge = x.charge + BitVec.ofNat 64 q ∧ (e.core c).credit = k.credit.map (· - q) ∧
          (e.core c).matBusy = x.gw / 4 ∧ (e.core c).store = k.store ∧ (e.core c).veneer = k.veneer ∧
          (e.grp g).sregs = x.sregs ∧ (e.grp g).preds = x.preds ∧ (e.grp g).mxst = x.mxst ∧ (e.grp g).lstat = x.lstat ∧
          e.teams = s.teams ∧ e.hbm = s.hbm ∧ e.l2 = s.l2 ∧ ∀ h, h ≠ g → e.grp h = s.grp h))

/-- 07 R190, R191: `mclr` sets every accumulator of the active lanes to +0, `mscl` multiplies each by its scale: a log32 of the
lane's register, or the log16 of the scalar; an uncorrectable word that they read traps (13 R361). 07 R177, R188, R189: `mldb` checks its address, its extent and its tiles in
order, is held while a tile it writes is not Ready, and copies its bytes to the tiles, which are Loading until it completes.
07 R173, R183, R192: the write-back of a chain delivers its results to the registers and ORs their flags into MXST; the forms
of `mstat` answer the flags and the outstanding count, clear MXST, and give a tile's state and the charge. -/
def Obligations.MatrixOtherInstructions : Prop :=
  (∀ (s : State) (f : FmtX),
    let g := s.cur
    let x := s.grp g
    let c := g / 32
    let k := s.core c
    let d := f.d.toNat
    let act := activeMask x f.ps f.pn
    let ls := lanesOf act x.gw
    let byLane := f.fn.getLsbD 0
    let srcs := if byLane then [(f.a.toNat, 1)] else []
    let scale (r : Nat) : LV := if byLane then Log.decode .l32 (readV s g [] f.a.toNat r).toNat
      else scaleL 8192 (Log.decode .l16 ((readS s g f.s.toNat).toNat % 2 ^ 16))
    let mul (r n : Nat) : LV × Flags :=
      let p := exactProduct (Log.decode .l32 (accOf s g d r n).toNat) (scale r)
      match p.1 with
      | .fin sg l => packed .l32 (if f.fn.getLsbD 1 then 2 else 0) sg l
      | v => (v, p.2)
    let latched := k.latch = none ∨ ∃ l, k.latch = some l ∧ l.slot = g ∧ l.d = d ∧ l.closed = false
    let tidy := d + 64 ≤ 192 ∧ ∀ y ∈ x.window, (y.vals.map fun v => (v.reg, v.lane)).Nodup ∧ ∀ v ∈ y.vals, v.lane < x.gw
    let gives (i : Instr) (load : Bool) (runs : List (Nat × Nat)) (val : Nat → Nat → Word) (fl : Flags) : Prop :=
      let badA := operandBad s g ls (runs.map Prod.fst)
      let badD := if load then accBad s g d ls else none
      (∀ r, firstLimit x ((d, 64) :: runs) = some r → Traps i s 0x06 r act) ∧
      (∀ w, firstLimit x ((d, 64) :: runs) = none → latched → badA = some w → Traps i s 0x0E w act) ∧
      (∀ w, firstLimit x ((d, 64) :: runs) = none → latched → badA = none → badD = some w → Traps i s 0x0E w act) ∧
      (firstLimit x ((d, 64) :: runs) = none → latched → badA = none → badD = none →
        ∃ e p, Issues i s e ∧ (∀ r n, r ∈ ls → n < 64 → accOf e g d r n = val r n) ∧
          (tidy → ∀ r n, r ∉ ls → r < x.gw → n < 64 → accOf e g d r n = accOf s g d r n) ∧
          (e.grp g).pend = x.pend ++ [p] ∧ p.kind = .matrix ∧ p.ready = false ∧ p.aux = d ∧ p.flags = fl ∧
          (e.core c).store = k.store ∧ (e.grp g).sregs = x.sregs ∧ (e.grp g).preds = x.preds ∧ (e.grp g).charge = x.charge ∧
          ∀ h, h ≠ g → e.grp h = s.grp h)
    gives (.mclr f) false [] (fun _ _ => 0x40000000) 0 ∧
    gives (.mscl f) true srcs (fun r n => BitVec.ofNat 32 (Log.encode .l32 (mul r n).1))
      (ls.foldl (fun b r => (List.range 64).foldl (fun b n => b ||| (mul r n).2) b) 0)) ∧
  ((∀ (s : State) (f : FmtX),
    let g := s.cur
    let x := s.grp g
    let c := g / 32
    let t := s.teamOf g
    let e := (readS s g f.s.toNat).toNat
    let n := f.fn.toNat % 128 + 1
    let vb := f.vb.toNat
    let cq := f.fn.getLsbD 7
    let fits := e % 16 = 0 ∧ e + 4096 * n ≤ (tget x.tregs {} 0).limit
    let owns := vb + n ≤ (tilesOn t c).length
    (e % 16 ≠ 0 → Traps (.mldb f) s 0x05 e x.em) ∧
    (e % 16 = 0 → ¬ fits → Traps (.mldb f) s 0x06 e x.em) ∧
    (fits → ¬ owns → Traps (.mldb f) s 0x0B vb x.em) ∧
    (fits → owns → tilesReady s t c vb n = false → exec (.mldb f) s = .next (s.setGrp g { x with st := .held })) ∧
    (fits → owns → tilesReady s t c vb n = true → (cq = true → q4Free x = true) → (tilesOn t c).Nodup →
      (∀ j, j < 1024 * n → storeBad s (storeCore t c (e + 4 * j)) (t.frame + e + 4 * j) 4 = false) →
        ∃ u p, Issues (.mldb f) s u ∧
          (∀ j b, j < n → b < 4096 → mread (u.core c).veneer (physTile t c (vb + j) * 4096 + b) 1 =
            storeRead s (storeCore t c (e + 4096 * j + b)) (t.frame + (e + 4096 * j + b)) 1) ∧
          (∀ y, (∀ j, j < n → y < physTile t c (vb + j) * 4096 ∨ physTile t c (vb + j) * 4096 + 4096 ≤ y) →
            mread (u.core c).veneer y 1 = mread (s.core c).veneer y 1) ∧
          (∀ j, j < n → tileState u c (physTile t c (vb + j)) = .loading) ∧
          (u.grp g).pend = x.pend ++ [p] ∧ p.kind = .mldb ∧ p.ready = false ∧ p.aux = vb ∧ p.aux2 = n ∧ p.seq = x.seq ∧
          .event (.mldbComplete c (g % 32) x.seq) ∈ u.agenda ∧ (u.core c).store = (s.core c).store ∧
          (u.grp g).sregs = x.sregs ∧ ∀ h, h ≠ g → u.grp h = s.grp h)) ∧
  ∀ (s : State) (core slot n : Nat) (p : Pend),
    let g := core * 32 + slot
    let x := s.grp g
    x.pend = [p] → p.kind = .mldb → p.seq = n → p.cq = none → p.vregs = [] → p.sregs = [] → p.preds = [] → slot < 32 →
      ∃ u, exec (.mldbComplete core slot n) s = .next u ∧ (u.grp g).pend = [] ∧
        (u.grp g).retc = (if p.retires then x.retc + 1 else x.retc) ∧
        (∀ j, j < p.aux2 → tileState u core (physTile (s.teamOf g) core (p.aux + j)) = .ready) ∧
        (u.core core).veneer = (s.core core).veneer ∧ (u.grp g).pc = x.pc ∧ (u.grp g).sregs = x.sregs) ∧
  ((∀ (s : State) (core : Nat) (l : Latch) (p : Pend),
    let g := l.slot
    let x := s.grp g
    (s.core core).latch = some l → l.closed = true → g / 32 = core → x.pend = [p] → p.kind = .matrix → p.ready = false →
    p.aux = l.d → p.cq = none → p.k = false → p.sregs = [] → p.preds = [] →
    (p.vregs.map fun v => (v.reg, v.lane)).Nodup → (∀ v ∈ p.vregs, v.reg ≤ 191 ∧ v.lane < x.gw) →
    (∀ h, h / 32 = core → h ≠ g → ∀ q ∈ (s.grp h).pend, q.kind ≠ .matrix ∧ q.kind ≠ .mldb) →
      ∃ t, exec (.matrixWriteBack core) s = .next t ∧ (t.core core).latch = none ∧ (t.grp g).pend = [] ∧
        (t.grp g).mxst = x.mxst ||| p.flags ∧ (t.grp g).lstat = x.lstat ∧
        (t.grp g).retc = (if p.retires then x.retc + 1 else x.retc) ∧
        (∀ v ∈ p.vregs, storeRead t core (regOff (s.teamOf g) x v.reg v.lane) 4 = v.val.toNat) ∧
        (∀ c a, (c ≠ core ∨ ∀ v ∈ p.vregs, a < regOff (s.teamOf g) x v.reg v.lane ∨ regOff (s.teamOf g) x v.reg v.lane + 4 ≤ a) →
          storeRead t c a 1 = storeRead s c a 1) ∧
        (t.grp g).pc = x.pc ∧ (t.grp g).sregs = x.sregs ∧ (t.grp g).preds = x.preds) ∧
  ∀ (s : State) (f : FmtX),
    let g := s.cur
    let x := s.grp g
    let c := g / 32
    let flags := BitVec.ofNat 64 (x.mxst.toNat + (x.pend.filter fun p => p.kind = .matrix ∧ p.ready = false).length % 32 * 256)
    let gives (i : Instr) (u : State) (v : DWord) : Prop :=
      ∃ e p, Issues i s e ∧ (e.grp g).pend = x.pend ++ [p] ∧ p.kind = .matrix ∧ p.sregs = [(f.s.toNat, v)] ∧ p.ready = true ∧
        .event (.matrixWriteBack c) ∈ e.agenda ∧ { e.grp g with pend := x.pend } = u.grp g ∧ (e.core c).store = (s.core c).store
    let waits := isDet s g = true ∧ ∃ p ∈ x.pend, p.kind = .matrix ∧ p.ready = false
    let st := tileState s c (physTile (s.teamOf g) c f.vb.toNat)
    (¬ waits → gives (.mstatFlags f) s flags) ∧
    (¬ waits → gives (.mstatClr f) (s.setGrp g { x with mxst := 0 }) flags) ∧
    (waits → exec (.mstatFlags f) s = .next (hold (endChain s g) g) ∧ exec (.mstatClr f) s = .next (hold (endChain s g) g)) ∧
    ((tilesOn (s.teamOf g) c).length ≤ f.vb.toNat → gives (.mstatTile f) s 0) ∧
    (f.vb.toNat < (tilesOn (s.teamOf g) c).length → (isDet s g = false ∨ st = .ready) →
      gives (.mstatTile f) s (match st with | .ready => 1 | .loading => 2 | .engine => 3)) ∧
    gives (.mstatEu f) s x.charge)

/-! ### The copy unit (11 R272 to R305) -/

/-- 11 R300 to R305: `cpq` and `cpi` check the block address, wait for free entries, and submit their commands; `cpl` and `cps`
read the levels and CQST, `cpc` cancels the team's commands of a queue by tag, one whose block is not read yet when it is read, and `cpf` answers how many failed once every
command of the queue has ended. -/
def Obligations.CopyInstructions : Prop :=
  ∀ (s : State) (f : FmtC),
    let g := s.cur
    let x := s.grp g
    let core := g / 32
    let t := s.teamOf g
    let q := f.qn.toNat
    let a := (readS s g f.sa.toNat).toNat
    let mine (p : Cmd → Bool) : List Cmd := (s.cores.flatMap fun k => k.2.cmds).filter fun c => c.slot == g && c.team == x.team && p c
    let cqst := tget x.cqst 0 q
    let failed := tget x.cpFail 0 q
    let tag := f.imm.toNat % 2 ^ 12
    let all := f.imm.getLsbD 12 = true
    -- a command of the team in this queue; of one whose present block is ending, only a chain can still be cut
    let runs (d : Cmd) : Prop := d.q = q ∧ d.team = x.team ∧ (d.ending = true → (blkOf d.block).lnk = true)
    let hit (d : Cmd) : Prop := runs d ∧ (all ∨ (d.block ≠ [] ∧ (blkOf d.block).tag = tag))
    let unread (d : Cmd) : Prop := runs d ∧ ¬ all ∧ d.block = []
    (∀ p ∈ [(Instr.cpq f, f.cnt.toNat, 0), (.cpi f, 1, f.imm.toNat)],
      (a % 128 ≠ 0 → Traps p.1 s 0x05 a x.em) ∧
      (a % 128 = 0 → 2 ^ 57 ≤ a → Traps p.1 s 0x06 a x.em) ∧
      (a % 128 = 0 → a < 2 ^ 57 → entriesFree s g p.2.1 = false → exec p.1 s = .next (waitEntries s g)) ∧
      (a % 128 = 0 → a < 2 ^ 57 → entriesFree s g p.2.1 = true →
        ∃ u w, Issues p.1 s u ∧
          ((u.core core).cmds.map fun d => { d with entry := 0 }) =
            ((s.core core).cmds.map fun d => { d with entry := 0 }) ++ (List.range p.2.1).map (fun j =>
              { q := q, ctx := t.ctx, launch := t.launch, team := x.team, slot := g, seq := x.seq, addr := some (a + 128 * j),
                block := [], k := p.2.2, upper := t.pair && core != t.core }) ∧
          (((s.core core).cmds.map (·.entry)).Nodup → ((u.core core).cmds.map (·.entry)).Nodup) ∧
          (u.team x.team).cmdsOut = t.cmdsOut + p.2.1 ∧
          (u.launch t.launch).cmdsOut = (s.launch t.launch).cmdsOut + p.2.1 ∧
          (u.grp g).pend = x.pend ++ [w] ∧ w.kind = .copySub ∧ w.ready = false ∧ w.seq = x.seq ∧
          .event (.commandAccept core) ∈ u.agenda ∧ (u.grp g).sregs = x.sregs ∧ (u.grp g).preds = x.preds ∧
          ∀ h, h ≠ g → u.grp h = s.grp h)) ∧
    (isDet s g = false → SetsScalar (.cpl f) s f.sa.toNat
      (BitVec.ofNat 64 (48 - (s.core core).cmds.length + (mine (·.q == q)).length * 256 + (mine fun _ => true).length * 65536)) 2) ∧
    (isDet s g = true → mine (fun _ => true) = [] → SetsScalar (.cpl f) s f.sa.toNat 48 2) ∧
    (isDet s g = true → mine (fun _ => true) ≠ [] → exec (.cpl f) s = .next (s.setGrp g { x with st := .held })) ∧
    ((isDet s g = false ∨ mine (·.q == q) = []) →
      let u := if f.cnt.getLsbD 0 then s.setGrp g { x with cqst := tset x.cqst q 0 } else s
      Completes (.cps f) s (writeS u g f.sa.toNat (cqst.setWidth 64)) 2 0) ∧
    (isDet s g = true → mine (·.q == q) ≠ [] → exec (.cps f) s = .next (s.setGrp g { x with st := .held })) ∧
    (∃ u, Issues (.cpc f) s u ∧ (u.grp g).retc = x.retc + 1 ∧
      ∀ c : Nat, (u.core c).cmds.length = (s.core c).cmds.length ∧
        (∀ (n : Nat) (d : Cmd), (s.core c).cmds[n]? = some d →
          (hit d → (u.core c).cmds[n]? = some { d with cancel := true } ∧ .event (.commandEnd c q) ∈ u.agenda) ∧
          (unread d → ∃ l, tag ∈ l ∧ (∀ m ∈ l, m = tag) ∧ (u.core c).cmds[n]? = some { d with ctags := l ++ d.ctags }) ∧
          (¬ hit d → ¬ unread d → (u.core c).cmds[n]? = some d))) ∧
    (∃ u w, Issues (.cpf f) s u ∧ (u.grp g).pend = x.pend ++ [w] ∧ w.kind = .cpf ∧ w.aux = q ∧ w.aux2 = failed ∧ w.seq = x.seq ∧
      w.sregs = [(f.sa.toNat, BitVec.ofNat 64 (min failed 63))] ∧ (w.ready = true ↔ mine (·.q == q) = []) ∧
      (mine (·.q == q) = [] → .event (.atomicReturn core (g % 32) x.seq) ∈ u.agenda))

/-- 11 R272 to R277, R285 to R287: the steps of a command: accepted, its block is read and checked, and its transformation
starts; a command that has ended is counted and its entry freed; a completion word that is empty is filled; the next block of
a chain is read. 11 R277 to R283: a transformation runs its elements in order from PROG, a copy, a convert and a transpose one
by one, a gather and a scatter row by row as their list names them, a quantise block by block, and a fold-max into one word;
a block that nothing stops ends with ST = 3. That all elements from PROG on move in one step is the model's reading (log
entry 32). -/
def Obligations.CopyCommands : Prop :=
  -- acceptance of a pushed command and of a submitted one (11 R273, R276, R278, R287)
  (∀ (s : State) (core : Nat) (c : Cmd) (ws : List DWord), s.noMem = none → (s.core core).cmds = [c] → c.q < 4 → c.wait = none →
    c.started = false → c.ending = false → c.region = none → c.stage = 1 → c.cancel = false → c.ctags = [] → ws ≠ [] →
    (c.addr = none ∧ c.block = ws ∨
      ∃ a p, c.addr = some a ∧ c.block = [] ∧ Resident s core c.ctx a 128 p ∧ p.r = true ∧
        ws = (List.range 16).map fun j => BitVec.ofNat 64 (peek s (p.pa + 8 * j) 8)) →
      let i : Instr := if c.addr = none then .pushedCommand core else .commandAccept core
      let c1 := if c.addr = none then c else { c with block := stepBlock c.k ws }
      let b := blkOf c1.block
      let c2 := { c1 with started := true, region := some (0, min b.cbuf 64 * 1024), recs := takeRecs s c1 }
      ∃ t, exec i s = .next t ∧
        (blockOk c2 b = true → (t.core core).cmds = [c2] ∧ .event (xfEvent b.xf core c.q) ∈ t.agenda) ∧
        (blockOk c2 b = false → (t.core core).cmds = [{ c2 with ending := true, st := 4, fc := 3 }] ∧
          .event (.commandEnd core c.q) ∈ t.agenda)) ∧
  -- a transformation whose run nothing stops (11 R279 to R283)
  (∀ (s : State) (core q : Nat) (c : Cmd), headCmd s core q = some c → c.started = true → c.ending = false → c.wait = none →
    c.cancel = false → tilesOpen s core c = true →
    let b := blkOf c.block
    let x := srcEnd c b
    let d := dstEnd c b
    let n := b.nrow * b.ncol
    let runs : List (Instr × (CRun → CRun)) := [
      (.copy core q, runMove core b x d n), (.convert core q, runMove core b x d n), (.quantise core q, runQuantise core b x d n),
      (.tileTranspose core q, runTranspose core b x d n), (.gather core q, runIndexed core b x d true),
      (.scatter core q, runIndexed core b x d false), (.foldMax core q, runFold core b x)]
    ∀ p, runs[b.xf]? = some p →
      let k := startScales core b x d { s := s, c := c }
      let r := p.2 k
      k.stop = none → r.stop = none → r.pw = [] → r.c.q = q → b.lnk = false → r.s.noMem = none →
        ∃ t, exec p.1 s = .next t ∧ headCmd t core q = some { r.c with st := 3, ending := true, stage := 1 } ∧
          .event (.commandEnd core q) ∈ t.agenda ∧ (∀ k a, storeRead t k a 1 = storeRead r.s k a 1) ∧
          (∀ a, peek t a 1 = peek r.s a 1) ∧ ∀ g, t.grp g = r.s.grp g) ∧
  -- a transformation between ends in the window, in tiles and in the chain buffer begins to end, with what its index list or
  -- its scale word is read from or folded into at hand
  (∀ (s : State) (core q : Nat) (c : Cmd), s.noMem = none → headCmd s core q = some c → c.started = true → c.ending = false →
    c.wait = none → c.cancel = false → tilesOpen s core c = true →
    let b := blkOf c.block
    let x := srcEnd c b
    let d := dstEnd c b
    let n := b.nrow * b.ncol
    let listed : Prop := ∀ j, j < b.nrow → ∃ p, Resident s core c.ctx (b.aux + 4 * j) 4 p ∧ p.r = true
    let forms : List (Instr × Prop) := [
      (.copy core q, True), (.convert core q, True), (.quantise core q, b.ncol % 32 = 0 ∧ (b.dri = true → b.aux = 0)),
      (.tileTranspose core q, True), (.gather core q, listed), (.scatter core q, listed),
      (.foldMax core q, ∃ p, Resident s core c.ctx b.aux 4 p ∧ Writable s core c.ctx b.aux p)]
    ∀ i, forms[b.xf]? = some i → i.2 → b.lnk = false → x.space ≠ 0 → (b.xf ≠ 6 → d.space ≠ 0 ∧ d.scm = 0) → x.scm = 0 →
    c.prog ≤ n →
      ∃ t e, exec i.1 s = .next t ∧ headCmd t core q = some e ∧ e.ending = true ∧ e.stage = 1 ∧
        (e.st = 3 ∧ e.prog = n ∨ e.st = 4 ∧ e.fc ∈ [1, 3, 4, 5]) ∧ .event (.commandEnd core q) ∈ t.agenda ∧
        ∀ g, t.grp g = s.grp g) ∧
  -- the elements of a block in their order, from PROG (11 R277, R279, R283)
  (∀ (k : CRun) (core : Nat) (b : Blk) (x d : End) (n : Nat) (gather : Bool),
    let left := (List.range n).drop k.c.prog
    let row (k : CRun) (j : Nat) : CRun :=
      if k.stop.isSome ∨ (j + 1) * b.ncol ≤ k.c.prog then k
      else
        let ix := indexOf k core b j
        (List.range b.ncol).foldl (fun m c =>
          if j * b.ncol + c < m.c.prog then m
          else if gather then moveElem m core b x d (j * b.ncol + c) ix.2 c j c
          else moveElem m core b x d (j * b.ncol + c) j c ix.2 c) ix.1
    runMove core b x d n k =
      left.foldl (fun k j => moveElem k core b x d j (j / b.ncol) (j % b.ncol) (j / b.ncol) (j % b.ncol)) k ∧
    (d.space ≠ 2 → runTranspose core b x d n k =
      left.foldl (fun k j => moveElem k core b x d j (j / b.ncol) (j % b.ncol) (j % b.ncol) (j / b.ncol)) k) ∧
    -- to tiles, at its place in the destination's rows of NROW elements
    (d.space = 2 → runTranspose core b x d n k = left.foldl (fun k j =>
      let m := moveElem k core b x { d with base := 0 } (j % b.ncol * b.nrow + j / b.ncol) (j / b.ncol) (j % b.ncol) 0 0
      if m.stop.isSome then m else { m with c := { m.c with prog := j + 1 } }) k) ∧
    runIndexed core b x d gather k = (List.range b.nrow).foldl row k ∧
    ∀ m, m < b.nrow * (b.ncol / 32) →
      runQuantise core b x d (32 * (m + 1)) k = runQuantise core b x d (32 * (m + 1)) (runQuantise core b x d (32 * m) k)) ∧
  -- one element between inline ends, from the window to the window or to tiles (11 R277, R280, R284)
  (∀ (k : CRun) (core : Nat) (b : Blk) (x d : End) (j sr sc dr dc code : Nat),
    let t := k.s.team k.c.team
    let y := x.base + sr * x.stride + sc * x.e
    let z := d.base + dr * d.stride + dc * d.e
    let w := convElem x d none none code
    let tile (i : Nat) : Nat := physTile t t.core (b.dst + (j * d.e + i) / 4096) * 4096 + (j * d.e + i) % 4096
    k.stop = none → t.pair = false → k.c.upper = false → x.space = 1 → x.hi = none → d.hi = none → x.epr = 0 → d.epr = 0 → x.swz = 0 →
    d.swz = 0 → x.scm = 0 → d.scm = 0 → d.fem = 3 → 0 < x.e → x.e ≤ 8 → 0 < d.e → y + x.e ≤ t.size →
    storeBad k.s t.core (t.frame + y / 32 * 32) 64 = false → code = mread (k.s.core t.core).store (t.frame + y) x.e →
      let r := moveElem k core b x d j sr sc dr dc
      let moves : Prop := r.stop = none ∧ r.pw = k.pw ∧ r.c.prog = j + 1 ∧ r.c.flg = k.c.flg ||| w.2 ∧
        (∀ a, peek r.s a 1 = peek k.s a 1) ∧ (∀ g, r.s.grp g = k.s.grp g) ∧ r.s.noMem = k.s.noMem
      (d.space = 1 → z + d.e ≤ t.size → (∀ e ∈ t.barriers, ¬ (e < z + d.e ∧ z < e + 16)) →
        moves ∧ ∀ m a, storeRead r.s m a 1 =
          if m = t.core ∧ t.frame + z ≤ a ∧ a < t.frame + z + d.e then w.1 / 256 ^ (a - (t.frame + z)) % 256
          else storeRead k.s m a 1) ∧
      (d.space = 2 → b.dst + (j * d.e + d.e - 1) / 4096 < (tilesOn t t.core).length →
        (∀ i₁ i₂, i₁ < d.e → i₂ < d.e → tile i₁ = tile i₂ → i₁ = i₂) →
        moves ∧ (∀ m a, storeRead r.s m a 1 = storeRead k.s m a 1) ∧
          (∀ i, i < d.e → mread (r.s.core t.core).veneer (tile i) 1 = w.1 / 256 ^ i % 256) ∧
          ∀ m a, (m ≠ t.core ∨ ∀ i, i < d.e → a ≠ tile i) → mread (r.s.core m).veneer a 1 = mread (k.s.core m).veneer a 1)) ∧
  -- a word of the index list (11 R283)
  (∀ (k : CRun) (core : Nat) (b : Blk) (j : Nat) (p : Phys), k.stop = none → p.r = true →
    Resident k.s core k.c.ctx (b.aux + 4 * j) 4 p →
      let r := indexOf k core b j
      r.2 = peek k.s p.pa 4 ∧ r.1.stop = none ∧ r.1.c = k.c ∧ r.1.pw = k.pw ∧ r.1.s.noMem = k.s.noMem ∧
      (∀ m a, storeRead r.1.s m a 1 = storeRead k.s m a 1) ∧ (∀ a, peek r.1.s a 1 = peek k.s a 1) ∧ ∀ g, r.1.s.grp g = k.s.grp g) ∧
  -- one block of a quantise to BL8 or BL4, dense and without a scale, between inline ends of the window (05 R125, 11 R281)
  (∀ (k : CRun) (core : Nat) (b : Blk) (x d : End) (m : Nat),
    let t := k.s.team k.c.team
    let per := b.ncol / 32
    let src (e : Nat) : Nat := x.base + m / per * x.stride + (32 * (m % per) + e) * x.e
    let z := d.base + m / per * d.stride + m % per * Cv.blockSize d.enc
    let bl8 := d.enc = 4
    let g := if bl8 then 3 else 1
    let mx : Int := if bl8 then 63 else 3
    let u : Int := if bl8 then 8 else 2
    let mb := if bl8 then 6 else 2
    let y (e : Nat) : Cv.XV := Cv.decode x.enc (mread (k.s.core t.core).store (t.frame + src e) x.e)
    let finite (e : Nat) : Prop := ∃ sg n v, y e = .val sg n v
    let q (e : Nat) : Int := Cv.lgRne g (y e)
    k.stop = none → k.c.prog = 32 * m → m < b.nrow * per → t.pair = false → k.c.upper = false → x.space = 1 → d.space = 1 → x.hi = none → d.hi = none →
    x.epr = 0 → d.epr = 0 → x.swz = 0 → d.swz = 0 → x.scm = 0 → d.scm = 0 → d.fem = 3 → 0 < x.e → x.e ≤ 4 → Cv.elementwise x.enc = true →
    d.enc = 4 ∨ d.enc = 5 → b.dri = true → b.aux = 0 → (∀ e, e < 32 → src e + x.e ≤ t.size) → z + Cv.blockSize d.enc ≤ t.size →
    (∀ a, a < t.size → storeBad k.s t.core (t.frame + a) 1 = false) → (∀ e ∈ t.barriers, ¬ (e < z + Cv.blockSize d.enc ∧ z < e + 16)) →
    ∀ e1 e0 : Int, e0 = e1 - (mx + 1) / u →
    ((∀ e, e < 32 → ¬ finite e) ∧ e1 = 0 ∨
      ∃ h raw, h < 32 ∧ finite h ∧ (∀ e, e < 32 → finite e → q e ≤ q h) ∧
        -- ceil((top - Mx) / 2^g)
        u * (raw - 1) < q h - mx ∧ q h - mx ≤ u * raw ∧ e1 = min (max raw (-128 + (mx + 1) / u)) 127) →
    let coded (sg : Bool) (sel : Nat) (v : Int) : Nat :=
      (if sg then 2 ^ (mb + 1) else 0) + sel * 2 ^ mb + (if sg = true ∧ v = 0 then 1 else v.toNat)
    let codeOf (e : Nat) : Nat × Flags := match y e with
      | .nan => (if bl8 then 0x80 else 8, 0)
      | .zero _ => (if bl8 then 0xC0 else 12, 0)
      | .inf sg => (coded sg 1 mx, flOV)
      | .val sg _ _ =>
        if u * e1 + mx < q e then (coded sg 1 mx, flOV)
        else if u * e1 ≤ q e then (coded sg 1 (q e - u * e1), 0)
        else if u * e0 ≤ q e then (coded sg 0 (q e - u * e0), 0)
        else if d.sat = 1 then (coded sg 0 0, flUF) else (if bl8 then 0xC0 else 12, flUF)
    let r := runQuantise core b x d (32 * (m + 1)) k
    r.stop = none ∧ r.pw = k.pw ∧ r.c.prog = 32 * (m + 1) ∧ r.s.noMem = k.s.noMem ∧
    r.c.flg = (List.range 32).foldl (fun f e => f ||| (codeOf e).2) k.c.flg ∧
    storeRead r.s t.core (t.frame + z) 2 = 0 ∧ storeRead r.s t.core (t.frame + z + 2) 1 = (e1 % 256).toNat ∧
    storeRead r.s t.core (t.frame + z + 3) 1 = (e0 % 256).toNat ∧
    (∀ e, e < 32 → bl8 → storeRead r.s t.core (t.frame + z + 4 + e) 1 = (codeOf e).1) ∧
    (∀ e, e < 16 → ¬ bl8 →
      storeRead r.s t.core (t.frame + z + 4 + e) 1 = (codeOf (2 * e)).1 + 16 * (codeOf (2 * e + 1)).1) ∧
    (∀ c a, (c ≠ t.core ∨ a < t.frame + z ∨ t.frame + z + Cv.blockSize d.enc ≤ a) → storeRead r.s c a 1 = storeRead k.s c a 1) ∧
    (∀ a, peek r.s a 1 = peek k.s a 1) ∧ ∀ g, r.s.grp g = k.s.grp g) ∧
  -- a fold-max over a source in the window (11 R282)
  (∀ (k : CRun) (core : Nat) (b : Blk) (x : End) (p : Phys),
    let t := k.s.team k.c.team
    let n := b.nrow * b.ncol
    let src (j : Nat) : Nat := x.base + j / b.ncol * x.stride + j % b.ncol * x.e
    let v (j : Nat) : Cv.XV := Cv.decode x.enc (mread (k.s.core t.core).store (t.frame + src j) x.e)
    k.stop = none → k.c.prog < n → t.pair = false → k.c.upper = false → x.space = 1 → x.hi = none → x.epr = 0 → x.swz = 0 → x.scm = 0 →
    0 < x.e → x.e ≤ 4 → Cv.elementwise x.enc = true → (∀ j, j < n → src j + x.e ≤ t.size) →
    (∀ a, a < t.size → storeBad k.s t.core (t.frame + a) 1 = false) →
    Resident k.s core k.c.ctx b.aux 4 p → Writable k.s core k.c.ctx b.aux p →
      let r := runFold core b x k
      r.stop = none ∧ r.pw = k.pw ∧ r.c.prog = n ∧ r.s.noMem = k.s.noMem ∧
      (∀ m a, storeRead r.s m a 1 = storeRead k.s m a 1) ∧ (∀ g, r.s.grp g = k.s.grp g) ∧
      ((∀ j, j < n → v j = .nan) → ∀ a, peek r.s a 1 = peek k.s a 1) ∧
      ((∃ j, j < n ∧ v j ≠ .nan) → ∃ j, j < n ∧ v j ≠ .nan ∧ (∀ l, l < n → v l ≠ .nan → Cv.magLt (v j) (v l) = false) ∧
        let m := Log.encode .l32 (Cv.toLog .l32 0 false (match v j with
          | .nan => .nan | .inf _ => .inf false | .zero _ => .zero false | .val _ m e => .val false m e)).1
        ∀ a, peek r.s a 1 = if p.pa ≤ a ∧ a < p.pa + 4 then afmaxOf .l32 true (peek k.s p.pa 4) m / 256 ^ (a - p.pa) % 256
          else peek k.s a 1)) ∧
  -- a command without a completion word ends (11 R286, R289)
  (∀ (s : State) (core : Nat) (c : Cmd),
    let b := blkOf c.block
    s.noMem = none → (s.core core).cmds = [c] → c.block ≠ [] → c.cancel = false →
    c.ending = true → c.stage = 1 → c.peerOut = 0 → c.wait = none → c.skip = false → c.addr = none →
    b.cv = false → b.lnk = false → c.st = 3 →
      ∃ t, exec (.commandEnd core c.q) s = .next t ∧ (t.core core).cmds = [] ∧
        (t.team c.team).cmdsOut = (s.team c.team).cmdsOut - 1 ∧ (t.launch c.launch).cmdsOut = (s.launch c.launch).cmdsOut - 1 ∧
        .event (.teamRetire c.team) ∈ t.agenda ∧ .event (.launchEnd c.launch) ∈ t.agenda ∧
        ∀ g, submitter s c = some g → tget (t.grp g).cqst 0 c.q = tget (s.grp g).cqst 0 c.q ||| c.flg.setWidth 7) ∧
  -- a fill that waited and was woken, at a word of the window that is empty, is performed (08 R208, 11 R286)
  (∀ (s : State) (core : Nat) (c : Cmd) (p : WObj),
    let b := blkOf c.block
    let t := s.team c.team
    let o := winObj t (cmdCore s c) b.cwa
    s.noMem = none → core < Config.numCores → (s.core core).cmds = [c] → c.ending = true → c.stage = 3 → c.wait = none →
    c.fillAt = some p → (∀ w ∈ s.headland, ¬ (w.who = .engine core c.q ∧ w.obj = p)) → b.csp = true → b.lnk = false →
    (∀ g, submitter s c = some g → (s.grp g).st ≠ .saved) →
    b.cwa + 4 ≤ t.size → (∀ e ∈ t.barriers, ¬ (e < b.cwa + 4 ∧ b.cwa < e + 16)) → isFull s o = false →
      ∃ u, exec (.engineCompletionFill core c.q) s = .next u ∧ isFull u o = true ∧ (u.core core).cmds = [] ∧
        storeRead u (storeCore t (cmdCore s c) b.cwa) (t.frame + b.cwa) 4 =
          (if c.st = 3 ∧ c.skip = false then b.cval else b.cval ^^^ 0x80000000)) ∧
  -- the next block of a chain (11 R285, R286)
  ∀ (s : State) (core : Nat) (c : Cmd) (p : Phys),
    let a := (blkOf c.block).next
    let ws := (List.range 16).map fun j => BitVec.ofNat 64 (peek s (p.pa + 8 * j) 8)
    s.noMem = none → (s.core core).cmds = [c] → c.stage = 5 → c.wait = none → c.cancel = false →
    Resident s core c.ctx a 128 p → p.r = true →
      let n := { c with addr := some a, block := ws, links := c.links + 1, prog := 0, flg := 0, faddr := 0,
                        st := 0, fc := 0, ending := false, stage := 1, scales := [], cancel := false }
      let m := { n with recs := takeRecs s n }
      ∃ t, exec (.chainNextBlock core c.q) s = .next t ∧
        (c.bad = true → (t.core core).cmds = [{ n with ending := true, st := 6, fc := 9, skip := true }] ∧
          .event (.commandEnd core c.q) ∈ t.agenda) ∧
        (c.bad = false → blockOk m (blkOf ws) = true →
          (t.core core).cmds = [m] ∧ .event (xfEvent (blkOf ws).xf core c.q) ∈ t.agenda) ∧
        (c.bad = false → blockOk m (blkOf ws) = false → (t.core core).cmds = [{ m with ending := true, st := 4, fc := 3 }] ∧
          .event (.commandEnd core c.q) ∈ t.agenda)

/-! ### System instructions (03 R83, 13 R341, R342, R347, R362, R363, 15 R396, R401, 16 R413, R414) -/

/-- 13 R341, R342: `tlr` raises PROT beyond the address space and where the walk does not permit its accesses, parks on an absent
page, and else loads a register that maps as the pages do, up to the first page that does not go on or to 2 MiB, sets A, and D
for writes, in their entries, and answers its limit; `tlc` makes a register invalid. 13 R344: a malformed entry raises PROT and
has a record. -/
def Obligations.TranslationRegisters : Prop :=
  ∀ (s : State) (f : FmtY),
    let g := s.cur
    let x := s.grp g
    let c := s.ctxOf g
    let v := (readS s g f.s.toNat).toNat
    let rw := f.imm.getLsbD 0
    let n := f.idx.toNat % 8
    let d := f.d.toNat
    let allowed (p : Phys) : Prop := p.r = true ∧ (rw = true → p.w = true)
    Completes (.tlc f) s (s.setGrp g { x with tregs := tset x.tregs n { tget x.tregs {} n with val := false } }) 2 0 ∧
    (2 ^ 57 ≤ v → Traps (.tlr f) s 0x06 v x.em) ∧
    (v < 2 ^ 57 → walk s c v = .absent →
      ∃ u r, exec (.tlr f) s = done u ∧ (u.grp g).st = .parked ∧ (u.grp g).park = some r ∧ r.cause = .pages c [v / 65536] ∧
        r.pc = x.pc ∧ r.mask = x.live ∧ (u.grp g).sregs = x.sregs ∧ (u.grp g).tregs = x.tregs) ∧
    (∀ e b a, v < 2 ^ 57 → walk s c v = .leaf e b a → ¬ allowed (leafPhys e a v) → Traps (.tlr f) s 0x06 v x.em) ∧
    (v < 2 ^ 57 → walk s c v = .malformed →
      let y := s.ctx c
      let room := (y.fqtail + 1) % 2 ^ (y.fqsize + 6) ≠ y.fqhead % 2 ^ (y.fqsize + 6) ∧ ∀ o ∈ s.faultWait, o.ctx ≠ c
      ∃ u, exec (.tlr f) s = done (trap u g 0x06 v x.em) ∧ u.faults = s.faults ∧
        (room → u.faultWait = s.faultWait ∧ (u.ctx c).fqtail = (y.fqtail + 1) % 2 ^ (y.fqsize + 6) ∧
          (u.ctx c).fqseq = (y.fqseq + 1) % 2 ^ 32) ∧
        (¬ room → ∃ o ∈ u.faultWait, o.ctx = c ∧ o.page = v / 65536 ∧ o.code = 0x06)) ∧
    (∀ e b a, v < 2 ^ 57 → s.noMem = none → walk s c v = .leaf e b a → allowed (leafPhys e a v) →
      (∀ k e' b' a', v ≤ k → k < 2 ^ 57 → walk s c k = .leaf e' b' a' → b' < Config.hbmBytes) →
      let p := leafPhys e a v
      ∃ u t, Completes (.tlr f) s u 2 0 ∧ tget (u.grp g).tregs {} n = t ∧
        (∀ m, m ≠ n → tget (u.grp g).tregs {} m = tget x.tregs {} m) ∧
        (∀ m, readS u g m = if m = 127 then 0 else if m = d then BitVec.ofNat 64 t.limit else readS s g m) ∧
        t.val = true ∧ t.vbase = v ∧ t.pbase = p.pa ∧ t.wr = rw ∧ t.pr = p.pr ∧ t.peer = p.peer ∧ t.fek = p.fek ∧ t.hb = p.hb ∧
        0 < t.limit ∧ t.limit ≤ 2 ^ 21 ∧
        (∀ k, v ≤ k → k < v + t.limit → ∃ e' b', walk s c k = .leaf e' b' a ∧ leafPhys e' a k = { p with pa := p.pa + (k - v) } ∧
          (Settled s → peek u b' 1 / 32 % 2 = 1 ∧ (rw = true → peek u b' 1 / 16 % 2 = 1))) ∧
        (t.limit = 2 ^ 21 ∨ v + t.limit = 2 ^ 57 ∨
          ¬ ∃ e' b', walk s c (v + t.limit) = .leaf e' b' a ∧ leafPhys e' a (v + t.limit) = { p with pa := p.pa + t.limit }))

/-- 13 R362, R363, 03 R83: what `srd`, `rdc` and `feat` answer; in a deterministic launch the counters read RETC (14 R381). 13
R362, R363: `swr` writes BATCHPOL, LSTAT, MASTAT and the watchpoints, and TCAUSE to TEM in handler mode, BATCHPOL and MASTAT
at the end of the cycle (log entry 57); every other write raises PRIV. -/
def Obligations.SystemRegisters : Prop :=
  (∀ (s : State) (f : FmtY),
    let g := s.cur
    let x := s.grp g
    let k := s.core (g / 32)
    let c := s.ctx (s.ctxOf g)
    let det := isDet s g
    let idx := f.idx.toNat
    let gives (i : Instr) (v : DWord) : Prop := SetsScalar i s f.s.toNat v 2
    (∀ p ∈ [(0x00, BitVec.ofNat 64 (s.ctxOf g)), (0x01, BitVec.ofNat 64 (c.detMode + if det then 4 else 0)),
        (0x02, BitVec.ofNat 64 c.batchpol), (0x03, BitVec.ofNat 64 c.leaseLim), (0x04, BitVec.ofNat 64 c.feretry),
        (0x05, BitVec.ofNat 64 c.monquota), (0x06, BitVec.ofNat 64 c.tvec), (0x08, x.lstat.setWidth 64),
        (0x09, c.mastat.setWidth 64), (0x10, x.trap.tcause), (0x11, x.trap.tpc), (0x12, x.trap.thdr), (0x13, x.trap.taddr),
        (0x14, x.trap.tlmask), (0x15, x.trap.tem), (0x16, if x.trap.hmode then 1 else 0), (0x18, x.trap.wpa0),
        (0x19, x.trap.wpa1), (0x1A, x.trap.wpc), (0x20, x.retc), (0x21, if det then x.retc else k.cyc),
        (0x22, if det then x.retc else k.elt)], idx = p.1 → gives (.srd f) p.2) ∧
    gives (.rdc f) (if idx = 0 ∧ det = false then k.cyc else if idx = 1 ∧ det = false then k.elt else x.retc) ∧
    (idx = 0 → gives (.feat f) (BitVec.ofNat 64 (4 * 2 ^ 24 + s.dev.rev % 256 * 2 ^ 16))) ∧
    ((idx = 1 ∨ idx = 4) → det = true → gives (.feat f) 0) ∧
    (idx = 2 → gives (.feat f) 0x00000001007F007F) ∧
    (idx = 1 → det = false →
      let part := (List.range 22).filter fun k => tget s.dev.parts 0 k == c.part
      let count (ks : List Nat) : Nat := (ks.flatMap fun k => (List.range 16).filter fun j => s.enabled (16 * k + j)).length
      gives (.feat f) (BitVec.ofNat 64 (s.dev.bin * 2 ^ 56 + count (List.range 22) * 2 ^ 47 + count part * 2 ^ 38 +
        part.headD 0 * 2 ^ 33 + part.length * 2 ^ 28 + s.dev.xlPair * 2 ^ 16 +
        ((List.range 16).map fun j => if s.enabled (g / 512 * 16 + j) then 2 ^ j else 0).sum))) ∧
    (idx = 3 → gives (.feat f) 0x5C42463238282A1E) ∧
    (idx = 4 → det = false →
      let named := (List.range 16).filter fun p => s.dev.peermap.toNat / 2 ^ (4 * p) % 16 < 8
      gives (.feat f) (BitVec.ofNat 64 (s.dev.trained.toNat + s.dev.peerself * 2 ^ 8 + (named.length - 1) * 2 ^ 12 +
        (if s.dev.hostcap then 2 ^ 16 else 0) + (if named = [] then 2 ^ 17 else 0)))) ∧
    (idx = 5 → gives (.feat f) (BitVec.ofNat 64 (32 + 48 * 2 ^ 8 + 64 * 2 ^ 16 + 64 * 2 ^ 24))) ∧
    (5 < idx → gives (.feat f) 0)) ∧
  (∀ (s : State) (f : FmtY),
    let g := s.cur
    let x := s.grp g
    let c := s.ctxOf g
    let v := readS s g f.s.toNat
    let idx := f.idx.toNat
    let sets (t : TrapRegs) : Prop := Completes (.swr f) s (s.setGrp g { x with trap := t }) 2 0
    let h := x.trap.hmode = true
    (idx = 0x02 → v.toNat % 4 = 3 → Traps (.swr f) s 0x06 0 x.em) ∧
    let queues (n : Nat) : Prop := Completes (.swr f) s (s.modCore s.curCore fun k => { k with ctxSets := k.ctxSets ++ [(c, n, v)] }) 2 0
    (idx = 0x02 → v.toNat % 4 ≠ 3 → queues 0x02) ∧
    (idx = 0x08 → ∃ e, Completes (.swr f) s e 2 0 ∧ (e.grp g).lstat = v.setWidth 4 ∧
      { e.grp g with lstat := x.lstat, inflight := x.inflight } = x) ∧
    (idx = 0x09 → queues 0x09) ∧
    -- the write of a register of the context is performed at the end of the cycle
    (∀ (core d : Nat) (w : DWord), (idx = 0x02 ∨ idx = 0x09) → (s.core core).ctxSets = [(d, idx, w)] →
      let u := settleCtxRegs s core
      (u.core core).ctxSets = [] ∧ (∀ d', d' ≠ d → u.ctx d' = s.ctx d') ∧
      u.ctx d = if idx = 0x02 then { s.ctx d with batchpol := w.toNat % 4 } else { s.ctx d with mastat := w.setWidth 4 }) ∧
    (idx = 0x10 → h → sets { x.trap with tcause := v &&& 0xFF }) ∧
    (idx = 0x11 → h → sets { x.trap with tpc := v &&& 0x1FFFFFFFFFFFFFF }) ∧
    (idx = 0x12 → h → sets { x.trap with thdr := v &&& 0x1FFFFFFFFFFFFFF }) ∧
    (idx = 0x13 → h → sets { x.trap with taddr := v }) ∧
    (idx = 0x14 → h → sets { x.trap with tlmask := v &&& lowMask x.gw }) ∧
    (idx = 0x15 → h → sets { x.trap with tem := v &&& lowMask x.gw }) ∧
    (idx = 0x18 → sets { x.trap with wpa0 := v &&& 0x1FFFFFFFFFFFFFF }) ∧
    (idx = 0x19 → sets { x.trap with wpa1 := v &&& 0x1FFFFFFFFFFFFFF }) ∧
    (idx = 0x1A → sets { x.trap with wpc := v &&& 0xFFFF }) ∧
    (idx ∉ [0x02, 0x08, 0x09, 0x18, 0x19, 0x1A] → ¬ (h ∧ 0x10 ≤ idx ∧ idx ≤ 0x15) → Traps (.swr f) s 0x03 0 x.em))

/-- 15 R395, R396, R401, 16 R409, R414: `lease` answers its code and the intervals left, `lrel` ends the lease; `slp` parks the
group for a number of intervals, and it wakes when they have passed or, for `slp.ntc`, when a notice comes; `msg` writes an
event record after its release and answers its SEQ; groups that waited for room in the fault stage are reported. -/
def Obligations.LeasesSleepAndMessages : Prop :=
  (∀ (s : State) (f : FmtY),
    let g := s.cur
    let x := s.grp g
    let k := g / 32 / 16
    let c := s.ctxOf g
    let n := (readS s g f.s.toNat).toNat % 2 ^ 16
    let d := f.d.toNat
    let cl := s.cluster k
    let lim := (s.ctx c).leaseLim
    let hot := ∃ j, j < 16 ∧ s.enabled (16 * k + j) = true ∧ (s.core (16 * k + j)).trip ≤ (s.core (16 * k + j)).temp + 5
    let others := ((List.range 22).filter fun j => countsHigh (s.cluster j)).length
    let crowded := countsHigh cl = false ∧ s.dev.hmax ≤ others
    let left := leaseLeft s k c
    let answers (code n : Nat) : Prop := ∃ e, Answers (.lease f) s e [(d, if isDet s g then 0 else BitVec.ofNat 64 (code * 2 ^ 16 + n))] [] ∧
      leaseLeft e k c = n ∧ (∀ c', c' ≠ c → leaseLeft e k c' = leaseLeft s k c') ∧ ∀ j, j ≠ k → e.cluster j = s.cluster j
    (n = 0 → answers 7 left) ∧ (n ≠ 0 → cl.pol = 1 → answers 6 left) ∧ (n ≠ 0 → cl.pol = 2 → answers 5 left) ∧
    (n ≠ 0 → cl.pol ≠ 1 → cl.pol ≠ 2 → lim = 0 → answers 2 left) ∧
    (n ≠ 0 → cl.pol ≠ 1 → cl.pol ≠ 2 → lim ≠ 0 → hot → answers 4 left) ∧
    (n ≠ 0 → cl.pol ≠ 1 → cl.pol ≠ 2 → lim ≠ 0 → ¬ hot → crowded → answers 3 left) ∧
    (n ≠ 0 → cl.pol ≠ 1 → cl.pol ≠ 2 → lim ≠ 0 → ¬ hot → ¬ crowded →
      answers (if lim < n then 1 else 0) (max left (min n lim))) ∧
    (∃ e, Answers (.lrel f) s e [(d, if isDet s g then 0 else BitVec.ofNat 64 left)] [] ∧ leaseLeft e k c = 0 ∧
      ∀ c', c' ≠ c → leaseLeft e k c' = leaseLeft s k c') ∧
    (∀ p ∈ [(Instr.slpIv f, false), (.slpNtc f, true)],
      let m := min (readS s g f.s.toNat).toNat 255
      (m = 0 → Completes p.1 s s 2 0) ∧
      (m ≠ 0 → ∃ t r, exec p.1 s = .next t ∧ Moves s t g ∧ (t.grp g).st = .parked ∧ (t.grp g).park = some r ∧
        r.cause = .sleep m p.2 ∧ r.pc = x.pc ∧ r.mask = x.em ∧ r.woken = false)) ∧
    (releaseReady x 3 2 = false → exec (.msg f) s = .next (s.setGrp g { x with st := .held })) ∧
    (releaseReady x 3 2 = true →
      let u := releaseHalf s g 3 2
      let y := s.ctx c
      let r := eventRecord u c 0x10 k f.imm.toNat 0 0 0 (readS s g f.a.toNat).toNat
      let full := (y.eqtail + 1) % 2 ^ (y.eqsize + 6) = y.eqhead % 2 ^ (y.eqsize + 6)
      r.1.noMem = none →
        Answers (.msg f) s r.1 [(d, if isDet s g ∨ full then 0 else BitVec.ofNat 64 y.eqseq)] [] ∧
        (r.1.ctx c).eqseq = (y.eqseq + 1) % 2 ^ 32 ∧
        (full → (r.1.ctx c).eqlost = (y.eqlost + 1) % 2 ^ 32 ∧ (r.1.ctx c).eqtail = y.eqtail) ∧
        (¬ full → (r.1.ctx c).eqtail = (y.eqtail + 1) % 2 ^ (y.eqsize + 6)))) ∧
  (∀ (s : State) (core slot : Nat) (r : ParkRec),
    let g := core * 32 + slot
    (s.grp g).park = some r →
      (∀ n b, r.cause = .sleep n b → r.woken = false → (n = 0 ∨ b = true) →
        ∃ t, exec (.sleepWake core slot) s = .next t ∧
          (∃ r', (t.grp g).park = some r' ∧ r'.woken = true ∧ r'.cause = r.cause ∧ r'.pc = r.pc) ∧
          ∀ h, h ≠ g → t.grp h = s.grp h) ∧
      ((∀ n b, r.cause = .sleep n b → r.woken = true ∨ (n ≠ 0 ∧ b = false)) → exec (.sleepWake core slot) s = .next s)) ∧
  ∀ (s : State) (f o : OpenFault) (r : List OpenFault), s.noMem = none → s.faultWait = [f] → s.faults = o :: r →
    o.ctx = f.ctx → o.page = f.page → f.code = 0 →
      ∃ t, exec .pageFaultReport s = .next t ∧ t.faultWait = [] ∧ t.faults.length = s.faults.length ∧
        t.faults.head? = some { o with acc := o.acc ||| f.acc, waiters := o.waiters ++ f.waiters }


/-! ### Events of groups (01 R19, R20, R25, 03 R68 to R78, R91, R92, 08 R206, 12 R319, R332) -/

/-- 01 R20, R25, 03 R91, R92: a group whose lanes have exited waits for its outstanding work; then it frees its slot, and the
last of its team retires the team; one of a regroup batch keeps its slot for the threads that return. 01 R20, 12 R319, R332: a
continuation task makes its parked group Eligible, to perform its instruction again or to go past it; a phase task is admitted
when the team can reserve again. 08 R206: FE_BUDGET is raised in place of a re-park beyond the context's limit. -/
def Obligations.GroupsExitAndReturn : Prop :=
  (∀ (s : State) (core slot : Nat),
    let g := core * 32 + slot
    let x := s.grp g
    let busy := ∃ p ∈ x.pend, isResult p.kind = true ∨ p.kind = .store
    let rest := (teamGroups (s.team x.team)).filter fun h => h != g && (s.grp h).st != .free && (s.grp h).team == x.team
    ((x.exiting = false ∨ busy) → exec (.groupExit core slot) s = .next s) ∧
    (x.exiting = true → ¬ busy → x.origin ≠ [] →
      ∃ t, exec (.groupExit core slot) s = .next t ∧ (t.grp g).st = .exited ∧ (t.grp g).exiting = false ∧
        (t.grp g).origin = x.origin ∧ (t.grp g).sregs = x.sregs ∧ .event (.regroupRejoin x.team) ∈ t.agenda ∧
        -- no wide barrier of its launch can have waited for it
        ((s.team x.team).wide = none → (s.team x.team).st = .resident →
          (∀ h, h ≠ g → t.grp h = s.grp h) ∧ t.agenda = s.agenda ++ [.event (.regroupRejoin x.team)])) ∧
    (x.exiting = true → ¬ busy → x.origin = [] →
      ∃ t, exec (.groupExit core slot) s = .next t ∧
        (rest = [] → t.grp g = {} ∧ (∀ h, h ≠ g → t.grp h = s.grp h) ∧
          t.agenda = s.agenda ++ (if s.ctxs.any (·.2.state == 1) then [.event (.groupSave core slot)] else []) ++
            [.event (.teamRetire x.team)]))) ∧
  (∀ (s : State) (k core slot : Nat) (e : FEntry) (r : ParkRec),
    let g := core * 32 + slot
    let x := s.grp g
    s.noMem = none → (s.cluster k).furrow.filter (contTask s) = [e] → e.level ≤ 3 → e.task = .cont core slot →
    x.st = .parked → x.park = some r →
      (∀ c o fe, (r.cause = .feStore c o fe ∨ r.cause = .feMem o fe ∨ r.cause = .fePeer c o fe ∨
          ((∃ c, r.cause = .pages c []) ∧ r.badPages = [] ∧ r.fetch = false)) →
        ∃ t, exec (.continuationAdmit k) s = .next t ∧ t.grp g = { x with st := .eligible, park := none, redo := some r } ∧
          (∀ h, h ≠ g → t.grp h = s.grp h) ∧ (t.cluster k).furrow = agedBy s e.level ((s.cluster k).furrow.erase e)) ∧
      (∀ a b, (r.cause = .barWait a b ∨ r.cause = .gbarWait a b) →
        ∃ t, exec (.continuationAdmit k) s = .next t ∧ t.grp g = { x with st := .eligible, park := none, replay := true } ∧
          ∀ h, h ≠ g → t.grp h = s.grp h) ∧
      (∀ n b, r.cause = .sleep n b →
        ∃ t, exec (.continuationAdmit k) s = .next t ∧ (t.grp g).pc = nextPc x ∧ (t.grp g).retc = x.retc + 1 ∧
          (t.grp g).seq = x.seq + 1 ∧ (t.grp g).sregs = x.sregs ∧ ∀ h, h ≠ g → t.grp h = s.grp h)) ∧
  (∀ (s : State) (k core slot : Nat) (e : FEntry) (r : ParkRec) (d : Bool),
    let g := core * 32 + slot
    let x := s.grp g
    let w := (s.launchOf g).dw
    let fits := energyFits s k (recEnergy w) (recPcc w) 0
    s.noMem = none → (s.cluster k).furrow.filter (phaseTask s) = [e] → e.level ≤ 3 → e.task = .phase core slot →
    x.st = .parked → x.park = some r → r.cause = .wide d →
      ((s.team x.team).reserved = false → fits = false → exec (.phaseAdmit k) s = .next s) ∧
      ((s.team x.team).reserved = true ∨ fits = true →
        ∃ t, exec (.phaseAdmit k) s = .next t ∧ (t.team x.team).reserved = true ∧ (t.grp g).pc = nextPc x ∧
          (t.grp g).retc = x.retc + 1 ∧ (t.grp g).sregs = x.sregs)) ∧
  ∀ (s : State) (core slot : Nat) (r : ParkRec),
    let g := core * 32 + slot
    let x := s.grp g
    let limit := (s.ctx (s.ctxOf g)).feretry
    x.park = some r → (∃ c o fe, r.cause = .feStore c o fe ∨ r.cause = .feMem o fe ∨ r.cause = .fePeer c o fe) → x.st = .parked →
      ((limit = 0 ∨ r.futile < limit) → exec (.feBudget core slot) s = .next s) ∧
      (limit ≠ 0 → limit ≤ r.futile → s.noMem = none → x.trap.hmode = false → (s.ctx (s.ctxOf g)).tvec ≠ 0 →
        ∃ t, exec (.feBudget core slot) s = .next t ∧ (t.grp g).st = .eligible ∧ (t.grp g).park = none ∧
          (t.grp g).pc = (s.ctx (s.ctxOf g)).tvec ∧ (t.grp g).em = x.live ∧ (t.grp g).sregs = x.sregs ∧
          (t.grp g).trap = { x.trap with
            tcause := 7, tpc := BitVec.ofNat 64 r.pc, thdr := BitVec.ofNat 64 x.hdr, taddr := BitVec.ofNat 64 r.lead,
            tlmask := r.mask &&& lowMask x.gw, tem := x.em &&& lowMask x.gw, hmode := true } ∧
          ∀ w ∈ t.headland, w.who ≠ .group (g / 32) (g % 32))

/-- 03 R92, 01 R24: the rendezvous of a team waits for every group that has not exited; groups that came by different branches
trap; else the threads are grouped by target, and the first batch takes the slots in order, each group with the lanes, the vector
registers and the predicates of its threads at its target, the highest RETC, and the scalar state of the origin of its lowest
thread. When every group of the batch has arrived at the rejoin or exited and no thread is left, each origin group goes on at
slot 1 of the join clause with its own scalar state, the lanes that came back and what their registers hold, the highest RETC
and the LSTAT of every group that held one of its threads. -/
def Obligations.RegroupRendezvousAndRejoin : Prop :=
  (∀ (s : State) (tm : Nat),
    let t := s.team tm
    let live := (teamGroups t).filter fun g => (s.grp g).st != .free && (s.grp g).team == tm
    let here := live.filter fun g => parkedOn (s.grp g) .regroup && (s.grp g).st == .parked
    let ths := here.flatMap fun g => (s.grp g).target.map fun e => (e.2, g, e.1)
    let jobs := batchJobs ths here.length
    let n := (s.grp (here.headD 0)).nregs
    let w := (s.grp (here.headD 0)).gw
    -- the register windows of the groups lie apart
    let apart : Prop := n ≤ 192 ∧ n * w * 4 ≤ t.win ∧
      (∀ g ∈ here, (s.grp g).nregs = n ∧ (s.grp g).gw = w ∧ ∀ e ∈ (s.grp g).target, e.1 < w) ∧
      ∀ g ∈ here, ∀ h ∈ here, g ≠ h → (s.grp g).member ≠ (s.grp h).member
    let whole : Prop := t.st = .resident ∧ t.rgOrigins = [] ∧ here ≠ [] ∧ here.length = live.length
    ((t.st ≠ .resident ∨ t.rgOrigins ≠ [] ∨ here = [] ∨ here.length < live.length) →
      exec (.regroupRendezvous tm) s = .next s) ∧
    (whole → (∃ g ∈ here, ∃ h ∈ here, (s.grp g).pc ≠ (s.grp h).pc) →
      exec (.regroupRendezvous tm) s = done (here.foldl (fun u g => match (u.grp g).park with
        | some r => if r.cause = .regroup ∧ (u.grp g).team = tm then trap u g 0x02 r.lead r.mask else u
        | none => u) s)) ∧
    (whole → (teamGroups t).Nodup → (∀ g ∈ here, ∀ h ∈ here, (s.grp g).pc = (s.grp h).pc) → (∀ h ∈ ths, h.2.2 < 64) →
      jobs.length ≤ here.length →
        ∃ u, exec (.regroupRendezvous tm) s = .next u ∧
          (u.team tm).rgOrigins = here.map (fun g => (g, s.grp g)) ∧
          (u.team tm).rgThreads = ths.filter (fun h => !jobs.any fun j => j.1 == h.1) ∧
          ∀ j a k, jobs[j]? = some (a, k) →
            let d := here.getD j 0
            let y := u.grp d
            let lanes := jobLanes ths a k
            y.pc = a ∧ y.origin = lanes ∧ y.live = maskOf (lanes.map Prod.fst) ∧ y.em = y.live ∧
            y.st = .parked ∧ (∃ r, y.park = some r ∧ r.woken = true) ∧
            (∃ g ∈ here, y.retc = (s.grp g).retc) ∧ (∀ g ∈ here, (s.grp g).retc.toNat ≤ y.retc.toNat) ∧
            (∀ e, lanes.head? = some e → y.sregs = (s.grp e.2).sregs ∧ y.tregs = (s.grp e.2).tregs ∧ y.lstat = (s.grp e.2).lstat) ∧
            (apart → ∀ e ∈ lanes, (∀ r, r < n → readV u d [] r e.1 = readV s e.2 [] r e.1) ∧
              ∀ q, q < 8 → (predOf y q).getLsbD e.1 = (predOf (s.grp e.2) q).getLsbD e.1))) ∧
  ∀ (s : State) (tm : Nat),
    let t := s.team tm
    let batch := (teamGroups t).filter fun g => !(s.grp g).origin.isEmpty
    let done_ := ∀ g ∈ batch, (s.grp g).st = .exited ∨ ((s.grp g).st = .parked ∧ parkedOn (s.grp g) .rejoin = true)
    let held (g i o : Nat) : Prop := g ∈ batch ∧ (i, o) ∈ (s.grp g).origin
    let n := (s.grp ((teamGroups t).headD 0)).nregs
    let w := (s.grp ((teamGroups t).headD 0)).gw
    let apart : Prop := n ≤ 192 ∧ w ≤ 64 ∧ n * w * 4 ≤ t.win ∧ (∀ e ∈ t.rgOrigins, e.1 ∈ teamGroups t) ∧
      (∀ g ∈ teamGroups t, (s.grp g).team = tm ∧ (s.grp g).nregs = n ∧ (s.grp g).gw = w ∧ (∀ e ∈ (s.grp g).origin, e.1 < w) ∧
        ∀ i, (tget t.rgSurv 0 g).getLsbD i = true → i < w) ∧
      (∀ g ∈ teamGroups t, ∀ h ∈ teamGroups t, g ≠ h → (s.grp g).member ≠ (s.grp h).member) ∧
      ∀ g h i o, held g i o → held h i o → g = h
    ((t.st ≠ .resident ∨ t.rgOrigins = [] ∨ ¬ done_) → exec (.regroupRejoin tm) s = .next s) ∧
    (t.st = .resident → t.rgOrigins ≠ [] → done_ → t.rgThreads = [] → (t.rgOrigins.map Prod.fst).Nodup →
      ∃ u, exec (.regroupRejoin tm) s = .next u ∧ (u.team tm).rgOrigins = [] ∧
        ∀ e ∈ t.rgOrigins,
          let y := u.grp e.1
          y.pc = (t.rgJoin + 16) % 2 ^ 57 ∧ y.hdr = t.rgJoin ∧ y.stack = [] ∧ y.sregs = e.2.sregs ∧ y.tregs = e.2.tregs ∧
          y.trap = e.2.trap ∧ y.em = y.live ∧ (y.live = 0 → y.exiting = true ∧ y.st = .held ∧ y.park = none) ∧
          (y.live ≠ 0 → y.exiting = false ∧ y.st = .parked ∧ ∃ r, y.park = some r ∧ r.cause = .rejoin ∧ r.woken = true) ∧
          (∀ i, y.live.getLsbD i = true ↔ (tget t.rgSurv 0 e.1).getLsbD i = true ∨
            ∃ g ∈ batch, (i, e.1) ∈ (s.grp g).origin ∧ (s.grp g).live.getLsbD i = true) ∧
          t.rgTopRetc.toNat ≤ y.retc.toNat ∧ (∀ g ∈ batch, (s.grp g).retc.toNat ≤ y.retc.toNat) ∧
          (y.retc = t.rgTopRetc ∨ ∃ g ∈ batch, y.retc = (s.grp g).retc) ∧
          (∀ f, (t.rgFlags.find? fun f => f.1 == e.1) = some f → ∀ b, b < 4 →
            (y.lstat.getLsbD b = true ↔ e.2.lstat.getLsbD b = true ∨ f.2.1.getLsbD b = true ∨
              ∃ g i, held g i e.1 ∧ (s.grp g).lstat.getLsbD b = true)) ∧
          (apart → ∀ r i, r < n → y.live.getLsbD i = true →
            (∀ g, held g i e.1 → (s.grp g).live.getLsbD i = true → readV u e.1 [] r i = readV s g [] r i) ∧
            ((∀ g, held g i e.1 → (s.grp g).live.getLsbD i = false) →
              readV u e.1 [] r i = tget t.rgRegs 0 ((e.1 * 256 + r) * 64 + i))))

/-- 03 R68, R71 to R77: a cycle begins on a core: the one in progress ends, the counters advance by it, the ports are free again;
a core whose rail has changed stops first; on a core with one Eligible group, in a clause and neither throttled nor stopped,
that group runs. 03 R72, R77: of several, the first ready group from the pointer takes its rows, or none does, and the rows
left go on in rotation order under FAIR, and under BATCH first to the highest timing class that runs, then to lower, then to
higher ones. 03 R78: under DETROT the pointer passes the slots that are not waited for, and selects or waits at the next, and
ports go by slot; that it passes a group that drains for its exit is the model's choice (log entry 45). 15 R394, 03 R71: when
the clocks start again ELT has advanced by the cycle in progress and by the stop. -/
def Obligations.CyclesAndRails : Prop :=
  (∀ (s : State) (core : Nat),
    let k := s.core core
    let cs := clockCores s core
    (s.enabled core = false → exec (.groupSelect core) s = .next s) ∧
    (s.enabled core = true → (s.core (cs.headD core)).railStop.isSome = true →
      ∃ t, exec (.groupSelect core) s = .next t ∧ t.agenda = s.agenda ++ [.event (.railStopEnd (cs.headD core / 16))] ∧
        t.cores = s.cores) ∧
    (s.enabled core = true → cs = [core] → k.railStop = none → s.noMem = none →
      let now := if k.cycling then k.cyc + 1 else k.cyc
      let elt := if k.cycling then k.elt + BitVec.ofNat 64 (Config.ticks (railOf s core) (cycleClass s [core])) else k.elt
      k.ptr < 32 →
      ((∀ e ∈ k.slots, e.1 < 32 ∧ e.2.st ≠ .eligible ∧ e.2.st ≠ .held) →
        ∃ t, exec (.groupSelect core) s = .next t ∧ (t.core core).cyc = now ∧ (t.core core).elt = elt ∧
          (t.core core).grants = (1, 2, 1) ∧ (t.core core).cycling = true) ∧
      (∀ n x, k.slots = [(n, x)] → n < 32 → k.halfDuty = false → x.st = .eligible → x.running = false →
        x.exiting = false → x.stopReq = false → x.yielded = none → x.tail = none → x.clause ≠ [] → x.hdr ≠ 0 → (s.team x.team).throttled = false →
        ∃ t, exec (.groupSelect core) s = .next t ∧ (t.core core).cyc = now ∧ (t.core core).elt = elt ∧
          (t.core core).grants = (1, 2, 1) ∧ core * 32 + n ∈ (t.core core).turn ∧ (t.grp (core * 32 + n)).running = true ∧
          (t.grp (core * 32 + n)).pc = x.pc ∧ (t.grp (core * 32 + n)).clause = x.clause))) ∧
  -- the choice among several (03 R72, R77, R78), where none is throttled, yielded or stopped, and each is in a clause
  (∀ (s : State) (core : Nat),
    let k := s.core core
    let at_ (j : Nat) : Nat := core * 32 + (k.ptr + j) % 32
    let rdy (g : Nat) : Bool := (s.grp g).st == .eligible && !(s.grp g).running
    let busy := k.slots.foldl (fun a e => a ||| if e.2.running then e.2.rows else 0) 0
    let plain := k.ptr < 32 ∧ (k.slots.map Prod.fst).Nodup ∧ ∀ e ∈ k.slots, e.1 < 32 ∧ (s.team e.2.team).throttled = false ∧
      e.2.yielded = none ∧ e.2.tail = none ∧ e.2.stopReq = false ∧ ((e.2.st = .eligible ∨ e.2.running = true) → e.2.clause ≠ [])
    let same (u : State) (p : Nat) : Prop := (u.core core).ptr = p ∧ ∀ g, (u.grp g).running = (s.grp g).running
    plain →
      (∀ pol, pol ≤ 1 →
        let u := selectFair s core pol
        ((∀ j, j < 32 → rdy (at_ j) = false) → same u k.ptr) ∧
        ∀ h, ((List.range 32).map at_).find? rdy = some h →
          (rowsFor busy (s.grp h).gw = none → same u k.ptr) ∧
          ∀ r, rowsFor busy (s.grp h).gw = some r →
            let p := (h % 32 + 1) % 32
            let rest := ((List.range 32).map fun j => core * 32 + (p + j) % 32).filter fun g => rdy g && g != h
            let tcx (x : Group) : Nat := (headerOf (x.clause.headD 0)).tcx
            let top := (k.slots.filter (·.2.running)).foldl (fun a e => max a (tcx e.2)) (tcx (s.grp h))
            let cls (g : Nat) : Nat := tcx (s.grp g)
            let order := if pol = 1 then rest
              else rest.filter (fun g => cls g == top) ++ rest.filter (fun g => cls g < top) ++ rest.filter fun g => top < cls g
            let take (a : BitVec 4 × List (Nat × BitVec 4)) (g : Nat) : BitVec 4 × List (Nat × BitVec 4) :=
              match rowsFor a.1 (s.grp g).gw with
              | some r => (a.1 ||| r, a.2 ++ [(g, r)])
              | none => a
            let chosen := (order.foldl take (busy ||| r, [(h, r)])).2
            (u.core core).ptr = p ∧ (∀ e ∈ chosen, (u.grp e.1).running = true ∧ (u.grp e.1).rows = e.2) ∧
              ∀ g, (∀ e ∈ chosen, e.1 ≠ g) → (u.grp g).running = (s.grp g).running) ∧
      (let u := selectDet s core 32
      let skips (g : Nat) : Prop :=
        let x := s.grp g
        x.st = .free ∨ x.st = .exited ∨ (x.st = .held ∧ x.exiting = true) ∨
          (x.st = .parked ∧ ∃ r, x.park = some r ∧ r.woken = false ∧
            ((∃ b ps, r.cause = .pages b ps) ∨ (∃ a b, r.cause = .barWait a b) ∨ (∃ a b, r.cause = .barArrive a b) ∨
              (∃ a b, r.cause = .gbarWait a b) ∨ (∃ a b, r.cause = .gbarArrive a b) ∨ (∃ d, r.cause = .wide d) ∨
              r.cause = .regroup ∨ r.cause = .rejoin ∨ (∃ n b, r.cause = .sleep n b) ∨ r.cause = .queue))
      let waits (g : Nat) : Prop :=
        let x := s.grp g
        (x.st = .held ∧ x.exiting = false) ∨ (x.st = .eligible ∧ x.running = true) ∨
          (x.st = .parked ∧ ∃ r, x.park = some r ∧ (r.woken = true ∨ r.cause = .reply ∨ r.cause = .marker))
      ((∀ j, j < 32 → skips (at_ j)) → same u k.ptr) ∧
      ∀ j, j < 32 → (∀ i, i < j → skips (at_ i)) →
        (waits (at_ j) → same u ((k.ptr + j) % 32)) ∧
        (rdy (at_ j) = true → rowsFor busy (s.grp (at_ j)).gw = none → same u ((k.ptr + j) % 32)) ∧
        ∀ r, rdy (at_ j) = true → rowsFor busy (s.grp (at_ j)).gw = some r →
          (u.core core).ptr = (k.ptr + j + 1) % 32 ∧ (u.grp (at_ j)).running = true ∧ (u.grp (at_ j)).rows = r ∧
            ∀ g, g ≠ at_ j → (u.grp g).running = (s.grp g).running) ∧
      (policyOf s core = 2 →
        issueOrder s core = ((List.range 32).map (core * 32 + ·)).filter fun g => (s.grp g).running)) ∧
  ∀ (s : State) (cluster core : Nat) (old : Bool), s.enabled core = true → core / 16 = cluster → clockCores s core = [core] →
    (s.core core).railStop = some old →
      ∃ t, exec (.railStopEnd cluster) s = .next t ∧ (t.core core).railStop = none ∧ (t.core core).cyc = (s.core core).cyc + 1 ∧
        (t.core core).elt = (s.core core).elt + BitVec.ofNat 64 (Config.ticks old (cycleClass s [core])) +
          BitVec.ofNat 64 Config.railStopTicks


/-! ### Events of tasks and launches (12 R309 to R322, 01 R15, R25, 14 R384) -/

/-- 12 R309, R314, R338: the command processor performs the oldest decrement or spawn that does not wait: a count that stays
positive is written back, and one that reaches 0 puts the launch on the launch furrow with ST = 2. 12 R317, R319, 14 R373: the
launch admitted next has ST = 3 and a queued team task for each team, dealt in ascending number to the clusters of the partition
from the one after the last that received one, or to units in turn when it is deterministic; a launch that has ended or been
aborted is passed over. 12 R320: a task whose count of passings is full moves to the tail of the next level. 01 R15, 12 R312,
R313, 14 R384: a launch that is over takes the steps of its ending: its digest, the CRC of the CRCs of its logical cores' ranges,
its completion record, its state and its successors; then it has ended, reserves nothing, and is on no furrow; one that is not
over, or has ended, stays. -/
def Obligations.LaunchesArmedAndEnded : Prop :=
  ((∀ s : State, (∀ r ∈ s.decs, r.wait.isSome = true) → exec .taskDecrement s = .next s) ∧
  (∀ (s u : State) (r : CpReq) (p : Phys) (l : Nat),
    let a := recordAt u r.ctx p
    let d := a.2
    let cnt := fld (dwOf d 0) 32 32
    s.decs = [r] → r.wait = none → r.spawn = false → r.host = false → r.src = none → (∀ e ∈ s.launches, e.2.refused = false) →
    cpReach { s with decs := [] } r.ctx r.rec_ 64 true true r.bad = (u, .ok p) →
    fld (dwOf d 7) 60 4 = 1 → killedRec a.1 r 1 = false → armedOf a.1 r = some l →
      (r.n < cnt →
        let t := cpStore a.1 r.ctx { p with pa := p.pa + 4 } 4 (cnt - r.n)
        t.noMem = none → exec .taskDecrement s = .next t) ∧
      (cnt = r.n →
        let t := putSt (cpStore a.1 r.ctx { p with pa := p.pa + 4 } 4 0) r.ctx p (dwOf (s.launch l).dw 7) 2
        t.noMem = none →
          ∃ v, exec .taskDecrement s = .next v ∧ v.decs = [] ∧ (v.launch l).st = 2 ∧
            v.launchQ = s.launchQ ++ [(recPri (s.launch l).dw, l, 0)] ∧ .event .launchAdmit ∈ v.agenda)) ∧
  (∀ (s : State) (e : Nat × Nat × Nat),
    let l := e.2.1
    let x := s.launch l
    let q := ageLaunches s e.1 (s.launchQ.erase e)
    nextLaunchOf s = some e →
      ((x.ended = true ∨ x.aborted = true) → ∃ t, exec .launchAdmit s = .next t ∧ t.launchQ = q ∧ t.teams = s.teams) ∧
      (∀ u p, x.ended = false → x.aborted = false → recRole x.dw ≠ 2 → partClusters s x.ctx ≠ [] →
        (x.det = true → partUnits s x.ctx (recPair x.dw) ≠ []) →
        cpReach s x.ctx x.rec_ 64 false true x.badPages = (u, .ok p) → (putSt u x.ctx p (dwOf x.dw 7) 3).noMem = none →
          ∃ t, exec .launchAdmit s = .next t ∧ t.launchQ = q ∧ (t.launch l).st = 3 ∧ t.nextTeam = s.nextTeam + recTeams x.dw ∧
            (∀ n, n < s.nextTeam → t.team n = s.team n) ∧
            (t.ctx x.ctx).lastCluster = some (t.team (s.nextTeam + recTeams x.dw - 1)).cluster ∧
            ∀ n, n < recTeams x.dw →
              let cls := partClusters s x.ctx
              let first := match (s.ctx x.ctx).lastCluster with
                | some k => (cls.filter fun j => j ≤ k).length
                | none => 0
              let us := partUnits s x.ctx (recPair x.dw)
              let y := t.team (s.nextTeam + n)
              y.st = .queued ∧ y.launch = l ∧ y.ctx = x.ctx ∧ y.number = n ∧ y.pri = recPri x.dw ∧ y.needs = [] ∧
                (x.det = false → y.cluster = cls.getD ((first + n) % cls.length) 0) ∧
                (x.det = true → tget (t.launch l).units 0 n = us.getD (n % us.length) 0 ∧ y.cluster = us.getD (n % us.length) 0 / 16) ∧
                ⟨recPri x.dw, .team (s.nextTeam + n), 0⟩ ∈ (t.cluster y.cluster).furrow)) ∧
  (∀ s : State, nextLaunchOf s = none → exec .launchAdmit s = .next s) ∧
  ∀ (s : State) (k : Nat),
    let f := (s.cluster k).furrow
    let due (e : FEntry) : Bool := 64 ≤ e.age && e.level < 3
    ∃ t, exec (.furrowAgeing k) s = .next t ∧
      t = s.setCluster k { s.cluster k with
        furrow := f.filter (fun e => !due e) ++ (f.filter due).map fun e => ⟨e.level + 1, e.task, 0⟩ }) ∧
  (∀ (s : State) (l : Nat),
    let x := s.launch l
    let u := endSteps l 4 s
    s.noMem = none → x.doneOwed = false →
      ((x.ended = true ∨ x.waitPage ≠ none ∨ launchOver s l = false) → exec (.launchEnd l) s = .next s) ∧
      (x.ended = false → x.waitPage = none → launchOver s l = true → u.noMem = none →
        ((u.launch l).endStage < 4 → exec (.launchEnd l) s = .next u) ∧
        (4 ≤ (u.launch l).endStage →
          ∃ t, exec (.launchEnd l) s = .next t ∧ (t.launch l).ended = true ∧ (t.launch l).reserved = [] ∧
            (t.launch l).gangWait = false ∧ (∀ e ∈ t.launchQ, e.2.1 ≠ l) ∧ t.hbm = u.hbm ∧ t.l2 = u.l2 ∧ t.decs = u.decs ∧
            t.outbox = u.outbox)) ∧
      -- the digest and the code of the completion record
      (x.det = false ∨ x.killed = true ∨ x.refused = true → ((endDigest s l).1.launch l).digest = 0) ∧
      (let v := (s.cores.map Prod.fst).foldl l1WriteAll s
      x.det = true → x.killed = false → x.refused = false → x.aborted = false → ∀ w,
        (∀ bs, coreDigests v x (List.range x.lcn) = (w, .ok bs) →
          ((endDigest s l).1.launch l).digest = BitVec.ofNat 64 (crc64 bs) ∧ ((endDigest s l).1.launch l).endStage = 1) ∧
        (∀ a why, coreDigests v x (List.range x.lcn) = (w, .error (.bad a why)) → ((endDigest s l).1.launch l).digest = 0)) ∧
      (∀ (k : Nat) (ls : List Nat) (v w : State) (bs ds : List Nat),
        rangeBytes s x.ctx x.badPages (x.outs.filter fun o => o.2.1 == k) = (v, .ok bs) → coreDigests v x ls = (w, .ok ds) →
          coreDigests s x (k :: ls) = (w, .ok ((List.range 8).map (fun i => crc64 bs / 256 ^ i % 256) ++ ds))) ∧
      (∀ (base k enc len : Nat) (rs : List (Nat × Nat × Nat × Nat)) (v w : State) (bs ds : List Nat),
        cpBytes s x.ctx base x.badPages len = (v, .ok bs) → rangeBytes v x.ctx x.badPages rs = (w, .ok ds) →
          rangeBytes s x.ctx x.badPages ((base, k, enc, len) :: rs) = (w, .ok (canonBytes enc len bs ++ ds))) ∧
      (∀ n bs, canonBytes 0 n bs = bs) ∧ (∀ (b : Nat) (bs : List Nat) (n : Nat), canonBytes 1 (n + 1) (b :: bs) =
        (if Log.decode .l8 b = .nan then Log.encode .l8 .nan % 256 else b % 256) :: canonBytes 1 n bs) ∧
      -- the CRC of ECMA-182, most significant bit first
      crc64 [] = 0 ∧ crc64 ("123456789".toList.map (·.toNat)) = 0x6C40DF5F0B497347 ∧
      (∀ bs b, crc64 (bs ++ [b]) = (List.range 8).foldl (fun c _ =>
        if c / 2 ^ 63 % 2 = 1 then (c * 2 % 2 ^ 64) ^^^ 0x42F0E1EBA9EA3693 else c * 2 % 2 ^ 64) (crc64 bs ^^^ (b % 256 * 2 ^ 56))) ∧
      cstOf x = (if x.killed then 3 else if x.refused then 4 else if x.faulted ∨ x.aborted then 2 else 1) ∧
      -- the completion record, word 0 last
      (∀ v p, cpReach s x.ctx (recCrec x.dw) 64 false true x.badPages = (v, .ok p) →
        let put (t : State) (o n k : Nat) : State := cpStore t x.ctx { p with pa := p.pa + o } n k
        let w := put (put v 8 8 x.digest.toNat) 16 8 (x.lack % 2 ^ 32 * 2 ^ 32)
        let w := put (put (put (put (put w 24 8 0) 32 8 0) 40 8 0) 48 8 0) 56 8 0
        let w := cpStore (put w 4 4 (x.nret % 2 ^ 20)) x.ctx p 4 (cstOf x * 2 ^ 28 + min x.nflt 65535)
        (endRecord s l).2 = true ∧ (endRecord s l).1.hbm = w.hbm ∧ (endRecord s l).1.l2 = (if p.pr ∨ p.hb then w.l2 else (setPromo w (p.pa / 256) none).l2) ∧
          ((endRecord s l).1.launch l).endStage = 2) ∧
      -- ST of the task record
      (∀ v p, cpReach s x.ctx x.rec_ 64 false true x.badPages = (v, .ok p) →
        let st := if x.killed then 6 else if x.refused then 7 else if x.faulted ∨ x.aborted then 5 else 4
        let w := cpStore v x.ctx { p with pa := p.pa + 63 } 1 (st * 16 + fld (dwOf x.dw 7) 56 4)
        (endState s l).2 = true ∧ (endState s l).1.hbm = w.hbm ∧ (endState s l).1.l2 = w.l2 ∧ (endState s l).1.outbox = w.outbox ∧
          ((endState s l).1.launch l).st = st ∧ ((endState s l).1.launch l).endStage = 3) ∧
      -- each successor is decremented by 1, in list order
      (∀ h n v recs, x.killed = false → x.refused = false → fld (dwOf x.dw 4) 0 57 ≠ 0 →
        cpRead s x.ctx (fld (dwOf x.dw 4) 0 57) 8 x.badPages = (h, .ok n) → n < 2 ^ 8 →
        readSucc h x.ctx (fld (dwOf x.dw 4) 0 57 + 8) x.badPages n = (v, .ok (recs, none)) →
          (endSucc s l).2 = true ∧ ((endSucc s l).1.launch l).endStage = 4 ∧
          (endSucc s l).1.decs = v.decs ++ recs.map fun a => { ctx := x.ctx, rec_ := a, n := 1, src := some l }))

/-- 12 R319, R321, 04 R95 to R97, 01 R20: the head team task of a cluster is placed on the unit it fits: it is resident there with
its slots, its window's frame zeroed, and new groups at the program's entry with every lane active; it stays while no unit fits
it. 12 R322: a launch with GANG = 1 is placed whole. 01 R25, 12 R317: a team without groups retires, and is counted; a producer
team that has finished sets its DONE bit, and each consumer team that waits for it is counted down. -/
def Obligations.TeamsArePlacedAndRetire : Prop :=
  (∀ (s : State) (k tm : Nat) (e : FEntry), s.noMem = none →
    let x := s.launch (s.team tm).launch
    let h := shapeOf x.dw
    (gangHolds s k = true → exec (.teamPlace k) s = .next s) ∧
    (gangHolds s k = false → (s.cluster k).furrow.filter (teamTask s) = [e] → e.level ≤ 3 → e.task = .team tm →
      (unitFor s tm = none → exec (.teamPlace k) s = .next s) ∧
      ∀ u, unitFor s tm = some u → fld (dwOf x.dw 6) 57 7 = 0 →
        ∃ t, exec (.teamPlace k) s = .next t ∧
          let y := t.team tm
          y.st = .resident ∧ y.core = u ∧ y.cluster = u / 16 ∧ y.pair = h.pair ∧ y.size = h.size ∧ y.slots.length = h.n ∧
          some y.frame = findFrame (roomOf s u h.pair).wins h.size ∧ y.reserved = true ∧ y.meter = 0 ∧
          (∀ o, y.frame ≤ o → o < y.frame + h.size → mget (t.core u).store o = 0) ∧
          (∀ j, j < h.n → t.grp ((teamGroups y).getD j 0) =
            freshGroup h tm j (y.slots.getD j 0) (fld (dwOf x.dw 1) 0 57) x.rec_) ∧
          e ∉ (t.cluster k).furrow)) ∧
  (∀ (s : State) (l : Nat) (x : Launch), s.noMem = none → (s.teams.map Prod.fst).Nodup →
    (gangs s = [] → exec .gangPlace s = .next s) ∧
    (gangs s = [(l, x)] →
      let mine := s.teams.filter fun p => p.2.launch == l
      (((∃ p ∈ mine, p.2.st ≠ .queued) ∨ gangPlan s l x = none) → exec .gangPlace s = .next s) ∧
      ∀ p ps, (∀ q ∈ mine, q.2.st = .queued) → gangPlan s l x = some (p :: ps) → s.launch l = x → fld (dwOf x.dw 6) 57 7 = 0 →
        ∃ t, exec .gangPlace s = .next t ∧ (t.launch l).gangWait = false ∧
          ∀ q ∈ p :: ps, (t.team q.1).st = .resident ∧ (t.team q.1).core = q.2 ∧ (t.team q.1).reserved = true)) ∧
  (∀ (s : State) (n : Nat),
    let t := s.team n
    let l := t.launch
    let groups := (teamGroups t).filter fun g => (s.grp g).st != .free && (s.grp g).team == n
    let w := if (s.launch l).aborted then retiredTeam s n else writeDone (retiredTeam s n) l
    (t.st = .resident → groups = [] → w.noMem = none →
      ∃ u, exec (.teamRetire n) s = .next u ∧ (u.team n).st = .retired ∧ (u.team n).reserved = false ∧
        (u.launch l).nret = (s.launch l).nret + (if (s.launch l).aborted then 0 else 1) ∧
        .event (.launchEnd l) ∈ u.agenda ∧ .event (.producerTeamFinish n) ∈ u.agenda) ∧
    (t.st = .resident → groups ≠ [] → t.windowHeld = false → exec (.teamRetire n) s = .next s) ∧
    (t.st ≠ .resident → t.windowHeld = true → teamLocal s n = false → s.noMem = none →
      ∃ u, exec (.teamRetire n) s = .next u ∧ u.team n = { t with windowHeld := false })) ∧
  ∀ (s : State) (n : Nat),
    let t := s.team n
    let x := s.launch t.launch
    let link := recLink x.dw
    (t.st ≠ .retired ∨ t.finished = true ∨ t.cmdsOut ≠ 0 ∨ t.peerOut ≠ 0 ∨ recRole x.dw ≠ 1 ∨ x.killed = true →
      exec (.producerTeamFinish n) s = .next s) ∧
    ∀ u p, t.st = .retired → t.finished = false → t.cmdsOut = 0 → t.peerOut = 0 → recRole x.dw = 1 → x.killed = false →
      (s.teams.map Prod.fst).Nodup → cpReach s t.ctx (link + 64 + t.number / 8) 1 true true x.badPages = (u, .ok p) →
      let v := cpLoad u t.ctx p 1
      let w := cpStore v.1 t.ctx p 1 (v.2 ||| 2 ^ (t.number % 8))
      w.noMem = none →
        ∃ z, exec (.producerTeamFinish n) s = .next z ∧ (z.team n).finished = true ∧ z.hbm = w.hbm ∧ z.l2 = w.l2 ∧
          z.outbox = w.outbox ∧
          ∀ m,
            let c := s.team m
            let y := s.launch c.launch
            let hit := c.st = .waiting ∧ c.ctx = t.ctx ∧ recLink y.dw = link ∧ recRole y.dw = 2 ∧ t.number ∈ c.needs
            let left := c.needs.filter (· != t.number)
            (hit → z.team m = { c with needs := left, st := if left = [] then .queued else .waiting }) ∧
            (¬ hit → m ≠ n → z.team m = c)


/-! ### Events of contexts (13 R346, R351, R364 to R367, 16 R406) -/

/-- 16 R406, 01 R28: a write of EN = 1 creates a bound context with its counters and queues at their reset values; EN = 0 kills it
and deletes it. 13 R364, 01 R28: CCTL kill empties the slots of every group of the context, kills its launches, takes its
leases away, closes its open faults (13 R347) and leaves STATE 0. 13 R364, R365, 15 R397: a pre-emption sets STATE 1, takes the
leases back with their counts kept, and every group that has not exited is to stop at its next pre-emption point; there it is
saved when nothing of it is outstanding, while others are not. 13 R366, R367, 01 R22, 15 R389: a restore sets STATE 3 and waits
for room; a team that finds a unit is resident there and has its reservation unless all its groups wait at wide barriers, and
when all are placed STATE is 0. That commands for a context which was never created are ignored and what a kill leaves of host
arrivals are the model's readings (log entry 38), as are the numbers a saved team stands on, `savedCore` (log entry 12), and the
masked vectors (log entry 65). -/
def Obligations.ContextsSwitched : Prop :=
  (∀ (s : State) (c : Nat),
    let x := s.ctx c
    let killed (t : State) : Prop :=
      (t.ctx c).state = 0 ∧ (∀ g ∈ ctxGroups s c, t.grp g = {}) ∧
      (∀ k, ∀ y ∈ (t.cluster k).leases, y.ctx ≠ c) ∧
      (∀ e ∈ s.launches, e.2.ctx = c → e.2.ended = false → (t.launch e.1).killed = true ∧ .event (.launchEnd e.1) ∈ t.agenda) ∧
      (∀ k, ∀ d ∈ (t.core k).cmds, d.ctx ≠ c) ∧
      (∀ f ∈ t.faults, f.ctx ≠ c) ∧ (∀ f ∈ t.faultWait, f.ctx ≠ c) ∧
      (∀ r ∈ t.decs, r.ctx = c → r.host = true ∧ r.stale = true ∧ r.wait = none) ∧
      ∀ l, (s.launch l).ctx ≠ c → (∀ e ∈ s.launches, e.1 = l → e.2.ctx ≠ c) → t.launch l = s.launch l
    (x.en = false → exec (.cctlKill c) s = .next s ∧ exec (.ctxcfgDelete c) s = .next s) ∧
    (x.en = true →
      (∃ t, exec (.cctlKill c) s = .next t ∧ killed t ∧ (t.ctx c).en = true ∧ Raised s t x.fn 2) ∧
      ∃ t, exec (.ctxcfgDelete c) s = .next t ∧ killed t ∧ (t.ctx c).en = false) ∧
    ∀ v,
      ((x.en = true ∨ x.bound = false) → exec (.ctxcfgCreate c v) s = .next s) ∧
      (x.en = false → x.bound = true →
        exec (.ctxcfgCreate c v) s = .next (s.setCtx c { x with
          en := true, bar := v.getLsbD 1, gctrs := [], mastat := 0, fqtail := 0, eqtail := 0, fqlost := 0, eqlost := 0,
          fqseq := 1, eqseq := 1, state := 0, lfill := 0, lwback := 0, lsaved := 0, lastCluster := none, batchpol := x.polHost }))) ∧
  ((∀ (s : State) (c : Nat),
    let x := s.ctx c
    ((x.en = false ∨ 1 < x.state) → exec (.cctlPreempt c) s = .next s) ∧
    (x.en = true → x.state = 0 → s.noMem = none →
      (∃ tm ∈ ctxTeams s c, ∃ g ∈ liveGroups s tm, (s.grp g).st ≠ .saved ∧ (s.grp g).st ≠ .exited) →
        ∃ t, exec (.cctlPreempt c) s = .next t ∧ (t.ctx c).state = 1 ∧
          (∀ k, k < 22 → leaseOf t k c = none ∧ (∀ y, leaseOf s k c = some y → (k, y.left) ∈ (t.ctx c).savedLeases)) ∧
          (∀ tm ∈ ctxTeams s c, (t.team tm).migrate = false ∧ (t.team tm).target = none ∧
            ∀ g ∈ liveGroups s tm, t.grp g = { s.grp g with stopReq := true } ∧
              .event (.groupSave (g / 32) (g % 32)) ∈ t.agenda))) ∧
  (∀ (s : State) (core slot : Nat),
    let g := core * 32 + slot
    let x := s.grp g
    let c := s.ctxOf g
    let due := x.st = .eligible ∨ x.st = .held ∨ x.st = .parked
    -- no context is at rest: each that is being saved has a group that is neither saved nor exited
    (((s.ctx c).state ≠ 1 ∨ ¬ due ∨ groupQuiet s g = false) → s.noMem = none →
      (∀ e ∈ s.ctxs, e.2.state = 1 → ∃ tm ∈ ctxTeams s e.1, ∃ h ∈ liveGroups s tm, (s.grp h).st ≠ .saved ∧ (s.grp h).st ≠ .exited) →
        exec (.groupSave core slot) s = .next s) ∧
    ((s.ctx c).state = 1 → due → groupQuiet s g = true → s.noMem = none → (∀ m ∈ s.monitors, m.core * 32 + m.slot ≠ g) →
      (∃ tm ∈ ctxTeams s c, ∃ h ∈ liveGroups s tm, h ≠ g ∧ (s.grp h).st ≠ .saved ∧ (s.grp h).st ≠ .exited) →
        ∃ t, exec (.groupSave core slot) s = .next t ∧ (t.grp g).st = .saved ∧ (t.grp g).was = x.st ∧
          (t.grp g).pc = x.pc ∧ (t.grp g).sregs = x.sregs ∧ (t.grp g).preds = x.preds ∧ (t.grp g).stack = x.stack ∧
          (t.grp g).em = x.em ∧ (t.grp g).live = x.live ∧ (t.grp g).inflight = [] ∧
          (t.grp g).retc = x.retc + BitVec.ofNat 64 x.inflight.length ∧ ∀ h, h ≠ g → t.grp h = s.grp h)) ∧
  ∀ (s : State) (c : Nat),
    let x := s.ctx c
    let u := s.setCtx c { x with state := 3 }
    let away (t : State) : List (Nat × Team) := t.teams.filter fun e => e.2.ctx == c && savedCore 0 ≤ e.2.core
    (x.state ≠ 2 → x.state ≠ 3 → exec (.cctlRestore c) s = .next s) ∧
    ((x.state = 3 ∨ (x.state = 2 ∧ partsOk s c = true)) → s.noMem = none →
      (away s ≠ [] → (∀ e ∈ away s, restoreUnit u e.1 = none) → exec (.cctlRestore c) s = .next u) ∧
      (away s = [] → ctxTeams s c = [] → (∀ k ∈ s.cores, ∀ d ∈ k.2.cmds, d.ctx ≠ c) →
        (∀ e ∈ s.launches, e.2.ctx = c → e.2.ended = true) →
        ∃ t, exec (.cctlRestore c) s = .next t ∧ (t.ctx c).state = 0 ∧ (t.ctx c).savedLeases = [] ∧ Raised s t x.fn 2 ∧
          t.cores = s.cores ∧ t.teams = s.teams)) ∧
    ∀ tm n d, restoreUnit s tm = some n → destOn s tm n = some d →
      ((restoreTeam s tm).team tm).core = n ∧ ((restoreTeam s tm).team tm).cluster = n / 16 ∧
      ((restoreTeam s tm).team tm).frame = d.frame ∧ ((restoreTeam s tm).team tm).slots = d.slots ∧
      ((s.team tm).st = .saved → ((restoreTeam s tm).team tm).st = .resident ∧
        -- no slot but its own holds a group of the team
        ((∀ h, (s.grp h).st ≠ .free → (s.grp h).team = tm → h ∈ teamGroups (s.team tm)) →
          ((restoreTeam s tm).team tm).reserved = hasWork s tm)))

/-- 13 R346, 16 R406: a write of SHOOT queues its request, or is dropped and noted at 16; the oldest at once empties the
translations of its pages and makes the limits of the registers that overlap them 0; when every store of the context to a peer
is acknowledged it is complete, with no dirty byte left in an L1, and the next begins. 16 R402, R406: a read of SHOOT clears DONE
and DROP; a function that does not hold the context reads zero and clears nothing. 13 R351: FRESOLVE closes the entry of a record
and wakes the group whose last page it was, which then has no open page, or one page declared unresolvable. That the clauses of
the whole context are dropped from the clause caches, that a request completes when its kernels have no item outstanding, and
that every L1 is written back then, are the model's readings (log entry 39). -/
def Obligations.ShootDownsAndResolutions : Prop :=
  (∀ (s : State) (c : Nat) (v : DWord),
    let x := s.ctx c
    let first := (v.toNat / 2 ^ 16) % 2 ^ 41
    let n := v.toNat % 2 ^ 16 + 1
    (s.dev.recovery = true → exec (.shoot c v) s = .next s) ∧
    (s.dev.recovery = false → 16 ≤ x.shoots.length → exec (.shoot c v) s = .next (s.setCtx c { x with shootDrop := true })) ∧
    (s.dev.recovery = false → x.shoots.length < 16 →
      ∃ t, exec (.shoot c v) s = .next t ∧ t.ctx c = { x with shoots := x.shoots ++ [v] } ∧
        .event (.shootdownComplete c) ∈ t.agenda ∧
        (x.shoots = [] →
          (∀ k, ∀ e ∈ (t.core k).tlb, e.ctx = c → e.page < first ∨ first + n ≤ e.page) ∧
          (∀ k, ∀ e ∈ (t.core k).ccache, e.1 ≠ c) ∧
          ∀ g m, (s.grp g).st ≠ .free → s.ctxOf g = c →
            let r := tget (s.grp g).tregs {} m
            tget (t.grp g).tregs {} m =
              (if m ≠ 0 ∧ r.vbase < (first + n) * 65536 ∧ first * 65536 < r.vbase + r.limit then { r with limit := 0 } else r)) ∧
        (x.shoots ≠ [] → t.cores = s.cores))) ∧
  (∀ (s : State) (c : Nat),
    let x := s.ctx c
    let quiet := ∀ e ∈ s.launches, e.2.ctx = c → e.2.peerOut = 0
    ((x.shoots = [] ∨ ¬ quiet) → exec (.shootdownComplete c) s = .next s) ∧
    (∀ v r, x.shoots = v :: r → quiet → s.noMem = none →
      ∃ t, exec (.shootdownComplete c) s = .next t ∧ (t.ctx c).shoots = r ∧ (t.ctx c).shootDone = true ∧
        Raised s t x.fn 2 ∧ (∀ k, k < 352 → ∀ y ∈ (t.core k).l1, y.dirty = 0) ∧
        (r ≠ [] → .event (.shootdownComplete c) ∈ t.agenda)) ∧
    ∀ fn,
      (s.dev.recovery = false → holdsCtx s fn c = true →
        exec (.shootRead (fn, c)) s = .next { s.setCtx c { x with shootDone := false, shootDrop := false } with
          hostReply := BitVec.ofNat 64 (x.shoots.length + (if x.shootDone then 256 else 0) + if x.shootDrop then 512 else 0) }) ∧
      ((s.dev.recovery = true ∨ holdsCtx s fn c = false) → exec (.shootRead (fn, c)) s = .next { s with hostReply := 0 })) ∧
  ∀ (s : State) (c q : Nat) (bad : Bool),
    let i : Instr := if bad then .fresolveUnresolvable c q else .fresolveResolved c q
    s.noMem = none →
    (s.dev.recovery = true → exec i s = .next s) ∧
    ((∀ f ∈ s.faults, f.ctx ≠ c ∨ f.seq ≠ q) → exec i s = .next s) ∧
    ∀ f core slot r, s.dev.recovery = false → s.faults.find? (fun f => f.ctx == c && f.seq == q) = some f →
      f.waiters = [.group core slot] → (s.grp (core * 32 + slot)).park = some r → r.cause = .pages c [f.page] →
        ∃ t r', exec i s = .next t ∧ t.faults = s.faults.erase f ∧ (t.grp (core * 32 + slot)).park = some r' ∧
          r'.cause = .pages c [] ∧ r'.woken = true ∧ r'.pc = r.pc ∧
          r'.badPages = (if bad then f.page :: r.badPages else r.badPages) ∧
          (∀ h, h ≠ core * 32 + slot → t.grp h = s.grp h) ∧ .event .pageFaultReport ∈ t.agenda


/-! ### The host's windows and bring-up (12 R314, 16 R402 to R423) -/

/-- 12 R314, 16 R402 to R407, R415: ARRIVE adds a decrement by DEC + 1 for the record at its address, or writes a fault record of
kind 4 when a reserved bit is set; MSGIN pushes an entry into the q15 of the slot MSGTGT names, or is refused; an outgoing entry
of a q15 becomes an event record; a grid-barrier counter without waiters is written; FQLOST and EQLOST are cleared; reading a
queue's tail arms its vector again; a function reads zero of what it does not hold; the memory window reads and writes through
the page tables of a context bound to its function, and a page of a peer that cannot be reached has its record (R410). The model's
own: an ARRIVE of a context that was never created is ignored (log entries 38 and 41), MSGIN is refused while entries are owed to
the queue (log entry 57), and the table and pending bits of BAR 4 stand from offset 0x800000 (log entry 65). -/
def Obligations.HostWindows : Prop :=
  (∀ (s : State) (c : Nat) (v : DWord),
    let x := s.ctx c
    ((s.dev.recovery = true ∨ x.en = false) → exec (.arrive c v) s = .next s) ∧
    (s.dev.recovery = false → x.en = true → v.toNat % 64 = 0 →
      ∃ t, exec (.arrive c v) s = .next t ∧ (t.ctx c).arrivals = x.arrivals + 1 ∧ .event .taskDecrement ∈ t.agenda ∧
        t.decs = s.decs ++ [{ ctx := c, rec_ := v.toNat % 2 ^ 57, n := v.toNat / 2 ^ 57 + 1, host := true }]) ∧
    (s.dev.recovery = false → x.en = true → v.toNat % 64 ≠ 0 →
      let t := faultRecord s c { kind := 4, addr := v.toNat % 2 ^ 57, eng := true }
      t.noMem = none → exec (.arrive c v) s = .next t ∧ t.decs = s.decs ∧ (t.ctx c).arrivals = x.arrivals ∧
        (t.ctx c).fqlost = (if fqFull x then (x.fqlost + 1) % 2 ^ 32 else x.fqlost) ∧
        (t.ctx c).fqtail = if fqFull x then x.fqtail else (x.fqtail + 1) % 2 ^ (x.fqsize + 6))) ∧
  (∀ (s : State) (c : Nat), s.dev.recovery = false →
    let x := s.ctx c
    let e : QEntry := [x.msgd0.setWidth 32, (x.msgd0 >>> 32).setWidth 32, x.msgd1.setWidth 32, (x.msgd1 >>> 32).setWidth 32]
    let no (b : Bool) (t : State) : State := t.setCtx c { t.ctx c with msgRefused := b }
    (msgGroup s c = none → exec (.msgin c) s = .next (no true s)) ∧
    ∀ g, msgGroup s c = some g →
      let q := (s.grp g).q
      ((4 ≤ q.q15in.length ∨ q.owed ≠ []) → exec (.msgin c) s = .next (no true s)) ∧
      (q.q15in.length < 4 → q.owed = [] →
        exec (.msgin c) s = .next (no false (s.setGrp g { s.grp g with q := { q with q15in := q.q15in ++ [e] } })))) ∧
  (∀ (s : State) (core slot : Nat),
    let g := core * 32 + slot
    let x := s.grp g
    (x.q.q15out = [] → exec (.q15Outgoing core slot) s = .next s) ∧
    ∀ e r, x.q.q15out = e :: r →
      let u := s.setGrp g { x with q := { x.q with q15out := r } }
      let p (i : Nat) : Nat := (e.getD i 0).toNat
      let t := (eventRecord u (s.ctxOf g) 0x11 (core / 16) (p 0) (p 1) (p 2) (p 3) 0).1
      t.noMem = none → exec (.q15Outgoing core slot) s = .next t ∧ (t.grp g).q.q15out = r) ∧
  (∀ (s : State) (c k : Nat) (v : DWord), s.dev.recovery = false →
    let q := tget (s.ctx c).gctrs {} k
    ((q.waiters ≠ [] ∨ q.refused ≠ []) → exec (.gbarCounterWrite c k v) s = .next s) ∧
    (q.waiters = [] → q.refused = [] →
      ∃ t, exec (.gbarCounterWrite c k v) s = .next t ∧ tget (t.ctx c).gctrs {} k = { q with
        ph := v.extractLsb' 48 16, exp := v.toNat / 2 ^ 24 % 2 ^ 24, arr := v.toNat % 2 ^ 24, obs := 0 })) ∧
  (∀ (s : State) (c fn : Nat) (events : Bool), s.dev.recovery = false →
    let x := s.ctx c
    exec (.lostCountClear c events) s =
      .next (s.setCtx c (if events then { x with eqlost := 0 } else { x with fqlost := 0 })) ∧
    (holdsCtx s fn c = false → exec (.queueTailRead fn c events) s = .next { s with hostReply := 0 }) ∧
    (holdsCtx s fn c = true → exec (.queueTailRead fn c events) s = .next
      { s.setCtx c (if events then { x with eqPend := false } else { x with fqPend := false }) with
        hostReply := BitVec.ofNat 64 (if events then x.eqtail else x.fqtail) })) ∧
  -- what a function reads: zero of what it does not hold, of no table's offsets, and, but for the provisioning, in recovery
  (∀ (s : State) (fn c off : Nat), fn < 32 → c < 64 → off < 0x1000 →
    let x := s.ctx c
    ((holdsCtx s fn c = false ∨ s.dev.recovery = true) → windowRead s fn (ctxOff c off) = 0) ∧
    (s.dev.recovery = true → windowRead s fn off = 0) ∧
    (fn ≠ 0 → windowRead s fn (0x100000 + off) = 0) ∧ windowRead s 0 0x103010 = BitVec.ofNat 64 s.dev.provst ∧
    (s.dev.recovery = false → holdsCtx s fn c = true →
      windowRead s fn (ctxOff c 0x008) = BitVec.ofNat 64 ((if x.en then 1 else 0) + 2 * if x.bar then 1 else 0) ∧
      windowRead s fn (ctxOff c 0x010) = BitVec.ofNat 64 x.state ∧
      windowRead s fn (ctxOff c 0x0B8) = BitVec.ofNat 64 (if x.msgRefused then 1 else 0) ∧
      (0xC8 ≤ off → off < 0x400 → windowRead s fn (ctxOff c off) = 0)) ∧
    -- the vectors of the function and its pending bits (R405)
    (s.dev.recovery = false →
      (∀ k, k < 4 → windowRead s fn (0x800000 + 16 * k) = tget (s.fn fn).vaddr 0 k ∧
        windowRead s fn (0x800008 + 16 * k) =
          BitVec.ofNat 64 ((tget (s.fn fn).vdata 0 k).toNat + if (s.fn fn).vmask.getLsbD k then 2 ^ 32 else 0)) ∧
      windowRead s fn 0x800800 = (s.fn fn).pba.setWidth 64)) ∧
  ∀ (s u : State) (fn c a n : Nat) (w : Option DWord) (p : Phys),
    let bound := (s.ctx c).bound = true ∧ (s.ctx c).fn = fn
    let i : Instr := .hostMemoryWindowAccess fn c a n w
    ((s.dev.recovery = true ∨ ¬ bound) → exec i s = .next (if w.isNone then { s with hostReply := 0 } else s)) ∧
    (s.dev.recovery = false → bound → 0 < n → n ≤ 8 → a % 32 + n ≤ 32 → cpReach s c a n w.isNone w.isSome [] = (u, .ok p) →
      (w = none → (cpLoad u c p n).1.noMem = none →
        exec i s = .next { (cpLoad u c p n).1 with hostReply := BitVec.ofNat 64 (cpLoad u c p n).2 }) ∧
      ∀ v, w = some v → (cpStore u c p n (v.toNat % 2 ^ (8 * n))).noMem = none →
        exec i s = .next (cpStore u c p n (v.toNat % 2 ^ (8 * n)))) ∧
    -- a page of a peer that cannot be reached: nothing is written, and a read answers a free value
    (s.dev.recovery = false → bound → 0 < n → n ≤ 8 → a % 32 + n ≤ 32 →
      cpReach s c a n w.isNone w.isSome [] = (u, .error (.bad a 2)) →
        let t := faultRecord u c { kind := 6, code := 7, addr := a, eng := true }
        t.noMem = none →
          exec i s = .next (if w.isSome then t
            else { (freshBytes t n).1 with hostReply := BitVec.ofNat 64 (freshBytes t n).2 }))

/-- 16 R402, R405 to R407, R423: what a whole write of a control-window register does: the registers that hold their value or
part of it, those that start an operation, and those that ignore a write of a reserved value; a register the function does not
hold ignores it, as does the high half of a register of 32 bits or fewer; in recovery only the provisioning registers respond.
That a write of BIND with the present binding changes nothing, and that CTXCFG, TVEC, PTROOT, SAVEBASE and the queues of a context
take no write before it is bound, are the model's readings (log entry 41). -/
def Obligations.ControlWindowWrites : Prop :=
  (∀ (s : State) (v : DWord),
    let d := s.dev
    let w := v.toNat
    exec (.registerWrite 0 0x103000 v none) s = .next { s with dev := { d with provbase := w % 2 ^ 52 } } ∧
    exec (.registerWrite 0 0x103008 v none) s = .next { s with dev := { d with provlen := w % 2 ^ 32 } } ∧
    exec (.registerWrite 0 0x103010 v none) s = .next (s.post .provgo) ∧
    exec (.registerWrite 0 0x103008 v (some true)) s = .next s ∧ exec (.registerWrite 0 0x103010 v (some true)) s = .next s ∧
    (d.recovery = true → ∀ fn off half, (fn ≠ 0 ∨ off < 0x103000 ∨ 0x103018 ≤ off) → exec (.registerWrite fn off v half) s = .next s)) ∧
  ∀ (s : State) (fn c : Nat) (v : DWord), s.dev.recovery = false → fn < 32 → c < 64 →
    let x := s.ctx c
    let f := s.fn fn
    let w := v.toNat
    let wr (off : Nat) : Instr := .registerWrite fn (0x10000 + c * 0x1000 + off) v none
    let dv (off : Nat) : Instr := .registerWrite 0 (0x100000 + off) v none
    let posts (i j : Instr) : Prop := exec i s = .next (s.post j)
    (holdsCtx s fn c = false → ∀ off, off < 0x1000 → exec (wr off) s = .next s) ∧
    -- the registers of the function page (R405)
    (∀ p ∈ [(0x010, { f with xlctx := w % 2 ^ 6 }), (0x018, { f with xlsrc := w % 2 ^ 52 }), (0x020, { f with xllen := w % 2 ^ 32 }),
        (0x028, { f with xldst := w % 2 ^ 52 }), (0x030, { f with xldlen := w % 2 ^ 32 })],
      exec (.registerWrite fn p.1 v none) s = .next (s.modFn fn fun _ => p.2)) ∧
    (f.req = none → exec (.registerWrite fn 0x038 v none) s = .next (s.post (.xlgo fn))) ∧
    (f.req ≠ none → exec (.registerWrite fn 0x038 v none) s = .next s) ∧
    (holdsCtx s fn c = true →
      (∀ p ∈ [(0x018, { x with feretry := w % 2 ^ 16 }), (0x020, { x with monquota := w % 2 ^ 7 }),
          (0x028, { x with leaseLim := w % 2 ^ 16 }),
          (0x030, { x with detMode := if w % 4 = 3 then x.detMode else w % 4 }),
          (0x0A0, { x with msgtgt := v &&& 0x3F01FF }), (0x0A8, { x with msgd0 := v }),
          (0x0B0, { x with msgd1 := v }), (0x0C0, if w % 4 = 3 then x else { x with batchpol := w % 4, polHost := w % 4 })],
        exec (wr p.1) s = .next (s.setCtx c p.2)) ∧
      (x.bound = false → ∀ off ∈ [0x008, 0x038, 0x040, 0x048, 0x050, 0x058, 0x070, 0x078], exec (wr off) s = .next s) ∧
      (x.bound = true →
        (∀ p ∈ [(0x038, { x with tvec := w % 2 ^ 57 }),
            (0x040, { x with ptroot := w / 2 ^ 15 % 2 ^ 37 * 2 ^ 15 }), (0x048, { x with savebase := w / 2 ^ 21 % 2 ^ 31 * 2 ^ 21 }),
            (0x050, { x with fqsize := if 10 < w / 2 ^ 60 then x.fqsize else w / 2 ^ 60, fqbase := w / 2 ^ 11 % 2 ^ 41 * 2 ^ 11 }),
            (0x070, { x with eqsize := if 10 < w / 2 ^ 60 then x.eqsize else w / 2 ^ 60, eqbase := w / 2 ^ 11 % 2 ^ 41 * 2 ^ 11 }),
            (0x078, { x with eqhead := w % 2 ^ 16 })],
          exec (wr p.1) s = .next (s.setCtx c p.2)) ∧
        exec (wr 0x058) s = .next ((s.setCtx c { x with fqhead := w % 2 ^ 16 }).post .pageFaultReport) ∧
        (w % 2 = 0 → x.en = false → exec (wr 0x008) s = .next (s.setCtx c { x with bar := v.getLsbD 1 }))) ∧
      -- the high halves (R405)
      (∀ off ∈ [0x000, 0x010, 0x018, 0x068, 0x088, 0x0A0, 0x0B8, 0x0C0],
        exec (.registerWrite fn (0x10000 + c * 0x1000 + off) v (some true)) s = .next s) ∧
      posts (wr 0x000) (.arrive c v) ∧ posts (wr 0x068) (.lostCountClear c false) ∧ posts (wr 0x088) (.lostCountClear c true) ∧
      posts (wr 0x098) (.shoot c v) ∧ posts (wr 0x0B8) (.msgin c) ∧
      (w % 2 = 1 → x.en = false → x.bound = true → posts (wr 0x008) (.ctxcfgCreate c (v &&& 0xFFFFFFFF))) ∧
      (w % 2 = 0 → x.en = true → x.bound = true → posts (wr 0x008) (.ctxcfgDelete c)) ∧
      (w / 4 % 4 = 1 → x.state = 0 → posts (wr 0x010) (.cctlPreempt c)) ∧
      (w / 4 % 4 = 2 → x.state = 2 → posts (wr 0x010) (.cctlRestore c)) ∧
      (w / 4 % 4 = 3 → posts (wr 0x010) (.cctlKill c)) ∧
      ((w / 4 % 4 = 0 ∨ (w / 4 % 4 = 1 ∧ x.state ≠ 0) ∨ (w / 4 % 4 = 2 ∧ x.state ≠ 2)) → exec (wr 0x010) s = .next s) ∧
      (w / 2 % 2 ^ 31 = 0 → posts (wr 0x090) (if w % 2 = 1 then .fresolveUnresolvable c (w / 2 ^ 32) else .fresolveResolved c (w / 2 ^ 32))) ∧
      ∀ k, k < 64 → posts (wr (0x400 + 16 * k)) (.gbarCounterWrite c k v)) ∧
    (s.noMem = none →
      (∀ p ∈ [(0x0008, { s.dev with hmax := min (w / 2 ^ 12 % 32) 22, plim := min (w % 2 ^ 12) 1800 }),
          (0x0010, { s.dev with peerself := w % 16 }), (0x0018, { s.dev with peermap := v }),
          (0x2000, { s.dev with hostcap := v.getLsbD 0 })], exec (dv p.1) s = .next { s with dev := p.2 }) ∧
      (∀ k, k < 22 →
        ((∀ e ∈ s.teams, e.2.cluster = k → e.2.st ≠ .resident ∧ e.2.windowHeld = false) →
          exec (dv (0x0100 + 8 * k)) s = .next { s with dev := { s.dev with parts := tset s.dev.parts k (w % 32) } }) ∧
        ((∃ e ∈ s.teams, e.2.cluster = k ∧ (e.2.st = .resident ∨ e.2.windowHeld = true)) →
          exec (dv (0x0100 + 8 * k)) s = .next s)) ∧
      -- a function's tenant key, and its quota in units of 64 KiB
      (∃ t, exec (dv (0x0400 + 32 * fn)) s = .next t ∧
        t.fn fn = { f with tkey := (f.tkey.extractLsb' 64 64) ++ v }) ∧
      (∃ t, exec (dv (0x0408 + 32 * fn)) s = .next t ∧ t.fn fn = { f with tkey := v ++ f.tkey.extractLsb' 0 64 }) ∧
      exec (dv (0x0410 + 32 * fn)) s = .next (s.modFn fn fun _ => { f with quota := w % 2 ^ 16 }) ∧
      (∀ k, k < 22 → w % 4 ≠ 3 → exec (dv (0x0800 + 8 * k)) s = .next (s.setCluster k { s.cluster k with pol := w % 4 })) ∧
      (∀ k, k < 352 → 80 ≤ w % 256 → w % 256 ≤ 105 →
        exec (dv (0x1000 + 8 * k)) s = .next (s.setCore k { s.core k with trip := w % 256 })) ∧
      (∀ k, k < 352 → (w % 256 < 80 ∨ 105 < w % 256) → exec (dv (0x1000 + 8 * k)) s = .next s) ∧
      ((x.bound = true ∧ x.part = w / 2 ^ 8 % 32 ∧ x.fn = w % 32) → w / 2 ^ 15 % 2 = 1 → exec (dv (0x0200 + 8 * c)) s = .next s) ∧
      (x.en = false → ∃ t, exec (dv (0x0200 + 8 * c)) s = .next t ∧ (t.ctx c).bound = v.getLsbD 15 ∧
        (t.ctx c).part = w / 2 ^ 8 % 32 ∧ (t.ctx c).fn = w % 32)) ∧
    (fn ≠ 0 → ∀ off, off < 0x10000 → exec (.registerWrite fn (0x100000 + off) v none) s = .next s)

/-- 16 R405, R407, R418 to R421, R423: XLGO submits one request at a time, with the registers as they stand; its completion writes
the native section and the status, and raises vector 2; the status is 3 for a context that is not the function's, 4 without a
quota, and else 1 from the cache, 0 from a translation or 2 for a malformed form. PROVGO writes the image, which awaits a reset; a
device reset leaves the machine as after reset, with what the part fixes and its image, the reserved pair the highest one whose
members are both enabled, in recovery when the image does not verify (log entry 6), and else each component measured into its
register. GET_MEASUREMENTS answers the registers. The order in which the status is found, and when the cache answers, are the
model's reading (log entry 43), as are the memory after a device reset (log entry 42) and which register a component extends
(log entry 6). -/
def Obligations.TranslatorAndBringUp : Prop :=
  (∀ (s : State) (fn : Nat),
    let f := s.fn fn
    let q : XlReq := { ctx := f.xlctx, src := f.xlsrc, len := f.xllen, dst := f.xldst, dlen := f.xldlen }
    (s.dev.recovery = true ∨ f.req ≠ none → exec (.xlgo fn) s = .next s) ∧
    (s.dev.recovery = false → f.req = none →
      ∃ t, exec (.xlgo fn) s = .next t ∧ t.fn fn = { f with req := some q } ∧ .event (.translationComplete fn) ∈ t.agenda) ∧
    (f.req = none → exec (.translationComplete fn) s = .next s) ∧
    ∀ q : XlReq,
      let x := s.ctx q.ctx
      (f.req = some q →
        let r := translateReq s fn q
        let w := (r.2.2.zip (List.range r.2.2.length)).foldl (fun t b => homeWrite t q.ctx (q.dst + b.2) 1 b.1.toNat) r.1
        w.noMem = none →
          ∃ t, exec (.translationComplete fn) s = .next t ∧ (t.fn fn).req = none ∧ (t.fn fn).status = r.2.1 ∧
            (t.fn fn).bytes = r.2.2.length ∧ t.hbm = w.hbm ∧ t.l2 = w.l2 ∧ Raised s t fn 2) ∧
      ((x.bound = false ∨ x.fn ≠ fn) → translateReq s fn q = (s, 3, [])) ∧
      (x.bound = true → x.fn = fn → f.quota = 0 → translateReq s fn q = (s, 4, [])) ∧
      (x.bound = true → x.fn = fn → f.quota ≠ 0 →
        let b := readBytes s q.ctx q.src q.len
        let hit := b.1.xlcache.find? fun e =>
          e.key == f.tkey && e.digest == Config.sha384 b.2 && e.feat2 == (0x00000001007F007F : DWord)
        let fits (n : List Byte) (st : Nat) : Nat × List Byte := if q.dlen < n.length then (3, []) else (st, n)
        (∀ e, hit = some e → (translateReq s fn q).2 = fits e.native 1) ∧
        (hit = none → Config.translate b.2 0x00000001007F007F = none → (translateReq s fn q).2 = (2, [])) ∧
        ∀ n, hit = none → Config.translate b.2 0x00000001007F007F = some n → (translateReq s fn q).2 = fits n 0)) ∧
  ∀ (s : State) (nonce : Nat),
    let d := s.dev
    let ok := Config.rsaVerifies d.image && Config.slhVerifies d.image &&
      decide (Config.fusedMinimum ≤ Config.securityVersion d.image)
    (d.provst = 1 → exec .provgo s = .next s) ∧
    (d.provst ≠ 1 → exec .provgo s = .next ({ s with dev := { d with provst := 1 } }.post .provisioningWritten)) ∧
    (d.provst ≠ 1 → exec .provisioningWritten s = .next s) ∧
    (d.provst = 1 → exec .provisioningWritten s =
      .next { s with dev := { d with provst := 2, image := Config.hostImage d.provbase d.provlen } }) ∧
    (d.recovery = true → exec (.getMeasurements nonce) s = .next s) ∧
    (d.recovery = false → exec (.getMeasurements nonce) s =
      .next (s.send (.measurements d.measured (Config.attest d.measured nonce)))) ∧
    ∃ t, exec .deviceReset s = .next t ∧ t.outbox = s.outbox ∧ t.freeCtr = s.freeCtr ∧
      { t with dev := Device.reset, outbox := [], freeCtr := 0 } = State.reset ∧ t.dev.image = d.image ∧
      t.dev.enabled = d.enabled ∧ t.dev.bin = d.bin ∧ t.dev.rev = d.rev ∧ t.dev.recovery = !ok ∧
      (∀ j, j < 176 → d.enabled.getLsbD (2 * j) = true → d.enabled.getLsbD (2 * j + 1) = true →
        (∀ k, j < k → k < 176 → d.enabled.getLsbD (2 * k) = false ∨ d.enabled.getLsbD (2 * k + 1) = false) →
          t.dev.xlPair = 2 * j) ∧
      (ok = false → t.dev.measured = List.replicate 8 0) ∧
      (ok = true → ∀ j, j < 8 → t.dev.measured[j]? = some
        ((((Config.components d.image).zipIdx.filter fun c => c.2 % 8 == j).map Prod.fst).foldl extend 0)) ∧
      { t.dev with image := [], enabled := Device.reset.enabled, bin := Device.reset.bin, rev := Device.reset.rev,
                   xlPair := Device.reset.xlPair, recovery := false, measured := Device.reset.measured } = Device.reset


/-! ### Peers (08 R210, 09 R235, R236, R244, 16 R410, R411) -/

/-- 09 R235, R241, R244, 16 R411: what a peer asks of the homes: a read is answered with its bytes; a posted write, a compressed
line, which the L2 holds in its form, and a fill are items, acknowledged at 64; an AtomicOp and an atomic message perform their
lanes in order in one step, and each lane is answered with what the word held before it; a full/empty access is performed when
its words are in the state its form waits for, and else leaves a proxy (08 R210).
16 R411, 09 R236, 08 R210, 11 R292: an item received is counted, and 64 are acknowledged; a drain request is answered with
what is left; an acknowledgement covers the oldest items sent to its peer, each counted off its launch and its team; a command
whose acknowledgement does not come ends with FC = 7; a drain request goes to each peer that has items of the launch; a wake
message wakes the group its proxy names, or sends a command's fill again (08 R208); a port that is trained is up with its peer's
advertisement, and may go down. The model's readings (log entry 44): a read from outside promotes its line and may acquire, a
wake acts at system scope, what makes a word full and a system-scope release are told to the peer and answered by an
acknowledgement of its items so far, a reply leaves in the same step, a proxy is unlinked and moved by messages and keeps its
arrival over a wake, the fill of a command is named by slot 64 plus its entry, and context 64 stands for the outside. -/
def Obligations.PeersServed : Prop :=
  (∀ (s : State) (peer core slot pa : Nat), s.noMem = none → pa < Config.hbmBytes →
    let item (u : State) : State := countItem u peer
    (∀ n, pa + n ≤ Config.hbmBytes →
      let r := readBytes (promoteOut s pa n) 64 pa n
      exec (.peerMemoryRead peer pa n) s = .next (r.1.send (.reply peer r.2)) ∧ r.2.length = n ∧ r.1.outbox = s.outbox) ∧
    (∀ data, pa + data.length ≤ Config.hbmBytes →
      exec (.peerPostedWrite peer pa data) s = .next (item (putBytes s pa data))) ∧
    (∀ (wide : Bool) (op : PeerOp) (lane : DWord × DWord) (more : List (DWord × DWord)),
      let lanes := lane :: more
      let n := if wide then 8 else 4
      let r := homeRead (promoteOut s pa n) 64 pa n
      let low (v : DWord) : Nat := v.toNat % 2 ^ (8 * n)
      let next (v : Nat) (l : DWord × DWord) : Nat := (match op with
        | .fetchAdd => v + low l.1
        | .swap => low l.1
        | .cas => if v = low l.2 then low l.1 else v) % 2 ^ (8 * n)
      exec (.peerAtomicop peer pa wide op lane more) s =
        .next ((rawOut (homeWrite r.1 64 pa n (lanes.foldl next r.2 % 2 ^ (8 * n))) pa).send
          (.reply peer ((List.range lanes.length).flatMap fun j => bytesOfWord n ((lanes.take j).foldl next r.2))))) ∧
    (∀ code data,
      let line := pa / 256
      let v := expandLine code (valueOf data)
      let u := (List.range 8).foldl (fun a j => homeWrite a 64 (line * 256 + 32 * j) 32 (v / 2 ^ (256 * j) % 2 ^ 256)) s
      (code < 7 → exec (.peerCompressedLine peer pa code data) s = .next (item (codeLine u line code))) ∧
      (7 ≤ code → ∃ t, exec (.peerCompressedLine peer pa code data) s = .next t ∧
        tget t.recvd 0 peer = (if tget s.recvd 0 peer < 63 then tget s.recvd 0 peer + 1 else 0) ∧
        ∀ j, j < 64 → line * 256 + 4 * j ∈ t.badMem)) ∧
    -- full/empty accesses
    (∀ n fe,
      let full := wordsAre s pa n true
      -- the line is raw from then on (09 R237)
      let v := rawOut s pa
      -- one proxy for the group, at its lead word; one that was woken for this word returns to its place (08 R205)
      let listed := s.headland.any fun w => w.who == .peer peer core slot
      let old := s.proxies.filter fun p => p.1 == peer && p.2.1 == core && p.2.2.1 == slot
      let waits (i : Instr) : Prop := (listed = true → exec i s = .next s) ∧
        (listed = false → ∃ t a, exec i s = .next t ∧ t.empties = s.empties ∧ t.hbm = s.hbm ∧ t.outbox = s.outbox ∧
          (∀ b, old = [(peer, core, slot, pa / 4 * 4, b)] → a = b) ∧
          ∀ w, w ∈ t.headland ↔ w ∈ s.headland ∨ w = { obj := .mem (pa / 4 * 4), who := .peer peer core slot, fe := fe, arr := a })
      (full = false → waits (.peerFeAccess peer core slot pa (.read fe n))) ∧
      (full = true → pa + n ≤ Config.hbmBytes →
        let r := readBytes (promoteOut s pa n) 64 pa n
        let u := rawOut r.1 pa
        exec (.peerFeAccess peer core slot pa (.read fe n)) s =
          .next ((if fe = 2 then wordsSet u pa n false else u).send (.reply peer r.2))) ∧
      exec (.peerFeAccess peer core slot pa (.query n)) s =
        .next ((rawOut (promoteOut s pa n) pa).send (.reply peer [if full then 1 else 0])) ∧
      -- what makes a word full is a release, which acknowledges the peer's items so far
      exec (.peerFeAccess peer core slot pa (.setState false n)) s = .next ((wordsSet v pa n false).send (.reply peer [])) ∧
      exec (.peerFeAccess peer core slot pa (.setState true n)) s =
        .next ((ackPeer (wordsSet v pa n true) peer).send (.reply peer [])) ∧
      ∀ data : List Byte, data.length = n → pa + n ≤ Config.hbmBytes →
        ((wordsAre s pa n (fe != 3) = false → waits (.peerFeAccess peer core slot pa (.write fe data))) ∧
         (wordsAre s pa n (fe != 3) = true → exec (.peerFeAccess peer core slot pa (.write fe data)) s = .next
          (if fe = 3 then ackPeer (item (wordsSet (putBytes s pa data) pa n true)) peer
           else (putBytes (promoteOut s pa n) pa data).send (.reply peer []))))) ∧
    (∀ opc ty c (lanes : List (DWord × DWord)),
      let n := atomWidth ty
      let low (v : DWord) : Nat := v.toNat % 2 ^ (8 * n)
      let r := homeRead (promoteOut s pa n) 64 pa n
      let next (v : Nat) (l : DWord × DWord) : Nat := messageAtomic opc ty c v (low l.1) (low l.2) % 2 ^ (8 * n)
      exec (.peerFeAccess peer core slot pa (.atomic opc ty c lanes)) s =
        .next ((rawOut (homeWrite r.1 64 pa n (lanes.foldl next r.2 % 2 ^ (8 * n))) pa).send
          (.reply peer ((List.range lanes.length).flatMap fun j => bytesOfWord n ((lanes.take j).foldl next r.2))))) ∧
    -- the word of a release, and of a group that waits no more or has moved
    (let mine (w : Waiter) : Bool := w.who == .peer peer core slot
     let its (p : Nat × Nat × Nat × Nat × Nat) : Bool := p.1 == peer && p.2.1 == core && p.2.2.1 == slot
     let i (m : PeerAccess) : Instr := .peerFeAccess peer core slot pa m
     exec (i .release) s = .next (ackPeer s peer) ∧
     exec (i .unlink) s = .next { s with
       headland := s.headland.filter fun w => !mine w, proxies := s.proxies.filter fun p => !its p } ∧
     ∀ core' slot',
      (s.headland.any mine = true → exec (i (.repoint core' slot')) s = .next { s with
        headland := s.headland.map fun w => if mine w then { w with who := .peer peer core' slot' } else w }) ∧
      (s.headland.any mine = false → exec (i (.repoint core' slot')) s = .next ({ s with
        proxies := s.proxies.map fun p => if its p then (peer, core', slot', p.2.2.2) else p }.send
          (.proxyWake peer core' slot')))) ∧
    ∀ all : Bool,
      let armed := s.monitors.filter fun m => m.obj == .mem (pa / 4 * 4) && !m.fired
      let hit := if all then armed else armed.take 1
      exec (.peerFeAccess peer core slot pa (.wake all)) s =
        .next ((eachDo hit s fun s m => fireMonitor s m 3).send (.reply peer (bytesOfWord 4 hit.length)))) ∧
  ((∀ (s : State) (peer : Nat),
    let n := tget s.recvd 0 peer
    (n + 1 < 64 → tget (countItem s peer).recvd 0 peer = n + 1 ∧ (countItem s peer).outbox = s.outbox) ∧
    (64 ≤ n + 1 → tget (countItem s peer).recvd 0 peer = 0 ∧ (countItem s peer).outbox = s.outbox ++ [.ack peer (n + 1)]) ∧
    (n = 0 → exec (.peerDrainRequest peer) s = .next s) ∧
    (n ≠ 0 → ∃ t, exec (.peerDrainRequest peer) s = .next t ∧ tget t.recvd 0 peer = 0 ∧
      t.outbox = s.outbox ++ [.ack peer n] ∧ ∀ p, p ≠ peer → tget t.recvd 0 p = tget s.recvd 0 p)) ∧
  (∀ (s : State) (peer n : Nat), s.noMem = none →
    let its := (tget s.items [] peer).take n
    ∃ t, exec (.peerStoreAck peer n) s = .next t ∧ tget t.items [] peer = (tget s.items [] peer).drop n ∧
      (∀ p, p ≠ peer → tget t.items [] p = tget s.items [] p) ∧
      -- the items of launch and team 0 are the command processor's
      (∀ l, l ≠ 0 → (t.launch l).peerOut = (s.launch l).peerOut - (its.filter fun i => i.launch == l).length) ∧
      (∀ l, l ≠ 0 → (t.launch l).lack =
        (s.launch l).lack + if (its.any fun i => i.launch == l) && allRetired s l then 1 else 0) ∧
      (∀ m, m ≠ 0 → (t.team m).peerOut = (s.team m).peerOut - (its.filter fun i => i.team == m).length) ∧
      ∀ i ∈ its, i.launch ≠ 0 → .event (.launchEnd i.launch) ∈ t.agenda ∧ .event (.teamRetire i.team) ∈ t.agenda) ∧
  (∀ (s : State) (core q : Nat), s.noMem = none →
    let waits (c : Cmd) : Bool := c.q == q && c.ending && c.peerOut != 0
    ((s.core core).cmds.find? waits = none → exec (.peerAckTimeout core q) s = .next s) ∧
    ∀ c, (s.core core).cmds.find? waits = some c →
      let c' := { c with st := 4, fc := 7, peerOut := 0 }
      (c.stage ≠ 4 → (c.stage = 2 → (countEnd (savePoke s 0 0) core c').noMem = none) →
        ∃ t, exec (.peerAckTimeout core q) s = .next t ∧ c' ∈ (t.core core).cmds ∧ .event (.commandEnd core q) ∈ t.agenda) ∧
      -- the acknowledgement that does not come is that of its completion fill
      (c.stage = 4 → (s.core core).cmds = [c] → c.addr = none → (blkOf c.block).lnk = false →
        (countEnd (savePoke s 0 0) core { c' with fillPeer := none }).noMem = none →
          ∃ t, exec (.peerAckTimeout core q) s = .next t ∧ (t.core core).cmds = [])) ∧
  (∀ (s : State) (l : Nat),
    let ps := (s.items.filter fun e => e.2.any fun i => i.launch == l).map Prod.fst
    ∃ t, exec (.drainSend l) s = .next t ∧ t.outbox = s.outbox ++ ps.map (fun p => .drain p)) ∧
  (∀ (s : State) (core slot : Nat),
    -- the group whose proxy names this core and slot; it may have moved since (08 R203)
    let gs := proxyGroups s core slot
    (slot < 64 → gs = [] → exec (.peerProxyWake core slot) s = .next s) ∧
    -- or the command that waits at the peer's word with its fill, which is sent again
    (64 ≤ slot → (∀ c ∈ (s.core core).cmds, c.fillPeer ≠ none → c.entry ≠ slot - 64) →
      exec (.peerProxyWake core slot) s = .next s) ∧
    (∀ c, 64 ≤ slot → (s.core core).cmds = [c] → c.fillPeer ≠ none → c.entry = slot - 64 → (retryFill s core c).noMem = none →
      exec (.peerProxyWake core slot) s = .next (retryFill s core c)) ∧
    ∀ g r c pa fe, slot < 64 → gs = [g] → (s.grp g).park = some r → r.cause = .fePeer c pa fe →
      ∃ t, exec (.peerProxyWake core slot) s = .next t ∧
        (t.grp g).park = some { r with woken := true, counter := 0 } ∧ ∀ h, h ≠ g → t.grp h = s.grp h) ∧
  ∀ (s : State) (port : Nat) (dcap : Bool),
    (8 ≤ port → exec (.linkTraining port dcap) s = .next s ∧ exec (.portDown port) s = .next s) ∧
    (port < 8 →
      (∃ t, exec (.linkTraining port dcap) s = .next t ∧ t.dev.trained.getLsbD port = true ∧ t.dev.up.getLsbD port = true ∧
        t.dev.dcap.getLsbD port = dcap ∧ ∀ p, p ≠ port → t.dev.trained.getLsbD p = s.dev.trained.getLsbD p ∧
          t.dev.up.getLsbD p = s.dev.up.getLsbD p ∧ t.dev.dcap.getLsbD p = s.dev.dcap.getLsbD p) ∧
      ∃ t, exec (.portDown port) s = .next t ∧ t.dev.up.getLsbD port = false ∧ t.dev.trained = s.dev.trained ∧
        ∀ p, p ≠ port → t.dev.up.getLsbD p = s.dev.up.getLsbD p))


/-! ### Energy (15 R385 to R399) -/

/-- 15 R386, R388, R390, R394, R395, R398: at the start of an interval of a cluster on which no team is resident, its count rises,
its meter starts again, and so do those of the teams saved from it, which are throttled no longer; the allotment computed for it
applies, its leases go back, and it takes the rail its policy gives; a temperature sample is stored, and TRP follows TRIP with
5 degrees of hysteresis. 15 R386 to R388: the shares the package controller computes for the next interval, in which the
island's meter starts again. That a sample may be taken between interval starts is the model's reading (log entry 16). -/
def Obligations.Intervals : Prop :=
  (∀ (s : State) (k : Nat) (temps : List (Nat × Nat)), s.noMem = none → (∀ e ∈ s.teams, e.2.st ≠ .resident) →
    let x := s.cluster k
    let sampled (t : State) : Prop := ∀ j, j < 16 →
      let c := 16 * k + j
      match temps.find? fun e => e.1 == c with
      | none => (t.core c).temp = (s.core c).temp ∧ (t.core c).trp = (s.core c).trp
      | some e => (t.core c).temp = e.2 ∧ (t.core c).trp =
          (if (s.core c).trip ≤ e.2 then true else if e.2 + 5 < (s.core c).trip then false else (s.core c).trp) ∧
        (t.core c).halfDuty = ((s.core c).halfDuty && (t.core c).trp)
    (∃ t, exec (.controlIntervalStart k false temps) s = .next t ∧ sampled t ∧ t.cluster k = x) ∧
    ∃ t, exec (.controlIntervalStart k true temps) s = .next t ∧ sampled t ∧ t.cluster k = { x with
      interval := (x.interval + 1) % 2 ^ 32, allot := x.nextAllot, meter := 0, leases := [], hi := decide (x.pol = 1),
      throttled := false } ∧
      (∀ n, t.team n = if (s.team n).cluster = k ∧ (s.team n).st = .saved then
        { s.team n with meter := 0, throttled := false } else s.team n) ∧ ∀ j, j < 16 → (t.core (16 * k + j)).exempt = []) ∧
  ∀ (s : State) (leak band : Nat),
    let d := s.dev
    let busy := if d.occO = 0 then 0 else 256 * d.occH / d.occO
    let budget := max (d.plim * 500 - leak) 208000
    let m := min (120000 + 337500 * max (min band 256) busy / 256) (budget - 88000)
    let weight (k : Nat) : Nat :=
      if (∀ e ∈ s.teams, e.2.st ≠ .resident ∨ e.2.cluster ≠ k) ∧ (s.cluster k).furrow = [] then 0
      else if (s.cluster k).hi then 2 else 1
    let sum := ((List.range 22).map weight).foldl (· + ·) 0
    ∃ t, exec (.packageIntervalEnd leak band) s = .next t ∧ t.dev.mShare = m ∧ t.dev.cShare = budget - m ∧
      t.dev.pkgInterval = (d.pkgInterval + 1) % 2 ^ 32 ∧ t.dev.occO = 0 ∧ t.dev.occH = 0 ∧ t.dev.island = 0 ∧
      ∀ k, k < 22 → t.cluster k = { s.cluster k with
        nextAllot := if sum = 0 then 4000 else 4000 + (budget - m - 88000) * weight k / sum }

/-- 15 R390 to R392, R395: a team whose metered total has reached its limit is throttled, with a notice; a cluster whose
reservations have come to exceed its allotment, or do so no longer, is throttled from then on, or is not (log entry 57); a lease whose count has
reached 0 ends, with a notice to the context's teams of the cluster; a notice goes to q6 of each group of the team, also of one
that is saved already while its team is resident, with its kind, cluster and interval, the total and the allotment. 15 R392, R399:
a team that is to move goes on while no core can take it, and its core runs at half duty while it is too hot, of which every team
of the core is told; once a core can take it, it stops at its pre-emption points while its groups have work outstanding, and then
it moves there, with its window and its groups, or, where that core no longer can, to one chosen then. -/
def Obligations.ThrottlingAndMigration : Prop :=
  ((∀ (s : State) (n : Nat),
    let t := s.team n
    let k := s.cluster t.cluster
    let excess := decide (k.allot < reservedSum s t.cluster)
    let v := recheckThrottle s t.cluster
    let due := t.st = .resident ∧ t.throttled = false ∧ teamLimit s n * 4096 ≤ t.meter
    let u := notice (v.setTeam n { t with throttled := true }) n 1
    (k.throttled = excess → v = s) ∧
    (k.throttled ≠ excess → v.cluster t.cluster = { k with throttled := excess } ∧
      ∀ j, j < 16 → ((v.core (16 * t.cluster + j)).credit = none ↔ excess = false)) ∧
    (¬ due → v.noMem = none → exec (.teamThrottle n) s = .next v) ∧
    (due → u.noMem = none → exec (.teamThrottle n) s = .next u ∧ (u.team n).throttled = true)) ∧
  (∀ (s : State) (k c : Nat),
    ((∀ y, leaseOf s k c = some y → y.left ≠ 0) → exec (.leaseExpire k c) s = .next s) ∧
    ∀ y, leaseOf s k c = some y → y.left = 0 →
      let u := eachDo (teamsOn s k c) (dropLease s k c) fun t n => notice t n 3
      u.noMem = none → exec (.leaseExpire k c) s = .next u ∧ leaseOf u k c = none) ∧
  ∀ (s : State) (n kind : Nat),
    let t := s.team n
    let k := s.cluster t.cluster
    let u := notice s n kind
    -- a slot that a member has left may hold a group of another team (01 R20)
    let here (g : Nat) : Prop := (s.grp g).team = n ∧
      (resident (s.grp g) = true ∨ ((s.grp g).st = .saved ∧ t.st = .resident))
    (teamGroups t).Nodup →
      (∀ g ∈ teamGroups t, here g → (s.grp g).q.q6.length < 8 → (s.grp g).q.q6lost = false →
        (u.grp g).q.q6 = (s.grp g).q.q6 ++ [[BitVec.ofNat 32 (kind * 2 ^ 24 + t.cluster * 2 ^ 16 + k.interval % 2 ^ 16),
          BitVec.ofNat 32 (min (t.meter / 4096) (2 ^ 32 - 1)), BitVec.ofNat 32 k.allot]]) ∧
      (∀ g ∈ teamGroups t, here g → 8 ≤ (s.grp g).q.q6.length →
        (u.grp g).q.q6 = (s.grp g).q.q6 ∧ (u.grp g).q.q6lost = true) ∧
      ∀ g, (g ∉ teamGroups t ∨ ¬ here g) → u.grp g = s.grp g) ∧
  (∀ (s : State) (n : Nat),
    let t := s.team n
    let gs := liveGroups s n
    ((t.st ≠ .resident ∨ t.migrate = false ∨ (s.ctx t.ctx).state ≠ 0) → exec (.teamMigrate n) s = .next s) ∧
    (t.st = .resident → t.migrate = true → (s.ctx t.ctx).state = 0 →
      (t.target = none → migrateTarget s n = none → t.pair = false → s.noMem = none →
        let v := eachDo gs (s.setTeam n { t with stuck := true }) fun a g => a.modGrp g fun x => { x with stopReq := false }
        ((s.core t.core).trp = false →
          ∃ u, exec (.teamMigrate n) s = .next u ∧ u.team n = { t with stuck := true } ∧ (u.core t.core).halfDuty = false ∧
            ∀ g ∈ gs, u.grp g = { s.grp g with stopReq := false }) ∧
        ((s.core t.core).trp = true → (s.core t.core).halfDuty = false →
          let u := eachDo (teamsOf s t.core) (v.modCore t.core fun k => { k with halfDuty := true }) fun a m => notice a m 6
          u.noMem = none → exec (.teamMigrate n) s = .next u ∧ (u.core t.core).halfDuty = true)) ∧
      -- a core can take it, and no other team of its core is to leave in vain
      ∀ c, (t.target = some c ∨ (t.target = none ∧ migrateTarget s n = some c)) → s.noMem = none →
        (∀ k ∈ teamCores t, ∀ m ∈ teamsOf s k, m ≠ n → (s.team m).stuck = false) →
        ((∃ g ∈ gs, groupQuiet s g = false) →
          ∃ u, exec (.teamMigrate n) s = .next u ∧ u.team n = { t with target := some c, stuck := false } ∧
            (u.core t.core).halfDuty = false ∧ ∀ g ∈ gs, u.grp g = { s.grp g with stopReq := true }) ∧
        ∀ c' d, (∀ g ∈ gs, groupQuiet s g = true) →
          (if targetOk s n c = true then c' = c else migrateTarget s n = some c') → destOn s n c' = some d →
          leaseOf s t.cluster t.ctx = none →
          ∃ u, exec (.teamMigrate n) s = .next u ∧ (u.team n).core = c' ∧ (u.team n).cluster = c' / 16 ∧
            (u.team n).target = none ∧ (u.team n).stuck = false ∧ (u.core t.core).halfDuty = false ∧
            (u.team n).frame = d.frame ∧ (u.team n).slots = d.slots ∧ (u.team n).migrate = false ∧ (u.team n).st = .resident))
end

