-- ==== Sys2Proof/Laws/Memory.lean ====
section
/-! SUPPORT. Tables and sparse bytes: reading after writing, and that every operation keeps the canonical form
(log entry 3). -/

namespace Sys2Proof.Machine

/-! ### Tables -/

@[simp] theorem tget_nil {α : Type} (d : α) (k : Nat) : tget [] d k = d := rfl

@[simp] theorem tget_tset_same {α : Type} (t : Tab α) (d : α) (k : Nat) (v : α) : tget (tset t k v) d k = v := by
  induction t with
  | nil => simp [tset, tget]
  | cons e r ih =>
    obtain ⟨j, w⟩ := e
    simp only [tset]
    split
    · simp [tget]
    · split <;> simp_all [tget]

theorem tget_tset_ne {α : Type} (t : Tab α) (d : α) {k j : Nat} (v : α) (h : j ≠ k) :
    tget (tset t k v) d j = tget t d j := by
  induction t with
  | nil => simp [tset, tget, Ne.symm h]
  | cons e r ih =>
    obtain ⟨i, w⟩ := e
    simp only [tset]
    split
    · simp [tget, Ne.symm h]
    · split
      · subst_vars; simp [tget, Ne.symm h]
      · simp [tget, ih]

theorem tget_tset {α : Type} (t : Tab α) (d : α) (k j : Nat) (v : α) :
    tget (tset t k v) d j = if j = k then v else tget t d j := by
  split
  · subst_vars; simp
  · exact tget_tset_ne t d v ‹_›

/-- An entry of an updated table is the new one or was there. -/
theorem mem_tset {α : Type} {t : Tab α} {k : Nat} {v : α} {e : Nat × α} (h : e ∈ tset t k v) : e = (k, v) ∨ e ∈ t := by
  induction t with
  | nil => simpa [tset] using h
  | cons f r ih =>
    obtain ⟨j, w⟩ := f
    simp only [tset] at h
    split at h
    · simpa using h
    · split at h
      · grind
      · grind

/-- What a table answers is its default or an entry. -/
theorem tget_cases {α : Type} (t : Tab α) (d : α) (k : Nat) : tget t d k = d ∨ ∃ j, (j, tget t d k) ∈ t := by
  induction t with
  | nil => exact .inl rfl
  | cons e r ih =>
    obtain ⟨j, w⟩ := e
    simp only [tget]
    split
    · exact .inr ⟨j, by simp⟩
    · exact ih.imp id fun ⟨i, h⟩ => ⟨i, by simp [h]⟩

/-! ### The canonical form of sparse bytes -/

/-- Canonical sparse bytes: addresses strictly rise and no byte is zero. -/
theorem memWf_iff (m : Mem) : Mem.wf m = true ↔ m.Pairwise (fun a b => a.1 < b.1) ∧ ∀ e ∈ m, e.2 ≠ 0 := by
  induction m with
  | nil => simp [Mem.wf]
  | cons e r ih =>
    cases r with
    | nil => simp [Mem.wf]
    | cons f r =>
      simp only [Mem.wf, Bool.and_eq_true, decide_eq_true_eq, bne_iff_ne, ih, List.pairwise_cons, List.mem_cons,
        forall_eq_or_imp]
      constructor
      · rintro ⟨⟨h, h0⟩, ⟨hp, hq⟩, hn⟩
        exact ⟨⟨⟨h, fun a ha => Nat.lt_trans h (hp a ha)⟩, hp, hq⟩, h0, hn⟩
      · rintro ⟨⟨⟨h, -⟩, hp, hq⟩, h0, hn⟩
        exact ⟨⟨h, h0⟩, ⟨hp, hq⟩, hn⟩

theorem memWf_filter {m : Mem} (p : Nat × BitVec 8 → Bool) (h : Mem.wf m = true) : Mem.wf (m.filter p) = true := by
  rw [memWf_iff] at h ⊢
  exact ⟨h.1.filter p, fun e he => h.2 e (List.mem_filter.mp he).1⟩

theorem tset_memWf {m : Mem} (a : Nat) {b : Byte} (hb : b ≠ 0) (h : Mem.wf m = true) : Mem.wf (tset m a b) = true := by
  rw [memWf_iff] at h ⊢
  refine ⟨?_, fun e he => ?_⟩
  · obtain ⟨hp, -⟩ := h
    induction m with
    | nil => simp [tset]
    | cons e r ih =>
      obtain ⟨j, w⟩ := e
      rw [List.pairwise_cons] at hp
      simp only [tset]
      split
      · rename_i hlt
        exact List.pairwise_cons.mpr ⟨fun x hx => by
          rcases List.mem_cons.mp hx with rfl | hx
          · exact hlt
          · exact Nat.lt_trans hlt (hp.1 x hx), List.pairwise_cons.mpr hp⟩
      · split
        · subst_vars; exact List.pairwise_cons.mpr hp
        · refine List.pairwise_cons.mpr ⟨fun x hx => ?_, ih hp.2⟩
          rcases mem_tset hx with rfl | hx
          · omega
          · exact hp.1 x hx
  · rcases mem_tset he with rfl | he
    · exact hb
    · exact h.2 e he

/-- Writing a byte keeps the canonical form. -/
theorem mset_wf {m : Mem} (a : Nat) (b : Byte) (h : Mem.wf m = true) : Mem.wf (mset m a b) = true := by
  simp only [mset]
  split
  · exact memWf_filter _ h
  · exact tset_memWf a ‹_› h

/-- Writing n bytes keeps the canonical form. -/
theorem mwrite_wf {m : Mem} (a n v : Nat) (h : Mem.wf m = true) : Mem.wf (mwrite m a n v) = true := by
  induction n generalizing m a v with
  | zero => exact h
  | succ n ih => exact ih _ _ (mset_wf _ _ h)

theorem mwriteBytes_wf {m : Mem} (a : Nat) (l : List Byte) (h : Mem.wf m = true) : Mem.wf (mwriteBytes m a l) = true := by
  induction l generalizing m a with
  | nil => exact h
  | cons b r ih => exact ih _ (mset_wf _ _ h)

/-- Zeroing a range keeps the canonical form. -/
theorem mclear_wf {m : Mem} (a n : Nat) (h : Mem.wf m = true) : Mem.wf (mclear m a n) = true := memWf_filter _ h

/-- Moving a range of one memory into another keeps the canonical form. -/
theorem moveMem_wf {m k : Mem} (a b n : Nat) (h : Mem.wf m = true) (hk : Mem.wf k = true) :
    Mem.wf (moveMem m k a b n) = true := by
  rw [memWf_iff] at h hk ⊢
  have inside : ∀ x ∈ m.filterMap (fun e : Nat × BitVec 8 => if a ≤ e.1 ∧ e.1 < a + n then some (e.1 - a + b, e.2) else none),
      b ≤ x.1 ∧ x.1 < b + n ∧ x.2 ≠ 0 := by
    intro x hx
    obtain ⟨e, he, hx⟩ := List.mem_filterMap.mp hx
    split at hx
    · obtain rfl := Option.some.inj hx
      have := h.2 e he
      exact ⟨by simp, by simp; omega, this⟩
    · cases hx
  refine ⟨?_, fun e he => ?_⟩
  · unfold moveMem
    rw [List.pairwise_append, List.pairwise_append]
    refine ⟨⟨hk.1.filter _, ?_, fun x hx y hy => ?_⟩, hk.1.filter _, fun x hx y hy => ?_⟩
    · rw [List.pairwise_filterMap]
      refine h.1.imp fun {x y} hxy u hu w hw => ?_
      split at hu
      · split at hw
        · obtain rfl := Option.some.inj hu; obtain rfl := Option.some.inj hw
          simp only; omega
        · cases hw
      · cases hu
    · have := (inside y hy).1
      have := (List.mem_filter.mp hx).2
      simp only [decide_eq_true_eq] at this; omega
    · have hy := (List.mem_filter.mp hy).2
      simp only [decide_eq_true_eq] at hy
      rcases List.mem_append.mp hx with hx | hx
      · have := (List.mem_filter.mp hx).2
        simp only [decide_eq_true_eq] at this; omega
      · have := (inside x hx).2.1; omega
  · unfold moveMem at he
    rcases List.mem_append.mp he with he | he
    · rcases List.mem_append.mp he with he | he
      · exact hk.2 e (List.mem_filter.mp he).1
      · exact (inside e he).2.2
    · exact hk.2 e (List.mem_filter.mp he).1

/-! ### Rising lists -/

theorem rising_iff (l : List Nat) : rising l = true ↔ l.Pairwise (· < ·) := by
  induction l with
  | nil => simp [rising]
  | cons a r ih =>
    cases r with
    | nil => simp [rising]
    | cons b r =>
      simp only [rising, Bool.and_eq_true, decide_eq_true_eq, ih, List.pairwise_cons, List.mem_cons, forall_eq_or_imp]
      exact ⟨fun ⟨h, hb, hr⟩ => ⟨⟨h, fun c hc => Nat.lt_trans h (hb c hc)⟩, hb, hr⟩, fun ⟨⟨h, _⟩, hb, hr⟩ => ⟨h, hb, hr⟩⟩

theorem rising_filter {l : List Nat} (p : Nat → Bool) (h : rising l = true) : rising (l.filter p) = true := by
  rw [rising_iff] at h ⊢; exact h.filter p

theorem sdel_rising {l : List Nat} (k : Nat) (h : rising l = true) : rising (sdel l k) = true := rising_filter _ h

theorem mem_sins {l : List Nat} {k x : Nat} (h : x ∈ sins l k) : x = k ∨ x ∈ l := by
  induction l with
  | nil => simpa [sins] using h
  | cons j r ih =>
    simp only [sins] at h
    split at h
    · simpa using h
    · split at h
      · exact .inr h
      · rcases List.mem_cons.mp h with rfl | h
        · exact .inr (by simp)
        · exact (ih h).imp id fun h => by simp [h]

theorem sins_rising {l : List Nat} (k : Nat) (h : rising l = true) : rising (sins l k) = true := by
  rw [rising_iff] at h ⊢
  induction l with
  | nil => simp [sins]
  | cons j r ih =>
    have hr := List.pairwise_cons.mp h
    simp only [sins]
    split
    · exact List.pairwise_cons.mpr ⟨fun x hx => by
        rcases List.mem_cons.mp hx with rfl | hx
        · assumption
        · exact Nat.lt_trans ‹_› (hr.1 x hx), h⟩
    · split
      · exact h
      · refine List.pairwise_cons.mpr ⟨fun x hx => ?_, ih hr.2⟩
        rcases mem_sins hx with rfl | hx
        · omega
        · exact hr.1 x hx

theorem moveNats_rising {m k : List Nat} (a b n : Nat) (h : rising m = true) (hk : rising k = true) :
    rising (moveNats m k a b n) = true := by
  rw [rising_iff] at h hk ⊢
  have inside : ∀ x ∈ m.filterMap (fun e => if a ≤ e ∧ e < a + n then some (e - a + b) else none), b ≤ x ∧ x < b + n := by
    intro x hx
    obtain ⟨e, -, hx⟩ := List.mem_filterMap.mp hx
    split at hx
    · obtain rfl := Option.some.inj hx; omega
    · cases hx
  unfold moveNats
  rw [List.pairwise_append, List.pairwise_append]
  refine ⟨⟨hk.filter _, ?_, fun x hx y hy => ?_⟩, hk.filter _, fun x hx y hy => ?_⟩
  · rw [List.pairwise_filterMap]
    refine h.imp fun {x y} hxy u hu w hw => ?_
    split at hu
    · split at hw
      · obtain rfl := Option.some.inj hu; obtain rfl := Option.some.inj hw; omega
      · cases hw
    · cases hu
  · have := inside y hy
    have := (List.mem_filter.mp hx).2
    simp only [decide_eq_true_eq] at this; omega
  · have hy := (List.mem_filter.mp hy).2
    simp only [decide_eq_true_eq] at hy
    rcases List.mem_append.mp hx with hx | hx
    · have := (List.mem_filter.mp hx).2
      simp only [decide_eq_true_eq] at this; omega
    · have := inside x hx; omega

/-! ### Reading after writing -/

theorem tget_filter_ne {α : Type} (t : Tab α) (d : α) {k j : Nat} (h : j ≠ k) : tget (tdel t k) d j = tget t d j := by
  induction t with
  | nil => rfl
  | cons e r ih =>
    obtain ⟨i, w⟩ := e
    simp only [tdel, List.filter_cons] at ih ⊢
    by_cases hi : i = k
    · subst hi; simp [tget, Ne.symm h, ih]
    · simp [hi, tget, ih]

theorem tget_tdel_same {α : Type} (t : Tab α) (d : α) (k : Nat) : tget (tdel t k) d k = d := by
  induction t with
  | nil => rfl
  | cons e r ih =>
    obtain ⟨i, w⟩ := e
    simp only [tdel, List.filter_cons] at ih ⊢
    by_cases hi : i = k
    · simp [hi, ih]
    · simp [hi, tget, ih]

/-- One byte after one byte is written. -/
theorem mget_mset (m : Mem) (a x : Nat) (b : Byte) : mget (mset m a b) x = if x = a then b else mget m x := by
  simp only [mget, mset]
  by_cases h : x = a
  · subst h
    split
    · simp_all [tget_tdel_same]
    · simp
  · split
    · exact tget_filter_ne m 0 h
    · exact tget_tset_ne m 0 b h

/-- One byte after n bytes are written: byte x − a of the value inside, as before outside. -/
theorem mget_mwrite (m : Mem) (a n v x : Nat) :
    mget (mwrite m a n v) x = if a ≤ x ∧ x < a + n then BitVec.ofNat 8 (v / 256 ^ (x - a)) else mget m x := by
  induction n generalizing m a v with
  | zero =>
    have : ¬(a ≤ x ∧ x < a + 0) := by omega
    simp only [mwrite, this, if_false]
  | succ n ih =>
    simp only [mwrite, ih, mget_mset]
    by_cases h : x = a
    · subst h
      have h1 : ¬(x + 1 ≤ x ∧ x < x + 1 + n) := by omega
      have h2 : x ≤ x ∧ x < x + (n + 1) := by omega
      simp [h1]
    · by_cases h1 : a + 1 ≤ x ∧ x < a + 1 + n
      · have h2 : a ≤ x ∧ x < a + (n + 1) := by omega
        have h3 : x - a = (x - (a + 1)) + 1 := by omega
        simp only [h1, h2, and_self, if_true, h3, Nat.pow_succ, Nat.div_div_eq_div_mul, Nat.mul_comm]
      · have h2 : ¬(a ≤ x ∧ x < a + (n + 1)) := by omega
        simp only [h1, h2, h, if_false]

/-- Reading depends on the bytes read alone. -/
theorem mread_congr {m k : Mem} {a n : Nat} (h : ∀ x, a ≤ x → x < a + n → mget m x = mget k x) :
    mread m a n = mread k a n := by
  induction n generalizing a with
  | zero => rfl
  | succ n ih =>
    simp only [mread]
    rw [h a (Nat.le_refl _) (by omega), ih fun x h1 h2 => h x (by omega) (by omega)]

/-- A read that does not meet the bytes written. -/
theorem mread_mwrite_ne (m : Mem) (a n v b k : Nat) (h : b + k ≤ a ∨ a + n ≤ b) :
    mread (mwrite m a n v) b k = mread m b k :=
  mread_congr fun x h1 h2 => by
    rw [mget_mwrite, if_neg]; omega

/-- The bytes written read back. -/
theorem mread_mwrite (m : Mem) (a n v : Nat) : mread (mwrite m a n v) a n = v % 256 ^ n := by
  suffices ∀ (k : Mem) (a v : Nat), (∀ x, a ≤ x → x < a + n → mget k x = BitVec.ofNat 8 (v / 256 ^ (x - a))) →
      mread k a n = v % 256 ^ n from
    this _ a v fun x h1 h2 => by rw [mget_mwrite, if_pos ⟨h1, h2⟩]
  induction n with
  | zero => intro k a v _; simp [mread, Nat.mod_one]
  | succ n ih =>
    intro k a v h
    have h0 := h a (Nat.le_refl _) (by omega)
    have h1 := ih k (a + 1) (v / 256) fun x hx hy => by
      rw [h x (by omega) (by omega)]
      have : x - a = (x - (a + 1)) + 1 := by omega
      rw [this, Nat.pow_succ, Nat.div_div_eq_div_mul, Nat.mul_comm]
    have h2 : v % 256 ^ (n + 1) = v % 256 + 256 * (v / 256 % 256 ^ n) := by
      rw [Nat.pow_succ, Nat.mul_comm (256 ^ n), Nat.mod_mul]
    rw [mread, h0, h1, Nat.sub_self, Nat.pow_zero, Nat.div_one, BitVec.toNat_ofNat, h2]

end Sys2Proof.Machine
end

