-- ==== Sys2Proof/Laws/KeepsBase.lean ====
section
/-! SUPPORT. What every operation of the machine keeps: canonical memories, the enabled cores, the counter of free
values, and no access beyond device memory left standing. -/

set_option linter.unusedVariables false
namespace Sys2Proof.Machine
open State

/-- What every operation of the part keeps: canonical memories, the enabled cores, and free values never taken twice. -/
structure Keeps (s t : State) : Prop where
  mem : s.memWf = true → t.memWf = true
  enabled : t.dev.enabled = s.dev.enabled
  free : s.freeCtr ≤ t.freeCtr

/-- An operation that reaches no address beyond device memory. -/
structure Stays (s t : State) : Prop where
  keeps : Keeps s t
  noMem : t.noMem = s.noMem

theorem Keeps.refl (s : State) : Keeps s s := ⟨id, rfl, Nat.le_refl _⟩

theorem Keeps.trans {s t u : State} (a : Keeps s t) (b : Keeps t u) : Keeps s u :=
  ⟨fun h => b.mem (a.mem h), b.enabled.trans a.enabled, Nat.le_trans a.free b.free⟩

theorem Stays.refl (s : State) : Stays s s := ⟨.refl s, rfl⟩

theorem Stays.trans {s t u : State} (a : Stays s t) (b : Stays t u) : Stays s u :=
  ⟨a.keeps.trans b.keeps, b.noMem.trans a.noMem⟩

theorem memWf_core {s : State} (c : Nat) (h : s.memWf = true) : (s.core c).memWf = true := by
  simp only [State.memWf, Bool.and_eq_true, List.all_eq_true] at h
  rcases tget_cases s.cores (s.idleCore c) c with e | ⟨j, e⟩
  · unfold State.core; rw [e]; rfl
  · exact h.2 _ e

theorem setCore_stays (s : State) (c : Nat) (k : Core) (h : (s.core c).memWf = true → k.memWf = true) :
    Stays s (s.setCore c k) := by
  refine ⟨⟨fun w => ?_, rfl, Nat.le_refl _⟩, rfl⟩
  have wk := h (memWf_core c w)
  simp only [State.memWf, Bool.and_eq_true, List.all_eq_true, setCore] at w ⊢
  exact ⟨w.1, fun e he => by rcases mem_tset he with rfl | he; exact wk; exact w.2 e he⟩

theorem modCore_stays (s : State) (c : Nat) (f : Core → Core) (h : ∀ k, k.memWf = true → (f k).memWf = true) :
    Stays s (s.modCore c f) := setCore_stays s c _ (h _)

theorem setGrp_stays (s : State) (c f) : Stays s (s.setGrp c f) := modCore_stays s _ _ fun _ h => h
theorem modGrp_stays (s : State) (c f) : Stays s (s.modGrp c f) := setGrp_stays _ _ _

theorem modG_stays (s : State) (f) : Stays s (s.modG f) := setGrp_stays _ _ _

theorem modDev_stays (s : State) (f : Device → Device) (h : ∀ d, (f d).enabled = d.enabled) : Stays s (s.modDev f) :=
  ⟨⟨fun w => w, h _, Nat.le_refl _⟩, rfl⟩

/-- An update that leaves the memories, the cores, the device and the counter of free values alone. -/
theorem Stays.same {s t : State} (c : t.cores = s.cores) (h : t.hbm = s.hbm) (e : t.empties = s.empties)
    (d : t.dev.enabled = s.dev.enabled) (f : t.freeCtr = s.freeCtr) (n : t.noMem = s.noMem) : Stays s t :=
  ⟨⟨fun w => by simpa only [State.memWf, c, h, e] using w, d, Nat.le_of_eq f.symm⟩, n⟩

/-- An update that changes every core, each canonical as before. -/
theorem Stays.mapped {s t : State} (f : Nat × Core → Core) (w : ∀ e, e.2.memWf = true → (f e).memWf = true)
    (c : t.cores = s.cores.map fun e => (e.1, f e)) (h : t.hbm = s.hbm) (e : t.empties = s.empties)
    (d : t.dev.enabled = s.dev.enabled) (r : t.freeCtr = s.freeCtr) (n : t.noMem = s.noMem) : Stays s t := by
  refine ⟨⟨fun k => ?_, d, Nat.le_of_eq r.symm⟩, n⟩
  simp only [State.memWf, c, h, e, Bool.and_eq_true, List.all_eq_true, List.mem_map] at k ⊢
  refine ⟨k.1, ?_⟩
  rintro _ ⟨x, hx, rfl⟩
  exact w x (k.2 x hx)

/-- The same, as an update of the other fields. -/
theorem update_stays (s : State) (id t l c cl fn hc l2 b sm hl ar px mo ti fa fw de lq gr it re xl ou ho nt nl ag cc cs) :
    Stays s (State.mk s.cores id t l c cl fn s.dev s.hbm s.empties hc l2 b sm hl ar px mo ti fa fw de lq gr it re xl ou ho nt nl ag
      cc cs s.freeCtr s.noMem) := .same rfl rfl rfl rfl rfl rfl

theorem setTeam_stays (s : State) (c f) : Stays s (s.setTeam c f) := .same rfl rfl rfl rfl rfl rfl
theorem modTeam_stays (s : State) (c f) : Stays s (s.modTeam c f) := .same rfl rfl rfl rfl rfl rfl
theorem setLaunch_stays (s : State) (c f) : Stays s (s.setLaunch c f) := .same rfl rfl rfl rfl rfl rfl
theorem modLaunch_stays (s : State) (c f) : Stays s (s.modLaunch c f) := .same rfl rfl rfl rfl rfl rfl
theorem setCtx_stays (s : State) (c f) : Stays s (s.setCtx c f) := .same rfl rfl rfl rfl rfl rfl
theorem modCtx_stays (s : State) (c f) : Stays s (s.modCtx c f) := .same rfl rfl rfl rfl rfl rfl
theorem setCluster_stays (s : State) (c f) : Stays s (s.setCluster c f) := .same rfl rfl rfl rfl rfl rfl
theorem modCluster_stays (s : State) (c f) : Stays s (s.modCluster c f) := .same rfl rfl rfl rfl rfl rfl
theorem modFn_stays (s : State) (c f) : Stays s (s.modFn c f) := .same rfl rfl rfl rfl rfl rfl
theorem post_stays (s : State) (i) : Stays s (s.post i) := .same rfl rfl rfl rfl rfl rfl
theorem send_stays (s : State) (i) : Stays s (s.send i) := .same rfl rfl rfl rfl rfl rfl

theorem eachDo_stays {α : Type} (f : State → α → State) (l : List α) (s : State) (h : ∀ s a, Stays s (f s a)) :
    Stays s (eachDo l s f) := by
  induction l generalizing s with
  | nil => exact .refl s
  | cons a r ih => exact (h s a).trans (ih _)

theorem eachDo_keeps {α : Type} (f : State → α → State) (l : List α) (s : State) (h : ∀ s a, Keeps s (f s a)) :
    Keeps s (eachDo l s f) := by
  induction l generalizing s with
  | nil => exact .refl s
  | cons a r ih => exact (h s a).trans (ih _)

theorem freeCtr_stays (s : State) (k : Nat) : Stays s { s with freeCtr := s.freeCtr + k } :=
  ⟨⟨fun h => h, rfl, Nat.le_add_right _ _⟩, rfl⟩

/-- A fold keeps what each of its steps keeps; the state is the accumulator, a part of it, or a part of a part. -/
theorem foldl_keeps {α : Type} (f : State → α → State) (l : List α) (s : State) (h : ∀ s a, Keeps s (f s a)) :
    Keeps s (l.foldl f s) := eachDo_keeps f l s h

theorem foldl_part {α β : Type} (p : β → State) (f : β → α → β) (l : List α) (b : β)
    (h : ∀ b a, Keeps (p b) (p (f b a))) : Keeps (p b) (p (l.foldl f b)) := by
  induction l generalizing b with
  | nil => exact .refl _
  | cons a r ih => exact (h b a).trans (ih _)

theorem foldl_fst {α γ : Type} (f : State × γ → α → State × γ) (l : List α) (b : State × γ)
    (h : ∀ b a, Keeps b.1 (f b a).1) : Keeps b.1 (l.foldl f b).1 := foldl_part Prod.fst f l b h

theorem foldl_run {α : Type} (f : CRun → α → CRun) (l : List α) (b : CRun)
    (h : ∀ b a, Keeps b.s (f b a).s) : Keeps b.s (l.foldl f b).s := foldl_part CRun.s f l b h

theorem foldl_run_fst {α γ : Type} (f : CRun × γ → α → CRun × γ) (l : List α) (b : CRun × γ)
    (h : ∀ b a, Keeps b.1.s (f b a).1.s) : Keeps b.1.s (l.foldl f b).1.s := foldl_part (fun b => b.1.s) f l b h

grind_pattern foldl_keeps => l.foldl f s
grind_pattern foldl_fst => l.foldl f b
grind_pattern foldl_run => l.foldl f b
grind_pattern foldl_run_fst => l.foldl f b
grind_pattern mwrite_wf => mwrite m a n v
grind_pattern mclear_wf => mclear m a n

/-- An outcome whose next state, if it is one, keeps what every step keeps, no access beyond device memory standing. -/
def Ends (s : State) (o : Host.Outcome State Fault Refusal) : Prop :=
  ∀ t, o = .next t → Keeps s t ∧ (s.noMem = none → t.noMem = none)

theorem ends_next {s t : State} (h : Stays s t) : Ends s (.next t) :=
  fun u e => by cases e; exact ⟨h.keeps, fun k => h.noMem.trans k⟩
theorem ends_fault (s : State) (r : Fault) : Ends s (.fault r) := fun _ e => by cases e
theorem ends_refused (s : State) (r : Refusal) : Ends s (.refused r) := fun _ e => by cases e
theorem ends_done {s t : State} (h : Keeps s t) : Ends s (done t) := by
  unfold done; split
  · exact ends_fault _ _
  · intro u e; cases e; exact ⟨h, fun _ => ‹_›⟩

/-- The same for an outcome that ends by `done`: whatever stood before, nothing stands after. -/
def Finishes (s : State) (o : Host.Outcome State Fault Refusal) : Prop := ∀ t, o = .next t → Keeps s t ∧ t.noMem = none

theorem finishes_done {s t : State} (h : Keeps s t) : Finishes s (done t) := by
  unfold done; split
  · intro _ e; cases e
  · intro u e; cases e; exact ⟨h, ‹_›⟩
theorem Finishes.ends {s : State} {o : Host.Outcome State Fault Refusal} (h : Finishes s o) : Ends s o :=
  fun u e => ⟨(h u e).1, fun _ => (h u e).2⟩
theorem Keeps.finishes {s t : State} {o : Host.Outcome State Fault Refusal} (h : Keeps s t) (k : Finishes t o) :
    Finishes s o := fun u e => ⟨h.trans (k u e).1, (k u e).2⟩

theorem Stays.ends {s t : State} {o : Host.Outcome State Fault Refusal} (h : Stays s t) (k : Ends t o) : Ends s o :=
  fun u e => ⟨h.keeps.trans (k u e).1, fun n => (k u e).2 (h.noMem.trans n)⟩

theorem Keeps.ends {s t : State} {o : Host.Outcome State Fault Refusal} (h : Keeps s t)
    (n : s.noMem = none → t.noMem = none) (k : Ends t o) : Ends s o := fun u e => ⟨h.trans (k u e).1, fun z => (k u e).2 (n z)⟩

grind_pattern ends_next => Ends s (.next t)
grind_pattern ends_fault => Ends s (.fault r)
grind_pattern ends_refused => Ends s (.refused r)
grind_pattern ends_done => Ends s (done t)
grind_pattern Stays.ends => Stays s t, Ends t o
theorem State.fresh_stays (s : State) : Stays s s.fresh := freeCtr_stays s 1
grind_pattern State.fresh_stays => s.fresh
grind_pattern freeCtr_stays => State.mk s.cores s.idle s.teams s.launches s.ctxs s.clusters s.fns s.dev s.hbm s.empties s.hbmCode s.l2 s.badMem s.softMem s.headland s.arrivals s.proxies s.monitors s.tickets s.faults s.faultWait s.decs s.launchQ s.greqs s.items s.recvd s.xlcache s.outbox s.hostReply s.nextTeam s.nextLaunch s.agenda s.curCore s.curSlot (s.freeCtr + k) s.noMem
grind_pattern Stays.trans => Stays s t, Stays t u
grind_pattern Keeps.trans => Keeps s t, Keeps t u
grind_pattern Stays.keeps => Stays s t
grind_pattern setCore_stays => s.setCore c k
grind_pattern modCore_stays => s.modCore c f
grind_pattern setGrp_stays => s.setGrp c f
grind_pattern modG_stays => s.modG f
grind_pattern modDev_stays => s.modDev f
grind_pattern modGrp_stays => s.modGrp c f
grind_pattern setTeam_stays => s.setTeam c f
grind_pattern modTeam_stays => s.modTeam c f
grind_pattern setLaunch_stays => s.setLaunch c f
grind_pattern modLaunch_stays => s.modLaunch c f
grind_pattern setCtx_stays => s.setCtx c f
grind_pattern modCtx_stays => s.modCtx c f
grind_pattern setCluster_stays => s.setCluster c f
grind_pattern modCluster_stays => s.modCluster c f
grind_pattern modFn_stays => s.modFn c f
grind_pattern post_stays => s.post i
grind_pattern send_stays => s.send i
grind_pattern eachDo_stays => eachDo l s f
grind_pattern eachDo_keeps => eachDo l s f
grind_pattern update_stays => State.mk s.cores id t l c cl fn s.dev s.hbm s.empties hc l2 b sm hl ar px mo ti fa fw de lq gr it re xl ou ho nt nl ag cc cs s.freeCtr s.noMem

end Sys2Proof.Machine
end

