-- ==== Sys2Proof/Laws/KeepsHome.lean ====
section
/-! SUPPORT. The operations of Machine/Home.lean keep what every step keeps (Laws/KeepsBase.lean). -/

namespace Sys2Proof.Machine
open State

theorem furrowPut_stays (s : State) (k level : Nat) (t : Task) : Stays s (furrowPut s k level t) := by
  unfold furrowPut; grind [Stays.refl, Core.memWf]
grind_pattern furrowPut_stays => furrowPut s k level t

theorem enterFurrow_stays (s : State) (g : Nat) : Stays s (enterFurrow s g) := by
  unfold enterFurrow; grind [Stays.refl, Core.memWf]
grind_pattern enterFurrow_stays => enterFurrow s g

theorem wakeGroup_stays (s : State) (g : Nat) : Stays s (wakeGroup s g) := by
  unfold wakeGroup; grind [Stays.refl, Core.memWf]
grind_pattern wakeGroup_stays => wakeGroup s g

theorem wakeWho_stays (s : State) (w : Waiter) : Stays s (wakeWho s w) := by
  unfold wakeWho; grind [Stays.refl, Core.memWf]
grind_pattern wakeWho_stays => wakeWho s w

theorem linkWaiter_stays (s : State) (w : Waiter) : Stays s (linkWaiter s w) := by
  unfold linkWaiter; grind [Stays.refl, Core.memWf]
grind_pattern linkWaiter_stays => linkWaiter s w

theorem nextArrival_stays (s : State) : Stays s (nextArrival s).1 := by
  unfold nextArrival; grind [Stays.refl, Core.memWf]
grind_pattern nextArrival_stays => nextArrival s

theorem wakeWord_stays (s : State) (o : WObj) (full : Bool) : Stays s (wakeWord s o full) := by
  unfold wakeWord; grind [Stays.refl, Core.memWf]
grind_pattern wakeWord_stays => wakeWord s o full

theorem putFE_stays (s : State) (o : WObj) (full : Bool) : Stays s (putFE s o full) := by
  have fe : ∀ l k, rising l = true → rising (if full then sdel l k else sins l k) = true := fun l k h => by
    split
    · exact sdel_rising k h
    · exact sins_rising k h
  unfold putFE
  split
  · refine modCore_stays s _ _ fun k h => ?_
    simp only [Core.memWf, Bool.and_eq_true] at h ⊢
    exact ⟨h.1, fe _ _ h.2⟩
  · refine ⟨⟨fun w => ?_, rfl, Nat.le_refl _⟩, rfl⟩
    simp only [State.memWf, Bool.and_eq_true] at w ⊢
    exact ⟨⟨w.1.1, fe _ _ w.1.2⟩, w.2⟩
grind_pattern putFE_stays => putFE s o full

theorem setFE_stays (s : State) (o : WObj) (full : Bool) : Stays s (setFE s o full) := by
  unfold setFE; grind [Stays.refl, Core.memWf]
grind_pattern setFE_stays => setFE s o full

theorem fireMonitor_stays (s : State) (m : Monitor) (scope : Nat) : Stays s (fireMonitor s m scope) := by
  unfold fireMonitor; grind [Stays.refl, Core.memWf]
grind_pattern fireMonitor_stays => fireMonitor s m scope

theorem checkMonitors_stays (s : State) (o : WObj) (v : Nat) : Stays s (checkMonitors s o v) := by
  unfold checkMonitors; grind [Stays.refl, Core.memWf]
grind_pattern checkMonitors_stays => checkMonitors s o v

theorem checkStoreMonitors_stays (s : State) (c off n : Nat) : Stays s (checkStoreMonitors s c off n) := by
  unfold checkStoreMonitors; grind [Stays.refl, Core.memWf]
grind_pattern checkStoreMonitors_stays => checkStoreMonitors s c off n

theorem storeWrite_stays (s : State) (c off n v : Nat) : Stays s (storeWrite s c off n v) := by
  unfold storeWrite
  refine .trans (modCore_stays s _ _ fun k h => ?_) (checkStoreMonitors_stays _ _ _ _)
  simp only [Core.memWf, Bool.and_eq_true] at h ⊢
  exact ⟨⟨⟨mwrite_wf _ _ _ h.1.1.1, h.1.1.2⟩, h.1.2⟩, h.2⟩
grind_pattern storeWrite_stays => storeWrite s c off n v

theorem islandWork_stays (s : State) (n : Nat) : Stays s (islandWork s n) := by
  unfold islandWork; grind [Stays.refl, Core.memWf]
grind_pattern islandWork_stays => islandWork s n

theorem hbmPut_stays (s : State) (line code n content : Nat) : Stays s (hbmPut s line code n content) := by
  refine ⟨⟨fun w => ?_, rfl, Nat.le_refl _⟩, rfl⟩
  simp only [State.memWf, hbmPut, Bool.and_eq_true] at w ⊢
  exact ⟨⟨mwrite_wf _ _ _ w.1.1, w.1.2⟩, w.2⟩
grind_pattern hbmPut_stays => hbmPut s line code n content

theorem writeBack_stays (s : State) (l : L2Line) : Stays s (writeBack s l) := by
  unfold writeBack; grind [Stays.refl, Core.memWf]
grind_pattern writeBack_stays => writeBack s l

theorem l1Flush_stays (s : State) (x : L1Line) : Stays s (l1Flush s x) := by
  unfold l1Flush; grind [Stays.refl, Core.memWf]
grind_pattern l1Flush_stays => l1Flush s x

theorem l1WriteAll_stays (s : State) (c : Nat) : Stays s (l1WriteAll s c) := by
  unfold l1WriteAll; grind [Stays.refl, Core.memWf]
grind_pattern l1WriteAll_stays => l1WriteAll s c

theorem l1Drop_stays (s : State) (c : Nat) (p : L1Line → Bool) : Stays s (l1Drop s c p) := by
  unfold l1Drop; grind [Stays.refl, Core.memWf]
grind_pattern l1Drop_stays => l1Drop s c p

theorem recallLine_stays (s : State) (line : Nat) (sharers : Sharers) : Stays s (recallLine s line sharers) := by
  unfold recallLine; grind [Stays.refl, Core.memWf]
grind_pattern recallLine_stays => recallLine s line sharers

theorem promote_stays (s : State) (pair : Nat) : Stays s (promote s pair) := by
  unfold promote; grind [Stays.refl, Core.memWf]
grind_pattern promote_stays => promote s pair

theorem evict_stays (s : State) (l : L2Line) : Stays s (evict s l) := by
  unfold evict; grind [Stays.refl, Core.memWf]
grind_pattern evict_stays => evict s l

theorem noMem_keeps (s : State) (n : Option Nat) : Keeps s { s with noMem := n } := ⟨fun h => h, rfl, Nat.le_refl _⟩
theorem reach_keeps (s : State) (pa : Nat) : Keeps s (reach s pa) := by
  unfold reach; grind [Keeps.refl, noMem_keeps]
grind_pattern reach_keeps => reach s pa

theorem l2Get_keeps (s : State) (ctx line : Nat) (need : BitVec 8) (pol : Nat) :
    Keeps s (l2Get s ctx line need pol).1 := by
  unfold l2Get; grind [Keeps.refl, noMem_keeps]
grind_pattern l2Get_keeps => l2Get s ctx line need pol

theorem l2Put_stays (s : State) (l : L2Line) : Stays s (l2Put s l) := by
  unfold l2Put; grind [Stays.refl, Core.memWf]
grind_pattern l2Put_stays => l2Put s l

theorem correctMem_stays (s : State) (pa n : Nat) : Stays s (correctMem s pa n) := by
  unfold correctMem; grind [Stays.refl, Core.memWf]
grind_pattern correctMem_stays => correctMem s pa n

theorem correctStore_stays (s : State) (c : Nat) : Stays s (correctStore s c) := by
  unfold correctStore; grind [Stays.refl, Core.memWf]
grind_pattern correctStore_stays => correctStore s c

theorem homeRead_keeps (s : State) (ctx pa n : Nat) (pol : Nat) : Keeps s (homeRead s ctx pa n pol).1 := by
  unfold homeRead; grind [Keeps.refl, Core.memWf]
grind_pattern homeRead_keeps => homeRead s ctx pa n pol

theorem checkMemMonitors_stays (s : State) (pa n : Nat) : Stays s (checkMemMonitors s pa n) := by
  unfold checkMemMonitors; grind [Stays.refl, Core.memWf]
grind_pattern checkMemMonitors_stays => checkMemMonitors s pa n

theorem homeWrite_keeps (s : State) (ctx pa n v : Nat) (pol : Nat) : Keeps s (homeWrite s ctx pa n v pol) := by
  unfold homeWrite; grind [Keeps.refl, Core.memWf]
grind_pattern homeWrite_keeps => homeWrite s ctx pa n v pol

theorem codeLine_stays (s : State) (line code : Nat) : Stays s (codeLine s line code) := by
  unfold codeLine; grind [Stays.refl, Core.memWf]
grind_pattern codeLine_stays => codeLine s line code

theorem rawLine_stays (s : State) (line : Nat) : Stays s (rawLine s line) := by
  unfold rawLine; grind [Stays.refl, Core.memWf]
grind_pattern rawLine_stays => rawLine s line

theorem sysRead_keeps (s : State) (ctx pa n : Nat) : Keeps s (sysRead s ctx pa n).1 := by
  induction n generalizing s pa with
  | zero => exact .refl s
  | succ n ih => unfold sysRead; grind
grind_pattern sysRead_keeps => sysRead s ctx pa n

theorem sysWrite_keeps (s : State) (ctx pa n v : Nat) : Keeps s (sysWrite s ctx pa n v) := by
  induction n generalizing s pa v with
  | zero => exact .refl s
  | succ n ih => unfold sysWrite; grind
grind_pattern sysWrite_keeps => sysWrite s ctx pa n v

theorem setPromo_stays (s : State) (line : Nat) (p : Option Nat) : Stays s (setPromo s line p) := by
  unfold setPromo; grind [Stays.refl, Core.memWf]
grind_pattern setPromo_stays => setPromo s line p

theorem promoteFrom_stays (s : State) (pair : Option Nat) (line : Nat) : Stays s (promoteFrom s pair line) := by
  unfold promoteFrom; grind [Stays.refl, Core.memWf]
grind_pattern promoteFrom_stays => promoteFrom s pair line

theorem promoteRead_stays (s : State) (c line : Nat) : Stays s (promoteRead s c line) := by
  unfold promoteRead; grind [Stays.refl, Core.memWf]
grind_pattern promoteRead_stays => promoteRead s c line

end Sys2Proof.Machine
end

