-- ==== Sys2Proof/Laws/KeepsTranslate.lean ====
section
/-! SUPPORT. The operations of Machine/Translate.lean keep what every step keeps (Laws/KeepsBase.lean). -/

namespace Sys2Proof.Machine
open State

theorem setAD_keeps (s : State) (c at_ : Nat) (write : Bool) : Keeps s (setAD s c at_ write) := by
  unfold setAD; grind [Keeps.refl, Core.memWf]
grind_pattern setAD_keeps => setAD s c at_ write

theorem followPage_stays (s : State) (c page : Nat) (leaf : DWord) (big : Bool) : Stays s (followPage s c page leaf big) := by
  unfold followPage; grind [Stays.refl, Core.memWf]
grind_pattern followPage_stays => followPage s c page leaf big

theorem translate_keeps (s : State) (core c v : Nat) : Keeps s (translate s core c v).1 := by
  unfold translate; grind [Keeps.refl, Core.memWf]
grind_pattern translate_keeps => translate s core c v

theorem dirty_keeps (s : State) (core c v : Nat) : Keeps s (dirty s core c v) := by
  unfold dirty; grind [Keeps.refl, Core.memWf]
grind_pattern dirty_keeps => dirty s core c v

theorem resolve_keeps (s : State) (g : Nat) (n : Nat) (o : Int) (bytes align : Nat) (u : Use) :
    Keeps s (resolve s g n o bytes align u).1 := by
  unfold resolve
  simp only
  repeat' split
  all_goals first | exact .refl s | exact translate_keeps _ _ _ _
grind_pattern resolve_keeps => resolve s g n o bytes align u

theorem resolvePieces_keeps (s : State) (g n : Nat) (u : Use) (l : List Nat) (o : Int) (acc : List (Nat × Phys)) :
    Keeps s (resolvePieces s g n u l o acc).1 := by
  induction l generalizing s o acc with
  | nil => exact .refl s
  | cons a r ih => unfold resolvePieces; grind
grind_pattern resolvePieces_keeps => resolvePieces s g n u l o acc

theorem resolveSpan_keeps (s : State) (g n : Nat) (o : Int) (bytes align : Nat) (u : Use) : Keeps s (resolveSpan s g n o bytes align u).1 := by
  unfold resolveSpan; grind [Keeps.refl, Core.memWf]
grind_pattern resolveSpan_keeps => resolveSpan s g n o bytes align u

end Sys2Proof.Machine
end

