-- ==== Sys2Proof/Laws/KeepsRecords.lean ====
section
/-! SUPPORT. The operations of Machine/Records.lean keep what every step keeps (Laws/KeepsBase.lean). -/

namespace Sys2Proof.Machine
open State

theorem raiseVector_stays (s : State) (fn v : Nat) : Stays s (raiseVector s fn v) := by
  unfold raiseVector; grind [Stays.refl, Core.memWf]
grind_pattern raiseVector_stays => raiseVector s fn v

theorem raiseFq_stays (s : State) (c : Nat) : Stays s (raiseFq s c) := by
  unfold raiseFq; grind [Stays.refl, Core.memWf]
grind_pattern raiseFq_stays => raiseFq s c

theorem raiseEq_stays (s : State) (c : Nat) : Stays s (raiseEq s c) := by
  unfold raiseEq; grind [Stays.refl, Core.memWf]
grind_pattern raiseEq_stays => raiseEq s c

theorem deviceError_stays (s : State) : Stays s (deviceError s) := by
  unfold deviceError; grind [Stays.refl, Core.memWf]
grind_pattern deviceError_stays => deviceError s

theorem writeDws_keeps (s : State) (c pa : Nat) (x0 : List Nat) : Keeps s (writeDws s c pa x0) := by
  induction x0 generalizing s c pa with
  | nil => unfold writeDws; grind [Keeps.refl]
  | cons e r ih => unfold writeDws; grind [Keeps.refl]
grind_pattern writeDws_keeps => writeDws s c pa x0

theorem pushQ5_stays (s : State) (g : Nat) (e : QEntry) : Stays s (pushQ5 s g e) := by
  unfold pushQ5; grind [Stays.refl, Core.memWf]
grind_pattern pushQ5_stays => pushQ5 s g e

theorem faultRecord_keeps (s : State) (c : Nat) (f : FRec) : Keeps s (faultRecord s c f) := by
  unfold faultRecord; grind [Keeps.refl, Core.memWf]
grind_pattern faultRecord_keeps => faultRecord s c f

theorem eventRecord_keeps (s : State) (c kind cl p0 p1 p2 p3 data : Nat) : Keeps s (eventRecord s c kind cl p0 p1 p2 p3 data).1 := by
  unfold eventRecord; grind [Keeps.refl, Core.memWf]
grind_pattern eventRecord_keeps => eventRecord s c kind cl p0 p1 p2 p3 data

theorem pushQ6_stays (s : State) (g : Nat) (e : QEntry) : Stays s (pushQ6 s g e) := by
  unfold pushQ6; grind [Stays.refl, Core.memWf]
grind_pattern pushQ6_stays => pushQ6 s g e

theorem notice_keeps (s : State) (t kind : Nat) : Keeps s (notice s t kind) := by
  unfold notice; grind [Keeps.refl, Core.memWf]
grind_pattern notice_keeps => notice s t kind

theorem writeReport_keeps (s : State) (f : OpenFault) : Keeps s (writeReport s f) := by
  unfold writeReport; grind [Keeps.refl, Core.memWf]
grind_pattern writeReport_keeps => writeReport s f

theorem holdReport_stays (s : State) (f : OpenFault) : Stays s (holdReport s f) := by
  unfold holdReport; grind [Stays.refl, Core.memWf]
grind_pattern holdReport_stays => holdReport s f

theorem reportPage_keeps (s : State) (f : OpenFault) : Keeps s (reportPage s f) := by
  unfold reportPage; grind [Keeps.refl, Core.memWf]
grind_pattern reportPage_keeps => reportPage s f

theorem malformedRecord_keeps (s : State) (g page : Nat) (acc : BitVec 4) : Keeps s (malformedRecord s g page acc) := by
  unfold malformedRecord; grind [Keeps.refl, Core.memWf]
grind_pattern malformedRecord_keeps => malformedRecord s g page acc

end Sys2Proof.Machine
end

