-- ==== Sys2Proof/Laws/KeepsOps.lean ====
section
/-! SUPPORT. The operations of Machine/Ops.lean keep what every step keeps (Laws/KeepsBase.lean). -/

namespace Sys2Proof.Machine
open State

theorem writeS_stays (s : State) (g n : Nat) (v : DWord) : Stays s (writeS s g n v) := by
  unfold writeS; grind [Stays.refl, Core.memWf]
grind_pattern writeS_stays => writeS s g n v

theorem writeP_stays (s : State) (g n : Nat) (lanes v : Mask) : Stays s (writeP s g n lanes v) := by
  unfold writeP; grind [Stays.refl, Core.memWf]
grind_pattern writeP_stays => writeP s g n lanes v

theorem writePU_stays (s : State) (g n : Nat) (v : Bool) : Stays s (writePU s g n v) := by
  unfold writePU; grind [Stays.refl, Core.memWf]
grind_pattern writePU_stays => writePU s g n v

theorem bankWrite_stays (s : State) (g reg i : Nat) (v : Word) : Stays s (bankWrite s g reg i v) := by
  unfold bankWrite; grind [Stays.refl, Core.memWf]
grind_pattern bankWrite_stays => bankWrite s g reg i v

theorem hregWrite_stays (s : State) (t : Team) (gw k i : Nat) (v : Word) : Stays s (hregWrite s t gw k i v) := by
  unfold hregWrite; grind [Stays.refl, Core.memWf]
grind_pattern hregWrite_stays => hregWrite s t gw k i v

theorem teamWrites_stays (s : State) (g due : Nat) (vs : List VRes) : Stays s (teamWrites s g due vs) := by
  unfold teamWrites; grind [Stays.refl, Core.memWf]
grind_pattern teamWrites_stays => teamWrites s g due vs

theorem writeVs_stays (s : State) (g : Nat) (k dest : Bool) (due : Nat) (vs : List VRes) : Stays s (writeVs s g k dest due vs) := by
  unfold writeVs; grind [Stays.refl, Core.memWf]
grind_pattern writeVs_stays => writeVs s g k dest due vs

theorem hold_stays (s : State) (g : Nat) : Stays s (hold s g) := by
  unfold hold; grind [Stays.refl, Core.memWf]
grind_pattern hold_stays => hold s g

theorem endChain_stays (s : State) (g : Nat) : Stays s (endChain s g) := by
  unfold endChain; grind [Stays.refl, Core.memWf]
grind_pattern endChain_stays => endChain s g

theorem midEmpty_stays (s : State) (g : Nat) : Stays s (midEmpty s g) := by
  unfold midEmpty; grind [Stays.refl, Core.memWf]
grind_pattern midEmpty_stays => midEmpty s g

theorem stopMid_stays (s : State) (g : Nat) : Stays s (stopMid s g) := by
  unfold stopMid; grind [Stays.refl, Core.memWf]
grind_pattern stopMid_stays => stopMid s g

theorem endClause_stays (s : State) (g pc : Nat) : Stays s (endClause s g pc) := by
  unfold endClause; grind [Stays.refl, Core.memWf]
grind_pattern endClause_stays => endClause s g pc

theorem park_stays (s : State) (g : Nat) (r : ParkRec) : Stays s (park s g r) := by
  unfold park; grind [Stays.refl, Core.memWf]
grind_pattern park_stays => park s g r

theorem holdQueueAt_stays (s : State) (g : Nat) : Stays s (holdQueueAt s g) := by
  unfold holdQueueAt; grind [Stays.refl, Core.memWf]
grind_pattern holdQueueAt_stays => holdQueueAt s g

theorem atMarker_stays (s : State) (g : Nat) (x : Group) : Stays s (atMarker s g x) := by
  unfold atMarker; grind [Stays.refl, Core.memWf]
grind_pattern atMarker_stays => atMarker s g x

theorem advance_stays (s : State) (g : Nat) : Stays s (advance s g) := by
  unfold advance; grind [Stays.refl, Core.memWf]
grind_pattern advance_stays => advance s g

theorem jump_stays (s : State) (g pc : Nat) : Stays s (jump s g pc) := by
  unfold jump; grind [Stays.refl, Core.memWf]
grind_pattern jump_stays => jump s g pc

theorem retireFixed_stays (s : State) (g l : Nat) (fl : BitVec 4) : Stays s (retireFixed s g l fl) := by
  unfold retireFixed; grind [Stays.refl, Core.memWf]
grind_pattern retireFixed_stays => retireFixed s g l fl

theorem retireNow_stays (s : State) (g : Nat) : Stays s (retireNow s g) := by
  unfold retireNow; grind [Stays.refl, Core.memWf]
grind_pattern retireNow_stays => retireNow s g

theorem addPend_stays (s : State) (g : Nat) (p : Pend) : Stays s (addPend s g p) := by
  unfold addPend; grind [Stays.refl, Core.memWf]
grind_pattern addPend_stays => addPend s g p

theorem deliverTeam_stays (s : State) (g : Nat) (vs : List VRes) : Stays s (deliverTeam s g vs) := by
  unfold deliverTeam; grind [Stays.refl, Core.memWf]
grind_pattern deliverTeam_stays => deliverTeam s g vs

theorem deliver_stays (s : State) (g : Nat) (p : Pend) : Stays s (deliver s g p) := by
  unfold deliver
  extract_lets s1 own s2 add s3 s4 s5 s6 s7 s8 x s9
  have h2 : Stays s1 s2 := by grind [Stays.refl]
  have h8 : Stays s7 s8 := by grind [Stays.refl]
  have h9 : Stays s8 s9 := by grind [Stays.refl]
  have h : Stays s s9 := by grind
  clear_value s9
  grind [Stays.refl]
grind_pattern deliver_stays => deliver s g p

theorem tellProxy_stays (s : State) (g : Nat) (m : PeerAccess) : Stays s (tellProxy s g m) := by
  unfold tellProxy; grind [Stays.refl, Core.memWf]
grind_pattern tellProxy_stays => tellProxy s g m

theorem unlinkGroup_stays (s : State) (g : Nat) : Stays s (unlinkGroup s g) := by
  unfold unlinkGroup; grind [Stays.refl, Core.memWf]
grind_pattern unlinkGroup_stays => unlinkGroup s g

theorem freeSlot_stays (s : State) (g : Nat) : Stays s (freeSlot s g) := by
  unfold freeSlot; grind [Stays.refl, Core.memWf]
grind_pattern freeSlot_stays => freeSlot s g

theorem cancelCmds_stays (s : State) (p : Cmd → Bool) : Stays s (cancelCmds s p) := by
  unfold cancelCmds; grind [Stays.refl, Core.memWf]
grind_pattern cancelCmds_stays => cancelCmds s p

theorem savePoke_stays (s : State) (core slot : Nat) : Stays s (savePoke s core slot) := by
  unfold savePoke; grind [Stays.refl, Core.memWf]
grind_pattern savePoke_stays => savePoke s core slot

theorem abortLaunch_keeps (s : State) (l code core slot : Nat) (eng : Bool) : Keeps s (abortLaunch s l code core slot eng) := by
  unfold abortLaunch; grind [Keeps.refl, Core.memWf]
grind_pattern abortLaunch_keeps => abortLaunch s l code core slot eng

theorem trapAt_keeps (s : State) (g code addr : Nat) (lanes : Mask) (tpc hdr : Nat) : Keeps s (trapAt s g code addr lanes tpc hdr) := by
  unfold trapAt; grind [Keeps.refl, Core.memWf]
grind_pattern trapAt_keeps => trapAt s g code addr lanes tpc hdr

theorem trap_keeps (s : State) (g code addr : Nat) (lanes : Mask) : Keeps s (trap s g code addr lanes) := by
  unfold trap; grind [Keeps.refl, Core.memWf]
grind_pattern trap_keeps => trap s g code addr lanes

theorem tretUnread_stays (s : State) (g thdr tpc : Nat) (redo : Option ParkRec) : Stays s (tretUnread s g thdr tpc redo) := by
  unfold tretUnread; grind [Stays.refl, Core.memWf]
grind_pattern tretUnread_stays => tretUnread s g thdr tpc redo

theorem tretSlot_keeps (s : State) (g thdr tpc : Nat) (slot : State → State) (h : ∀ t, Stays t (slot t)) :
    Keeps s (tretSlot s g thdr tpc slot) := by
  unfold tretSlot
  extract_lets bad late
  have hb : Keeps s bad := by grind [Keeps.refl]
  have hl : Keeps s (late s) := (h s).keeps.trans (modGrp_stays (slot s) g _).keeps
  clear_value bad late
  have hs := (h s).keeps
  cases codeAt s g thdr <;> dsimp only <;> grind

theorem tretAt_keeps (s : State) (g : Nat) : Keeps s (tretAt s g) := by
  unfold tretAt
  extract_lets x tpc thdr s1 back again redo slot
  have h1 : Stays s s1 := by grind [Stays.refl]
  have hb : ∀ t, Stays t (back t) := fun t => modGrp_stays t g _
  have hslot : ∀ t, Stays t (slot t) := fun t =>
    (hb t).trans ((modGrp_stays (back t) g _).trans (atMarker_stays _ g x))
  clear_value s1 slot back
  have hm := ((hb s1).trans (atMarker_stays _ g x)).keeps
  have hu := (((hb s1).trans (atMarker_stays _ g x)).trans (tretUnread_stays _ g thdr tpc redo)).keeps
  have hs := (hslot s1).keeps
  refine h1.keeps.trans ?_
  cases codeAt s1 g tpc with
  | header h => exact hm
  | other => exact tretSlot_keeps _ _ _ _ _ hslot
  | _ => cases codeAt s1 g thdr <;> dsimp only <;> grind
grind_pattern tretAt_keeps => tretAt s g

theorem occupy_stays (s : State) (g cls n rows : Nat) : Stays s (occupy s g cls n rows) := by
  unfold occupy; grind [Stays.refl, Core.memWf]
grind_pattern occupy_stays => occupy s g cls n rows

theorem setLat_stays (s : State) (g l : Nat) (rs : List Res) : Stays s (setLat s g l rs) := by
  unfold setLat; grind [Stays.refl, Core.memWf]
grind_pattern setLat_stays => setLat s g l rs

theorem throttlePoke_stays (s : State) (k : Nat) : Stays s (throttlePoke s k) := by
  unfold throttlePoke; grind [Stays.refl, Core.memWf]
grind_pattern throttlePoke_stays => throttlePoke s k

theorem setReserved_stays (s : State) (tm k : Nat) (b : Bool) : Stays s (setReserved s tm k b) :=
  (modTeam_stays ..).trans (throttlePoke_stays ..)
grind_pattern setReserved_stays => setReserved s tm k b

theorem clusterWork_stays (s : State) (core bytes : Nat) : Stays s (clusterWork s core bytes) := by
  unfold clusterWork; grind [Stays.refl, Core.memWf]
grind_pattern clusterWork_stays => clusterWork s core bytes

theorem limitPoke_stays (s : State) (t : Nat) : Stays s (limitPoke s t) := by
  unfold limitPoke; grind [Stays.refl, Core.memWf]
grind_pattern limitPoke_stays => limitPoke s t

theorem settleIn_stays (s : State) (t k : Nat) : Stays s (settleIn s t k) := by
  unfold settleIn; grind [Stays.refl, Core.memWf]
grind_pattern settleIn_stays => settleIn s t k

theorem charge_stays (s : State) (g n : Nat) : Stays s (charge s g n) := by
  unfold charge; grind [Stays.refl, Core.memWf]
grind_pattern charge_stays => charge s g n

theorem finish_stays (s : State) (g l cls occ rows eu : Nat) (fl : BitVec 4) (rs : List Res) : Stays s (finish s g l cls occ rows eu fl rs) := by
  unfold finish; grind [Stays.refl, Core.memWf]
grind_pattern finish_stays => finish s g l cls occ rows eu fl rs

theorem finishRows_stays (s : State) (g cls occ rows eu : Nat) : Stays s (finishRows s g cls occ rows eu) := by
  unfold finishRows; grind [Stays.refl, Core.memWf]
grind_pattern finishRows_stays => finishRows s g cls occ rows eu

theorem finishVar_stays (s : State) (g cls occ eu : Nat) : Stays s (finishVar s g cls occ eu) := by
  unfold finishVar; grind [Stays.refl, Core.memWf]
grind_pattern finishVar_stays => finishVar s g cls occ eu

theorem finishJump_stays (s : State) (g pc : Nat) : Stays s (finishJump s g pc) := by
  unfold finishJump; grind [Stays.refl, Core.memWf]
grind_pattern finishJump_stays => finishJump s g pc

end Sys2Proof.Machine
end

