-- ==== Sys2Proof/Laws/KeepsOperands.lean ====
section
/-! SUPPORT. The operations of Machine/Operands.lean keep what every step keeps (Laws/KeepsBase.lean). -/

namespace Sys2Proof.Machine
open State

theorem waitEntries_stays (s : State) (g : Nat) : Stays s (waitEntries s g) := by
  unfold waitEntries; grind [Keeps.refl, Stays.refl, Core.memWf]
grind_pattern waitEntries_stays => waitEntries s g

theorem takeEntry_stays (s : State) (g : Nat) (c : Cmd) : Stays s (takeEntry s g c) := by
  unfold takeEntry; grind [Keeps.refl, Stays.refl, Core.memWf]
grind_pattern takeEntry_stays => takeEntry s g c

theorem holdQueue_stays (s : State) (g r : Nat) : Stays s (holdQueue s g r) := by
  unfold holdQueue; grind [Keeps.refl, Stays.refl, Core.memWf]
grind_pattern holdQueue_stays => holdQueue s g r

theorem pushQueue_stays (s : State) (g r : Nat) (e : QEntry) : Stays s (pushQueue s g r e) := by
  unfold pushQueue; grind [Keeps.refl, Stays.refl, Core.memWf]
grind_pattern pushQueue_stays => pushQueue s g r e

theorem writeResult_stays (s : State) (g : Nat) (kd : OpK) (d : Nat) (k : Bool) (tm : VTime) (active : Mask) (sd : Option Nat) (o : VOut) : Stays s (writeResult s g kd d k tm active sd o) := by
  unfold writeResult; grind [Keeps.refl, Stays.refl, Core.memWf]
grind_pattern writeResult_stays => writeResult s g kd d k tm active sd o

theorem popResult_stays (s : State) (g : Nat) (kd : OpK) (d : Nat) (k : Bool) (active : Mask) (sd : Option Nat) (o : VOut) : Stays s (popResult s g kd d k active sd o) := by
  unfold popResult; grind [Keeps.refl, Stays.refl, Core.memWf]
grind_pattern popResult_stays => popResult s g kd d k active sd o

theorem vGate_keeps (s : State) (f : FmtV) (u : VUse) (t : State) (h : vGate s f u = some t) : Keeps s t := by
  unfold vGate at h
  simp only at h
  split at h
  · cases h; exact trap_keeps _ _ _ _ _
  split at h
  · cases h; exact (holdQueueAt_stays _ _).keeps
  split at h
  · cases h; exact (holdQueue_stays _ _ _).keeps
  · obtain ⟨a, -, rfl⟩ := Option.map_eq_some_iff.mp h
    exact trap_keeps _ _ _ _ _

theorem vEffect_stays (s : State) (f : FmtV) (u : VUse) (tm : VTime) (o : VOut) : Stays s (vEffect s f u tm o) := by
  unfold vEffect
  simp only
  split
  · exact (setGrp_stays _ _ _).trans (writeResult_stays _ _ _ _ _ _ _ _ _)
  · exact (setGrp_stays _ _ _).trans (popResult_stays _ _ _ _ _ _ _ _)

theorem vDo_stays (s : State) (f : FmtV) (u : VUse) (tm : VTime) (o : VOut) : Stays s (vDo s f u tm o) := by
  unfold vDo
  extract_lets g eu sd
  split
  · exact (vEffect_stays _ _ _ _ _).trans (finish_stays _ _ _ _ _ _ _ _ _)
  · exact (vEffect_stays _ _ _ _ _).trans (finishRows_stays _ _ _ _ _ _)

theorem runV_ends (s : State) (f : FmtV) (u : VUse) (tm : VTime)
    (body : (Nat → Nat × Nat × Nat) → List Nat → VOut) : Ends s (runV s f u tm body) := by
  unfold runV
  split
  · exact ends_done (vGate_keeps _ _ _ _ ‹_›)
  · exact ends_next (vDo_stays _ _ _ _ _)
grind_pattern runV_ends => runV s f u tm body

end Sys2Proof.Machine
end

