-- ==== Sys2Proof/Laws/KeepsFlags.lean ====
section
/-! SUPPORT. The operations of Machine/Flags.lean keep what every step keeps (Laws/KeepsBase.lean). -/

namespace Sys2Proof.Machine
open State

theorem setLstat_stays (s : State) (g : Nat) (v : BitVec 4) : Stays s (setLstat s g v) := by
  unfold setLstat; grind [Keeps.refl, Stays.refl, Core.memWf]
grind_pattern setLstat_stays => setLstat s g v

theorem orMastat_stays (s : State) (c : Nat) (fl : BitVec 4) : Stays s (orMastat s c fl) := by
  unfold orMastat; grind [Keeps.refl, Stays.refl, Core.memWf]
grind_pattern orMastat_stays => orMastat s c fl

end Sys2Proof.Machine
end

