-- ==== Sys2Proof/Laws/KeepsAccess.lean ====
section
/-! SUPPORT. The operations of Machine/Access.lean keep what every step keeps (Laws/KeepsBase.lean). -/

namespace Sys2Proof.Machine
open State

theorem freshBytes_stays (s : State) (n : Nat) : Stays s (freshBytes s n).1 := freeCtr_stays s _
grind_pattern freshBytes_stays => freshBytes s n

theorem queueItem_stays (s : State) (peer : Nat) (i : PItem) (m : OutMsg) : Stays s (queueItem s peer i m) := by
  unfold queueItem; grind [Stays.refl, Core.memWf]
grind_pattern queueItem_stays => queueItem s peer i m

theorem sendItem_stays (s : State) (peer : Nat) (i : PItem) (m : OutMsg) : Stays s (sendItem s peer i m) := by
  unfold sendItem; grind [Keeps.refl, Stays.refl, Core.memWf]
grind_pattern sendItem_stays => sendItem s peer i m

theorem winWrite_stays (s : State) (t : Team) (core off n v : Nat) : Stays s (winWrite s t core off n v) := by
  unfold winWrite; grind [Keeps.refl, Stays.refl, Core.memWf]
grind_pattern winWrite_stays => winWrite s t core off n v

theorem l1Room_stays (s : State) (c line : Nat) : Stays s (l1Room s c line) := by
  unfold l1Room; grind [Keeps.refl, Stays.refl, Core.memWf]
grind_pattern l1Room_stays => l1Room s c line

theorem l1Put_stays (s : State) (c : Nat) (x : L1Line) : Stays s (l1Put s c x) := by
  unfold l1Put; grind [Keeps.refl, Stays.refl, Core.memWf]
grind_pattern l1Put_stays => l1Put s c x

theorem l1Load_keeps (s : State) (c ctx pa n pol : Nat) : Keeps s (l1Load s c ctx pa n pol).1 := by
  unfold l1Load; grind [Keeps.refl, Stays.refl, Core.memWf]
grind_pattern l1Load_keeps => l1Load s c ctx pa n pol

theorem l1Store_keeps (s : State) (c ctx pa n v pol : Nat) : Keeps s (l1Store s c ctx pa n v pol) := by
  unfold l1Store; grind [Keeps.refl, Stays.refl, Core.memWf]
grind_pattern l1Store_keeps => l1Store s c ctx pa n v pol

theorem l1Through_stays (s : State) (c pa n v : Nat) : Stays s (l1Through s c pa n v) := by
  unfold l1Through; grind [Keeps.refl, Stays.refl, Core.memWf]
grind_pattern l1Through_stays => l1Through s c pa n v

theorem l1Purge_stays (s : State) (c pa : Nat) : Stays s (l1Purge s c pa) := by
  unfold l1Purge; grind [Keeps.refl, Stays.refl, Core.memWf]
grind_pattern l1Purge_stays => l1Purge s c pa

theorem askPeers_stays (s : State) (g : Nat) : Stays s (askPeers s g) := by
  unfold askPeers; grind [Stays.refl, Core.memWf]
grind_pattern askPeers_stays => askPeers s g

theorem askRelease_stays (s : State) (g as ss : Nat) : Stays s (askRelease s g as ss) := by
  unfold askRelease; grind [Stays.refl, Core.memWf]
grind_pattern askRelease_stays => askRelease s g as ss

theorem releaseHalf_stays (s : State) (g as ss : Nat) : Stays s (releaseHalf s g as ss) := by
  unfold releaseHalf; grind [Keeps.refl, Stays.refl, Core.memWf]
grind_pattern releaseHalf_stays => releaseHalf s g as ss

theorem acquireHalf_stays (s : State) (g as ss : Nat) : Stays s (acquireHalf s g as ss) := by
  unfold acquireHalf; grind [Keeps.refl, Stays.refl, Core.memWf]
grind_pattern acquireHalf_stays => acquireHalf s g as ss

theorem tagWrite_stays (s : State) (g as line : Nat) (release strong : Bool) : Stays s (tagWrite s g as line release strong) := by
  unfold tagWrite; grind [Keeps.refl, Stays.refl, Core.memWf]
grind_pattern tagWrite_stays => tagWrite s g as line release strong

theorem physRead_keeps (s : State) (g : Nat) (p : Phys) (n as pol : Nat) : Keeps s (physRead s g p n as pol).1 := by
  unfold physRead; grind [Keeps.refl, Stays.refl, Core.memWf]
grind_pattern physRead_keeps => physRead s g p n as pol

theorem physWrite_keeps (s : State) (g : Nat) (p : Phys) (n v as pol : Nat) : Keeps s (physWrite s g p n v as pol) := by
  unfold physWrite; grind [Keeps.refl, Stays.refl, Core.memWf]
grind_pattern physWrite_keeps => physWrite s g p n v as pol

theorem placeSet_stays (s : State) (t : Team) (core : Nat) (pl : Place) (n : Nat) (full : Bool) : Stays s (placeSet s t core pl n full) := by
  unfold placeSet; grind [Keeps.refl, Stays.refl, Core.memWf]
grind_pattern placeSet_stays => placeSet s t core pl n full

theorem homeAccess_stays (s : State) (g as : Nat) (p : Phys) : Stays s (homeAccess s g as p) := by
  unfold homeAccess; grind [Keeps.refl, Stays.refl, Core.memWf]
grind_pattern homeAccess_stays => homeAccess s g as p

theorem rawPieces_stays (s : State) (ps : List (Nat × Phys)) : Stays s (rawPieces s ps) := by
  unfold rawPieces; grind [Stays.refl, Core.memWf]
grind_pattern rawPieces_stays => rawPieces s ps

theorem readPieces_keeps (rd : State → Phys → Nat → State × Nat) (s : State) (l : List (Nat × Phys))
    (h : ∀ s p n, Keeps s (rd s p n).1) : Keeps s (readPieces rd s l).1 := by
  induction l generalizing s with
  | nil => exact .refl s
  | cons a r ih => exact (h s _ _).trans (ih _)
grind_pattern readPieces_keeps => readPieces rd s l
theorem readPieces_stays (rd : State → Phys → Nat → State × Nat) (s : State) (l : List (Nat × Phys))
    (h : ∀ s, ∀ p ∈ l, Stays s (rd s p.2 p.1).1) : Stays s (readPieces rd s l).1 := by
  induction l generalizing s with
  | nil => exact .refl s
  | cons a r ih =>
    exact (h s a (by simp)).trans (ih _ fun s p hp => h s p (by simp [hp]))

theorem writePieces_keeps (wr : State → Phys → Nat → Nat → State) (s : State) (l : List (Nat × Phys)) (v : Nat)
    (h : ∀ s p n v, Keeps s (wr s p n v)) : Keeps s (writePieces wr s l v) := by
  induction l generalizing s v with
  | nil => exact .refl s
  | cons a r ih => exact (h s _ _ _).trans (ih _ _)
grind_pattern writePieces_keeps => writePieces wr s l v
theorem writePieces_stays (wr : State → Phys → Nat → Nat → State) (s : State) (l : List (Nat × Phys)) (v : Nat)
    (h : ∀ s v, ∀ p ∈ l, Stays s (wr s p.2 p.1 v)) : Stays s (writePieces wr s l v) := by
  induction l generalizing s v with
  | nil => exact .refl s
  | cons a r ih =>
    exact (h s _ a (by simp)).trans (ih _ _ fun s v p hp => h s v p (by simp [hp]))

theorem homeOf_keeps (g pol : Nat) (s : State) (p : Phys) (n : Nat) : Keeps s (homeOf g pol s p n).1 := by
  unfold homeOf; grind [Keeps.refl, Stays.refl, Core.memWf]
grind_pattern homeOf_keeps => homeOf g pol s p n

theorem homeTo_keeps (g as pol : Nat) (release : Bool) (s : State) (p : Phys) (n v : Nat) : Keeps s (homeTo g as pol release s p n v) := by
  unfold homeTo; grind [Keeps.refl, Stays.refl, Core.memWf]
grind_pattern homeTo_keeps => homeTo g as pol release s p n v

theorem loadLane_keeps (s : State) (g fe as n pol : Nat) (pl : Place) : Keeps s (loadLane s g fe as n pol pl).1 := by
  unfold loadLane; grind [Keeps.refl, Stays.refl, Core.memWf]
grind_pattern loadLane_keeps => loadLane s g fe as n pol pl

theorem storeLane_keeps (s : State) (g fe as n v pol : Nat) (pl : Place) : Keeps s (storeLane s g fe as n v pol pl).1 := by
  unfold storeLane; grind [Keeps.refl, Stays.refl, Core.memWf]
grind_pattern storeLane_keeps => storeLane s g fe as n v pol pl

theorem parkPages_keeps (s : State) (g : Nat) (mask : Mask) (lanes : List (Nat × Nat)) (addrs : List Nat) (acc : BitVec 4) (begun : Bool) : Keeps s (parkPages s g mask lanes addrs acc begun) := by
  unfold parkPages; grind [Keeps.refl, Stays.refl, Core.memWf]
grind_pattern parkPages_keeps => parkPages s g mask lanes addrs acc begun

theorem parkState_stays (s : State) (g : Nat) (mask : Mask) (q : AReq) (pl : Place) (lead : Nat) (some_ : Bool) : Stays s (parkState s g mask q pl lead some_) := by
  unfold parkState; grind [Keeps.refl, Stays.refl, Core.memWf]
grind_pattern parkState_stays => parkState s g mask q pl lead some_

theorem postReply_stays (s : State) (g : Nat) (q : AReq) (o : AOut) (pd : Option Nat) (retires : Bool) : Stays s (postReply s g q o pd retires) := by
  unfold postReply; grind [Keeps.refl, Stays.refl, Core.memWf]
grind_pattern postReply_stays => postReply s g q o pd retires

theorem notePeers_stays (s : State) (g seq : Nat) : Stays s (notePeers s g seq) := by
  unfold notePeers; grind [Keeps.refl, Stays.refl, Core.memWf]
grind_pattern notePeers_stays => notePeers s g seq

theorem resolveLanes_keeps (s : State) (g : Nat) (q : AReq) (x0 : List Nat) : Keeps s (resolveLanes s g q x0).1 := by
  induction x0 generalizing s g q with
  | nil => unfold resolveLanes; grind [Keeps.refl]
  | cons e r ih => unfold resolveLanes; grind [Keeps.refl]
grind_pattern resolveLanes_keeps => resolveLanes s g q x0

theorem readWord_keeps (s : State) (g a : Nat) : Keeps s (readWord s g a).1 := by
  unfold readWord; grind [Keeps.refl, Stays.refl, Core.memWf]
grind_pattern readWord_keeps => readWord s g a

theorem readWords_keeps (s : State) (g : Nat) (x0 : List Nat) (x1 : Tab Nat) : Keeps s (readWords s g x0 x1).1 := by
  induction x0 generalizing s g x1 with
  | nil => unfold readWords; grind [Keeps.refl]
  | cons e r ih => unfold readWords; grind [Keeps.refl]
grind_pattern readWords_keeps => readWords s g x0 x1

theorem markWritten_keeps (s : State) (q : AReq) (ls : List (Nat × Place)) : Keeps s (markWritten s q ls) := by
  unfold markWritten; grind [Keeps.refl, Stays.refl, Core.memWf]
grind_pattern markWritten_keeps => markWritten s q ls

theorem performLanes_keeps (s : State) (q : AReq) (tab : Tab Nat) (xs : List (Nat × LaneX))
    (lane : AOut → Nat → Place → AOut) (h : ∀ o i pl, Keeps o.s (lane o i pl).s) :
    Keeps s (performLanes s q tab xs lane).s := by
  have each : ∀ (l : List (Nat × Place)) (o : AOut), Keeps o.s (eachDo l o fun o l => lane o l.1 l.2).s := by
    intro l
    induction l with
    | nil => exact fun o => .refl _
    | cons a r ih => exact fun o => (h o _ _).trans (ih _)
  refine .trans ?_ (each _ _)
  show Keeps s (if q.release then _ else s)
  grind [Keeps.refl]

theorem afterLanes_keeps (q : AReq) (xs : List (Nat × LaneX)) (o : AOut) : Keeps o.s (afterLanes q xs o) := by
  unfold afterLanes
  grind [Keeps.refl]

theorem accessWork_stays (s : State) (q : AReq) (o : AOut) (pd : Option Nat) (whole : Bool) :
    Stays s (accessWork s q o pd whole) := by
  unfold accessWork
  grind [Stays.refl]
grind_pattern accessWork_stays => accessWork s q o pd whole

theorem performAccess_finishes (s : State) (q : AReq) (pd : Option Nat) (tab : Tab Nat) (xs : List (Nat × LaneX))
    (active : Mask) (lane : AOut → Nat → Place → AOut) (h : ∀ o i pl, Keeps o.s (lane o i pl).s) :
    Finishes s (performAccess s q pd tab xs active lane) := by
  unfold performAccess
  extract_lets g absent o s3 left eu s4 s5 s6
  have h3 : Keeps s s3 := (performLanes_keeps s q tab xs lane h).trans (afterLanes_keeps q xs o)
  clear_value o s3 left absent eu
  have h4 : Keeps s s4 := by grind
  have h6 : Keeps s s6 := by grind
  clear_value s4 s6
  split
  · exact finishes_done (trap_keeps _ _ _ _ _)
  split
  · exact finishes_done (h3.trans (by grind))
  · refine finishes_done (h6.trans ?_)
    split
    · exact (parkState_stays ..).keeps
    · exact parkPages_keeps ..

theorem accessGate_keeps (s : State) (q : AReq) (t : State) (h : accessGate s q = some t) : Keeps s t := by
  unfold accessGate at h
  simp only at h
  split at h
  · cases h; exact trap_keeps _ _ _ _ _
  split at h
  · cases h; exact trap_keeps _ _ _ _ _
  split at h
  · cases h; exact trap_keeps _ _ _ _ _
  split at h
  · cases h; exact (askRelease_stays ..).keeps.trans (hold_stays _ _).keeps
  · obtain ⟨a, -, rfl⟩ := Option.map_eq_some_iff.mp h
    exact trap_keeps _ _ _ _ _

theorem runAccess_finishes (s : State) (q : AReq) (pd : Option Nat) (lane : AOut → Nat → Place → AOut)
    (h : ∀ o i pl, Keeps o.s (lane o i pl).s) : Finishes s (runAccess s q pd lane) := by
  unfold runAccess
  extract_lets g active lanes r s1 bad w
  have h1 : Keeps s s1 := resolveLanes_keeps _ _ _ _
  have hw : Keeps s w.1 := h1.trans (readWords_keeps _ _ _ _)
  clear_value w
  split
  · exact finishes_done (accessGate_keeps _ _ _ ‹_›)
  split
  · extract_lets s2
    have h2 : Keeps s s2 := h1.trans (by grind [Keeps.refl])
    exact h2.finishes (finishes_done (trap_keeps _ _ _ _ _))
  split
  · exact finishes_done (h1.trans (by grind [Keeps.refl]))
  · split
    · exact finishes_done (hw.trans (trap_keeps _ _ _ _ _))
    · exact finishes_done (hw.trans (by grind))
    · exact hw.finishes (performAccess_finishes _ _ _ _ _ _ _ h)
    · exact hw.finishes (performAccess_finishes _ _ _ _ _ _ _ h)
theorem runAccess_ends (s : State) (q : AReq) (pd : Option Nat) (lane : AOut → Nat → Place → AOut)
    (h : ∀ o i pl, Keeps o.s (lane o i pl).s) : Ends s (runAccess s q pd lane) := (runAccess_finishes s q pd lane h).ends
grind_pattern runAccess_ends => runAccess s q pd lane

theorem completeFence_stays (s : State) (g as ss : Nat) (sq : Bool) : Stays s (completeFence s g as ss sq) := by
  unfold completeFence; grind [Keeps.refl, Stays.refl, Core.memWf]
grind_pattern completeFence_stays => completeFence s g as ss sq

theorem settleFences_stays (s : State) (g : Nat) : Stays s (settleFences s g) := by
  unfold settleFences; grind [Keeps.refl, Stays.refl, Core.memWf]
grind_pattern settleFences_stays => settleFences s g

theorem fetchAt_keeps (s : State) (g a : Nat) : Keeps s (fetchAt s g a).1 := by
  unfold fetchAt; grind [Keeps.refl, Stays.refl, Core.memWf]
grind_pattern fetchAt_keeps => fetchAt s g a

end Sys2Proof.Machine
end

