-- ==== Sys2Proof/Laws/KeepsInteger.lean ====
section
/-! SUPPORT. The operations of Machine/Integer.lean keep what every step keeps (Laws/KeepsBase.lean). -/

namespace Sys2Proof.Machine
open State

theorem execIadd_ends (f : FmtV) (s : State) : Ends s (execIadd f s) := by
  unfold execIadd; grind [Keeps.refl, Stays.refl, Core.memWf]
grind_pattern execIadd_ends => execIadd f s

theorem execIsub_ends (f : FmtV) (s : State) : Ends s (execIsub f s) := by
  unfold execIsub; grind [Keeps.refl, Stays.refl, Core.memWf]
grind_pattern execIsub_ends => execIsub f s

theorem execImul_ends (f : FmtV) (s : State) : Ends s (execImul f s) := by
  unfold execImul; grind [Keeps.refl, Stays.refl, Core.memWf]
grind_pattern execImul_ends => execImul f s

theorem execImad_ends (f : FmtV) (s : State) : Ends s (execImad f s) := by
  unfold execImad; grind [Keeps.refl, Stays.refl, Core.memWf]
grind_pattern execImad_ends => execImad f s

theorem execImulh_ends (f : FmtV) (s : State) : Ends s (execImulh f s) := by
  unfold execImulh; grind [Keeps.refl, Stays.refl, Core.memWf]
grind_pattern execImulh_ends => execImulh f s

theorem execIdiv_ends (f : FmtV) (s : State) : Ends s (execIdiv f s) := by
  unfold execIdiv; grind [Keeps.refl, Stays.refl, Core.memWf]
grind_pattern execIdiv_ends => execIdiv f s

theorem execIneg_ends (f : FmtV) (s : State) : Ends s (execIneg f s) := by
  unfold execIneg; grind [Keeps.refl, Stays.refl, Core.memWf]
grind_pattern execIneg_ends => execIneg f s

theorem execIabs_ends (f : FmtV) (s : State) : Ends s (execIabs f s) := by
  unfold execIabs; grind [Keeps.refl, Stays.refl, Core.memWf]
grind_pattern execIabs_ends => execIabs f s

theorem execImin_ends (f : FmtV) (s : State) : Ends s (execImin f s) := by
  unfold execImin; grind [Keeps.refl, Stays.refl, Core.memWf]
grind_pattern execImin_ends => execImin f s

theorem execImax_ends (f : FmtV) (s : State) : Ends s (execImax f s) := by
  unfold execImax; grind [Keeps.refl, Stays.refl, Core.memWf]
grind_pattern execImax_ends => execImax f s

theorem execAnd_ends (f : FmtV) (s : State) : Ends s (execAnd f s) := by
  unfold execAnd; grind [Keeps.refl, Stays.refl, Core.memWf]
grind_pattern execAnd_ends => execAnd f s

theorem execOr_ends (f : FmtV) (s : State) : Ends s (execOr f s) := by
  unfold execOr; grind [Keeps.refl, Stays.refl, Core.memWf]
grind_pattern execOr_ends => execOr f s

theorem execXor_ends (f : FmtV) (s : State) : Ends s (execXor f s) := by
  unfold execXor; grind [Keeps.refl, Stays.refl, Core.memWf]
grind_pattern execXor_ends => execXor f s

theorem execNot_ends (f : FmtV) (s : State) : Ends s (execNot f s) := by
  unfold execNot; grind [Keeps.refl, Stays.refl, Core.memWf]
grind_pattern execNot_ends => execNot f s

theorem execShl_ends (f : FmtV) (s : State) : Ends s (execShl f s) := by
  unfold execShl; grind [Keeps.refl, Stays.refl, Core.memWf]
grind_pattern execShl_ends => execShl f s

theorem execShr_ends (f : FmtV) (s : State) : Ends s (execShr f s) := by
  unfold execShr; grind [Keeps.refl, Stays.refl, Core.memWf]
grind_pattern execShr_ends => execShr f s

theorem execSar_ends (f : FmtV) (s : State) : Ends s (execSar f s) := by
  unfold execSar; grind [Keeps.refl, Stays.refl, Core.memWf]
grind_pattern execSar_ends => execSar f s

theorem execRot_ends (f : FmtV) (s : State) : Ends s (execRot f s) := by
  unfold execRot; grind [Keeps.refl, Stays.refl, Core.memWf]
grind_pattern execRot_ends => execRot f s

theorem execBfe_ends (f : FmtV) (s : State) : Ends s (execBfe f s) := by
  unfold execBfe; grind [Keeps.refl, Stays.refl, Core.memWf]
grind_pattern execBfe_ends => execBfe f s

theorem execBfi_ends (f : FmtV) (s : State) : Ends s (execBfi f s) := by
  unfold execBfi; grind [Keeps.refl, Stays.refl, Core.memWf]
grind_pattern execBfi_ends => execBfi f s

theorem execPopc_ends (f : FmtV) (s : State) : Ends s (execPopc f s) := by
  unfold execPopc; grind [Keeps.refl, Stays.refl, Core.memWf]
grind_pattern execPopc_ends => execPopc f s

theorem execClz_ends (f : FmtV) (s : State) : Ends s (execClz f s) := by
  unfold execClz; grind [Keeps.refl, Stays.refl, Core.memWf]
grind_pattern execClz_ends => execClz f s

theorem execCtz_ends (f : FmtV) (s : State) : Ends s (execCtz f s) := by
  unfold execCtz; grind [Keeps.refl, Stays.refl, Core.memWf]
grind_pattern execCtz_ends => execCtz f s

theorem execBrev_ends (f : FmtV) (s : State) : Ends s (execBrev f s) := by
  unfold execBrev; grind [Keeps.refl, Stays.refl, Core.memWf]
grind_pattern execBrev_ends => execBrev f s

theorem execIcmp_ends (f : FmtV) (s : State) : Ends s (execIcmp f s) := by
  unfold execIcmp; grind [Keeps.refl, Stays.refl, Core.memWf]
grind_pattern execIcmp_ends => execIcmp f s

theorem execSel_ends (f : FmtV) (s : State) : Ends s (execSel f s) := by
  unfold execSel; grind [Keeps.refl, Stays.refl, Core.memWf]
grind_pattern execSel_ends => execSel f s

theorem execMov_ends (f : FmtV) (s : State) : Ends s (execMov f s) := by
  unfold execMov; grind [Keeps.refl, Stays.refl, Core.memWf]
grind_pattern execMov_ends => execMov f s

theorem execLea_ends (f : FmtV) (s : State) : Ends s (execLea f s) := by
  unfold execLea; grind [Keeps.refl, Stays.refl, Core.memWf]
grind_pattern execLea_ends => execLea f s

theorem execPlog_ends (f : FmtV) (s : State) : Ends s (execPlog f s) := by
  unfold execPlog; grind [Keeps.refl, Stays.refl, Core.memWf]
grind_pattern execPlog_ends => execPlog f s

theorem execMovi_ends (f : FmtVI) (s : State) : Ends s (execMovi f s) := by
  unfold execMovi; grind [Keeps.refl, Stays.refl, Core.memWf]
grind_pattern execMovi_ends => execMovi f s

theorem execMovh_ends (f : FmtVI) (s : State) : Ends s (execMovh f s) := by
  unfold execMovh; grind [Keeps.refl, Stays.refl, Core.memWf]
grind_pattern execMovh_ends => execMovh f s

end Sys2Proof.Machine
end

