-- ==== Sys2Proof/Laws/KeepsLog.lean ====
section
/-! SUPPORT. The operations of Machine/Log.lean keep what every step keeps (Laws/KeepsBase.lean). -/

namespace Sys2Proof.Machine
open State

theorem execLmul_ends (f : FmtV) (s : State) : Ends s (execLmul f s) := by
  unfold execLmul; grind [Keeps.refl, Stays.refl, Core.memWf]
grind_pattern execLmul_ends => execLmul f s

theorem execLdiv_ends (f : FmtV) (s : State) : Ends s (execLdiv f s) := by
  unfold execLdiv; grind [Keeps.refl, Stays.refl, Core.memWf]
grind_pattern execLdiv_ends => execLdiv f s

theorem execLrcp_ends (f : FmtV) (s : State) : Ends s (execLrcp f s) := by
  unfold execLrcp; grind [Keeps.refl, Stays.refl, Core.memWf]
grind_pattern execLrcp_ends => execLrcp f s

theorem execLsqr_ends (f : FmtV) (s : State) : Ends s (execLsqr f s) := by
  unfold execLsqr; grind [Keeps.refl, Stays.refl, Core.memWf]
grind_pattern execLsqr_ends => execLsqr f s

theorem execLsqrt_ends (f : FmtV) (s : State) : Ends s (execLsqrt f s) := by
  unfold execLsqrt; grind [Keeps.refl, Stays.refl, Core.memWf]
grind_pattern execLsqrt_ends => execLsqrt f s

theorem execLpow_ends (f : FmtVI) (s : State) : Ends s (execLpow f s) := by
  unfold execLpow; grind [Keeps.refl, Stays.refl, Core.memWf]
grind_pattern execLpow_ends => execLpow f s

theorem execLscl_ends (f : FmtV) (s : State) : Ends s (execLscl f s) := by
  unfold execLscl; grind [Keeps.refl, Stays.refl, Core.memWf]
grind_pattern execLscl_ends => execLscl f s

theorem execLneg_ends (f : FmtV) (s : State) : Ends s (execLneg f s) := by
  unfold execLneg; grind [Keeps.refl, Stays.refl, Core.memWf]
grind_pattern execLneg_ends => execLneg f s

theorem execLabs_ends (f : FmtV) (s : State) : Ends s (execLabs f s) := by
  unfold execLabs; grind [Keeps.refl, Stays.refl, Core.memWf]
grind_pattern execLabs_ends => execLabs f s

theorem execLadd_ends (f : FmtV) (s : State) : Ends s (execLadd f s) := by
  unfold execLadd; grind [Keeps.refl, Stays.refl, Core.memWf]
grind_pattern execLadd_ends => execLadd f s

theorem execLsub_ends (f : FmtV) (s : State) : Ends s (execLsub f s) := by
  unfold execLsub; grind [Keeps.refl, Stays.refl, Core.memWf]
grind_pattern execLsub_ends => execLsub f s

theorem execLmad_ends (f : FmtV) (s : State) : Ends s (execLmad f s) := by
  unfold execLmad; grind [Keeps.refl, Stays.refl, Core.memWf]
grind_pattern execLmad_ends => execLmad f s

theorem execLmin_ends (f : FmtV) (s : State) : Ends s (execLmin f s) := by
  unfold execLmin; grind [Keeps.refl, Stays.refl, Core.memWf]
grind_pattern execLmin_ends => execLmin f s

theorem execLmax_ends (f : FmtV) (s : State) : Ends s (execLmax f s) := by
  unfold execLmax; grind [Keeps.refl, Stays.refl, Core.memWf]
grind_pattern execLmax_ends => execLmax f s

theorem execLcmp_ends (f : FmtV) (s : State) : Ends s (execLcmp f s) := by
  unfold execLcmp; grind [Keeps.refl, Stays.refl, Core.memWf]
grind_pattern execLcmp_ends => execLcmp f s

theorem execLcls_ends (f : FmtV) (s : State) : Ends s (execLcls f s) := by
  unfold execLcls; grind [Keeps.refl, Stays.refl, Core.memWf]
grind_pattern execLcls_ends => execLcls f s

theorem execLcvt_ends (f : FmtV) (s : State) : Ends s (execLcvt f s) := by
  unfold execLcvt; grind [Keeps.refl, Stays.refl, Core.memWf]
grind_pattern execLcvt_ends => execLcvt f s

theorem execLfi_ends (f : FmtV) (s : State) : Ends s (execLfi f s) := by
  unfold execLfi; grind [Keeps.refl, Stays.refl, Core.memWf]
grind_pattern execLfi_ends => execLfi f s

theorem execLti_ends (f : FmtV) (s : State) : Ends s (execLti f s) := by
  unfold execLti; grind [Keeps.refl, Stays.refl, Core.memWf]
grind_pattern execLti_ends => execLti f s

theorem execLxf_ends (f : FmtV) (s : State) : Ends s (execLxf f s) := by
  unfold execLxf; grind [Keeps.refl, Stays.refl, Core.memWf]
grind_pattern execLxf_ends => execLxf f s

theorem execLfx_ends (f : FmtV) (s : State) : Ends s (execLfx f s) := by
  unfold execLfx; grind [Keeps.refl, Stays.refl, Core.memWf]
grind_pattern execLfx_ends => execLfx f s

theorem execLexp2_ends (f : FmtV) (s : State) : Ends s (execLexp2 f s) := by
  unfold execLexp2; grind [Keeps.refl, Stays.refl, Core.memWf]
grind_pattern execLexp2_ends => execLexp2 f s

theorem execLlg2_ends (f : FmtV) (s : State) : Ends s (execLlg2 f s) := by
  unfold execLlg2; grind [Keeps.refl, Stays.refl, Core.memWf]
grind_pattern execLlg2_ends => execLlg2 f s

theorem execLpk_ends (f : FmtV) (s : State) : Ends s (execLpk f s) := by
  unfold execLpk; grind [Keeps.refl, Stays.refl, Core.memWf]
grind_pattern execLpk_ends => execLpk f s

theorem execLupk_ends (f : FmtV) (s : State) : Ends s (execLupk f s) := by
  unfold execLupk; grind [Keeps.refl, Stays.refl, Core.memWf]
grind_pattern execLupk_ends => execLupk f s

end Sys2Proof.Machine
end

