-- ==== Sys2Proof/Laws/KeepsScalar.lean ====
section
/-! SUPPORT. The operations of Machine/Scalar.lean keep what every step keeps (Laws/KeepsBase.lean). -/

namespace Sys2Proof.Machine
open State

theorem scalarRes_ends (s : State) (f : FmtS) (v : DWord) : Ends s (scalarRes s f v) := by
  unfold scalarRes; grind [Keeps.refl, Stays.refl, Core.memWf]
grind_pattern scalarRes_ends => scalarRes s f v

theorem scalarOp_ends (s : State) (f : FmtS) (op : DWord → DWord → DWord) : Ends s (scalarOp s f op) := by
  unfold scalarOp; grind [Keeps.refl, Stays.refl, Core.memWf]
grind_pattern scalarOp_ends => scalarOp s f op

theorem execSadd_ends (f : FmtS) (s : State) : Ends s (execSadd f s) := by
  unfold execSadd; grind [Keeps.refl, Stays.refl, Core.memWf]
grind_pattern execSadd_ends => execSadd f s

theorem execSsub_ends (f : FmtS) (s : State) : Ends s (execSsub f s) := by
  unfold execSsub; grind [Keeps.refl, Stays.refl, Core.memWf]
grind_pattern execSsub_ends => execSsub f s

theorem execSmul_ends (f : FmtS) (s : State) : Ends s (execSmul f s) := by
  unfold execSmul; grind [Keeps.refl, Stays.refl, Core.memWf]
grind_pattern execSmul_ends => execSmul f s

theorem execSand_ends (f : FmtS) (s : State) : Ends s (execSand f s) := by
  unfold execSand; grind [Keeps.refl, Stays.refl, Core.memWf]
grind_pattern execSand_ends => execSand f s

theorem execSor_ends (f : FmtS) (s : State) : Ends s (execSor f s) := by
  unfold execSor; grind [Keeps.refl, Stays.refl, Core.memWf]
grind_pattern execSor_ends => execSor f s

theorem execSxor_ends (f : FmtS) (s : State) : Ends s (execSxor f s) := by
  unfold execSxor; grind [Keeps.refl, Stays.refl, Core.memWf]
grind_pattern execSxor_ends => execSxor f s

theorem execSshl_ends (f : FmtS) (s : State) : Ends s (execSshl f s) := by
  unfold execSshl; grind [Keeps.refl, Stays.refl, Core.memWf]
grind_pattern execSshl_ends => execSshl f s

theorem execSshr_ends (f : FmtS) (s : State) : Ends s (execSshr f s) := by
  unfold execSshr; grind [Keeps.refl, Stays.refl, Core.memWf]
grind_pattern execSshr_ends => execSshr f s

theorem execScmp_ends (f : FmtS) (s : State) : Ends s (execScmp f s) := by
  unfold execScmp; grind [Keeps.refl, Stays.refl, Core.memWf]
grind_pattern execScmp_ends => execScmp f s

theorem execSmov_ends (f : FmtS) (s : State) : Ends s (execSmov f s) := by
  unfold execSmov; grind [Keeps.refl, Stays.refl, Core.memWf]
grind_pattern execSmov_ends => execSmov f s

theorem execSmovi_ends (f : FmtS) (s : State) : Ends s (execSmovi f s) := by
  unfold execSmovi; grind [Keeps.refl, Stays.refl, Core.memWf]
grind_pattern execSmovi_ends => execSmovi f s

theorem execSld_ends (f : FmtS) (s : State) : Ends s (execSld f s) := by
  unfold execSld; grind [Keeps.refl, Stays.refl, Core.memWf]
grind_pattern execSld_ends => execSld f s

theorem execSst_ends (f : FmtS) (s : State) : Ends s (execSst f s) := by
  unfold execSst; grind [Keeps.refl, Stays.refl, Core.memWf]
grind_pattern execSst_ends => execSst f s

theorem execSbfe_ends (f : FmtS) (s : State) : Ends s (execSbfe f s) := by
  unfold execSbfe; grind [Keeps.refl, Stays.refl, Core.memWf]
grind_pattern execSbfe_ends => execSbfe f s

theorem execSsel_ends (f : FmtS) (s : State) : Ends s (execSsel f s) := by
  unfold execSsel; grind [Keeps.refl, Stays.refl, Core.memWf]
grind_pattern execSsel_ends => execSsel f s

theorem execSlea_ends (f : FmtS) (s : State) : Ends s (execSlea f s) := by
  unfold execSlea; grind [Keeps.refl, Stays.refl, Core.memWf]
grind_pattern execSlea_ends => execSlea f s

end Sys2Proof.Machine
end

