-- ==== Sys2Proof/Laws/KeepsLanes.lean ====
section
/-! SUPPORT. The operations of Machine/Lanes.lean keep what every step keeps (Laws/KeepsBase.lean). -/

namespace Sys2Proof.Machine
open State

theorem execShfl_ends (f : FmtV) (s : State) : Ends s (execShfl f s) := by
  unfold execShfl; grind [Keeps.refl, Stays.refl, Core.memWf]
grind_pattern execShfl_ends => execShfl f s

theorem execMatchV_ends (f : FmtV) (s : State) : Ends s (execMatchV f s) := by
  unfold execMatchV; grind [Keeps.refl, Stays.refl, Core.memWf]
grind_pattern execMatchV_ends => execMatchV f s

theorem execVote_ends (f : FmtV) (s : State) : Ends s (execVote f s) := by
  unfold execVote; grind [Keeps.refl, Stays.refl, Core.memWf]
grind_pattern execVote_ends => execVote f s

theorem execScan_ends (f : FmtV) (s : State) : Ends s (execScan f s) := by
  unfold execScan; grind [Keeps.refl, Stays.refl, Core.memWf]
grind_pattern execScan_ends => execScan f s

theorem execRedux_ends (f : FmtV) (s : State) : Ends s (execRedux f s) := by
  unfold execRedux; grind [Keeps.refl, Stays.refl, Core.memWf]
grind_pattern execRedux_ends => execRedux f s

theorem execBcast_ends (f : FmtV) (s : State) : Ends s (execBcast f s) := by
  unfold execBcast; grind [Keeps.refl, Stays.refl, Core.memWf]
grind_pattern execBcast_ends => execBcast f s

end Sys2Proof.Machine
end

