-- ==== Sys2Proof/Laws/KeepsMemory.lean ====
section
/-! SUPPORT. The operations of Machine/Memory.lean keep what every step keeps (Laws/KeepsBase.lean). -/

namespace Sys2Proof.Machine
open State

theorem laneDone_stays (o : AOut) (s : State) (vs : List VRes) (fl : BitVec 4) : Stays s (laneDone o s vs fl).s := by
  unfold laneDone; grind [Keeps.refl, Stays.refl, Core.memWf]
grind_pattern laneDone_stays => laneDone o s vs fl

theorem laneWrong_stays (o : AOut) (s : State) (i : Nat) (pl : Place) : Stays s (laneWrong o s i pl).s := by
  unfold laneWrong; grind [Keeps.refl, Stays.refl, Core.memWf]
grind_pattern laneWrong_stays => laneWrong o s i pl

theorem ldLane_keeps (g : Nat) (f : FmtM) (o : AOut) (i : Nat) (pl : Place) : Keeps o.s (ldLane g f o i pl).s := by
  unfold ldLane; grind [Keeps.refl, Stays.refl, Core.memWf]
grind_pattern ldLane_keeps => ldLane g f o i pl

theorem execLd_ends (f : FmtM) (s : State) : Ends s (execLd f s) :=
  runAccess_ends _ _ _ _ fun o i pl => ldLane_keeps _ _ o i pl
grind_pattern execLd_ends => execLd f s

theorem stLane_keeps (s : State) (f : FmtM) (o : AOut) (i : Nat) (pl : Place) : Keeps o.s (stLane s f o i pl).s := by
  unfold stLane; grind [Keeps.refl, Stays.refl, Core.memWf]
grind_pattern stLane_keeps => stLane s f o i pl

theorem execSt_ends (f : FmtM) (s : State) : Ends s (execSt f s) :=
  runAccess_ends _ _ _ _ fun o i pl => stLane_keeps _ _ o i pl
grind_pattern execSt_ends => execSt f s

theorem ldcLane_keeps (s : State) (f : FmtM) (o : AOut) (i : Nat) (pl : Place) : Keeps o.s (ldcLane s f o i pl).s := by
  unfold ldcLane; grind [Keeps.refl, Stays.refl, Core.memWf]
grind_pattern ldcLane_keeps => ldcLane s f o i pl

theorem execLdc_ends (f : FmtM) (s : State) : Ends s (execLdc f s) :=
  runAccess_ends _ _ _ _ fun o i pl => ldcLane_keeps _ _ o i pl
grind_pattern execLdc_ends => execLdc f s

theorem stcLane_keeps (s : State) (f : FmtM) (o : AOut) (i : Nat) (pl : Place) : Keeps o.s (stcLane s f o i pl).s := by
  unfold stcLane; grind [Keeps.refl, Stays.refl, Core.memWf]
grind_pattern stcLane_keeps => stcLane s f o i pl

theorem execStc_ends (f : FmtM) (s : State) : Ends s (execStc f s) :=
  runAccess_ends _ _ _ _ fun o i pl => stcLane_keeps _ _ o i pl
grind_pattern execStc_ends => execStc f s

theorem festLane_keeps (s : State) (g as n : Nat) (full : Bool) (pl : Place) : Keeps s (festLane s g as n full pl) := by
  unfold festLane; grind [Keeps.refl, Stays.refl, Core.memWf]
grind_pattern festLane_keeps => festLane s g as n full pl

theorem festOp_ends (s : State) (f : FmtM) (full : Bool) : Ends s (festOp s f full) := by
  unfold festOp; grind [Keeps.refl, Stays.refl, Core.memWf]
grind_pattern festOp_ends => festOp s f full

theorem execFestFull_ends (f : FmtM) (s : State) : Ends s (execFestFull f s) := by
  unfold execFestFull; grind [Keeps.refl, Stays.refl, Core.memWf]
grind_pattern execFestFull_ends => execFestFull f s

theorem execFestEmpty_ends (f : FmtM) (s : State) : Ends s (execFestEmpty f s) := by
  unfold execFestEmpty; grind [Keeps.refl, Stays.refl, Core.memWf]
grind_pattern execFestEmpty_ends => execFestEmpty f s

theorem feqLane_stays (s : State) (g as n : Nat) (pl : Place) : Stays s (feqLane s g as n pl).1 := by
  unfold feqLane; grind [Keeps.refl, Stays.refl, Core.memWf]
grind_pattern feqLane_stays => feqLane s g as n pl

theorem feqPut_keeps (g : Nat) (f : FmtM) (o : AOut) (i : Nat) (pl : Place) : Keeps o.s (feqPut g f o i pl).s := by
  unfold feqPut; grind [Keeps.refl, Stays.refl, Core.memWf]
grind_pattern feqPut_keeps => feqPut g f o i pl

theorem execFeq_ends (f : FmtM) (s : State) : Ends s (execFeq f s) :=
  runAccess_ends _ _ _ _ fun o i pl => feqPut_keeps _ _ o i pl
grind_pattern execFeq_ends => execFeq f s

theorem prefetchLine_keeps (s : State) (g as : Nat) (p : Phys) : Keeps s (prefetchLine s g as p) := by
  unfold prefetchLine; grind [Keeps.refl, Stays.refl, Core.memWf]
grind_pattern prefetchLine_keeps => prefetchLine s g as p

theorem execPf_ends (f : FmtM) (s : State) : Ends s (execPf f s) := by
  unfold execPf; grind [Keeps.refl, Stays.refl, Core.memWf]
grind_pattern execPf_ends => execPf f s

theorem discardLine_stays (s : State) (line : Nat) : Stays s (discardLine s line) := by
  unfold discardLine
  extract_lets s0 keep s1
  have h0 : Stays s s0 := promoteFrom_stays _ _ _
  have h1 : Stays s s1 := h0.trans (.mapped (fun e => keep e.2) (fun _ h => h) rfl rfl rfl rfl rfl rfl)
  clear_value s1
  grind
grind_pattern discardLine_stays => discardLine s line

theorem lineLane_keeps (op : State → Nat → State) (h : ∀ s pa, Keeps s (op s pa)) (o : AOut) (i : Nat) (pl : Place) :
    Keeps o.s (lineLane op o i pl).s := by
  unfold lineLane; grind [Keeps.refl]

theorem execDsc_ends (f : FmtM) (s : State) : Ends s (execDsc f s) :=
  runAccess_ends _ _ _ _ (lineLane_keeps _ fun s _ => (discardLine_stays s _).keeps)
grind_pattern execDsc_ends => execDsc f s

theorem writeBackLine_stays (s : State) (c as line : Nat) : Stays s (writeBackLine s c as line) := by
  unfold writeBackLine; grind [Keeps.refl, Stays.refl, Core.memWf]
grind_pattern writeBackLine_stays => writeBackLine s c as line

theorem execWbk_ends (f : FmtM) (s : State) : Ends s (execWbk f s) :=
  runAccess_ends _ _ _ _ (lineLane_keeps _ fun s _ => (writeBackLine_stays s _ _ _).keeps)
grind_pattern execWbk_ends => execWbk f s

theorem execLinv_ends (f : FmtM) (s : State) : Ends s (execLinv f s) :=
  runAccess_ends _ _ _ _ (lineLane_keeps _ fun s _ => (l1Purge_stays s _ _).keeps)
grind_pattern execLinv_ends => execLinv f s

end Sys2Proof.Machine
end

