-- ==== Sys2Proof/Laws/KeepsAtomic.lean ====
section
/-! SUPPORT. The operations of Machine/Atomic.lean keep what every step keeps (Laws/KeepsBase.lean). -/

namespace Sys2Proof.Machine
open State

theorem atomTravel_stays (s : State) (g : Nat) (f : FmtA) (tr : Travel) (p : Phys) (mates : List Nat) : Stays s (atomTravel s g f tr p mates) := by
  unfold atomTravel; grind [Keeps.refl, Stays.refl, Core.memWf]
grind_pattern atomTravel_stays => atomTravel s g f tr p mates

theorem atomLane_keeps (s0 : State) (f : FmtA) (q : AReq) (tr : Travel) (op : Nat → Nat → Nat → Nat × Flags) (o : AOut) (i : Nat) (pl : Place) : Keeps o.s (atomLane s0 f q tr op o i pl).s := by
  unfold atomLane; grind [Keeps.refl, Stays.refl, Core.memWf]
grind_pattern atomLane_keeps => atomLane s0 f q tr op o i pl

theorem atomLanes_keeps (s : State) (f : FmtA) (b c : Bool) (tr : Travel) (op : Nat → Nat → Nat → Nat × Flags) (o : AOut) (i : Nat) (pl : Place) : Keeps o.s (atomLanes s f b c tr op o i pl).s := by
  unfold atomLanes; grind [Keeps.refl, Stays.refl, Core.memWf]

theorem atomOp_ends (s : State) (f : FmtA) (b c : Bool) (tr : Travel) (op : Nat → Nat → Nat → Nat × Flags) : Ends s (atomOp s f b c tr op) := by
  exact runAccess_ends _ _ _ _ fun o i pl => atomLanes_keeps _ _ _ _ _ _ o i pl
grind_pattern atomOp_ends => atomOp s f b c tr op

theorem execAadd_ends (f : FmtA) (s : State) : Ends s (execAadd f s) := by
  unfold execAadd; grind [Keeps.refl, Stays.refl, Core.memWf]
grind_pattern execAadd_ends => execAadd f s

theorem execAmin_ends (f : FmtA) (s : State) : Ends s (execAmin f s) := by
  unfold execAmin; grind [Keeps.refl, Stays.refl, Core.memWf]
grind_pattern execAmin_ends => execAmin f s

theorem execAmax_ends (f : FmtA) (s : State) : Ends s (execAmax f s) := by
  unfold execAmax; grind [Keeps.refl, Stays.refl, Core.memWf]
grind_pattern execAmax_ends => execAmax f s

theorem execAand_ends (f : FmtA) (s : State) : Ends s (execAand f s) := by
  unfold execAand; grind [Keeps.refl, Stays.refl, Core.memWf]
grind_pattern execAand_ends => execAand f s

theorem execAor_ends (f : FmtA) (s : State) : Ends s (execAor f s) := by
  unfold execAor; grind [Keeps.refl, Stays.refl, Core.memWf]
grind_pattern execAor_ends => execAor f s

theorem execAxor_ends (f : FmtA) (s : State) : Ends s (execAxor f s) := by
  unfold execAxor; grind [Keeps.refl, Stays.refl, Core.memWf]
grind_pattern execAxor_ends => execAxor f s

theorem execAxchg_ends (f : FmtA) (s : State) : Ends s (execAxchg f s) := by
  unfold execAxchg; grind [Keeps.refl, Stays.refl, Core.memWf]
grind_pattern execAxchg_ends => execAxchg f s

theorem execAcas_ends (f : FmtA) (s : State) : Ends s (execAcas f s) := by
  unfold execAcas; grind [Keeps.refl, Stays.refl, Core.memWf]
grind_pattern execAcas_ends => execAcas f s

theorem execAdecp_ends (f : FmtA) (s : State) : Ends s (execAdecp f s) := by
  unfold execAdecp; grind [Keeps.refl, Stays.refl, Core.memWf]
grind_pattern execAdecp_ends => execAdecp f s

theorem execAfmax_ends (f : FmtA) (s : State) : Ends s (execAfmax f s) := by
  unfold execAfmax; grind [Keeps.refl, Stays.refl, Core.memWf]
grind_pattern execAfmax_ends => execAfmax f s

theorem execLadda_ends (f : FmtA) (s : State) : Ends s (execLadda f s) := by
  unfold execLadda; grind [Keeps.refl, Stays.refl, Core.memWf]
grind_pattern execLadda_ends => execLadda f s

theorem refuseAtomic_keeps (s : State) (g : Nat) (p : Pend) : Keeps s (refuseAtomic s g p) := by
  unfold refuseAtomic; grind [Keeps.refl, Stays.refl, Core.memWf]
grind_pattern refuseAtomic_keeps => refuseAtomic s g p

theorem deliverNo_keeps (s : State) (g n : Nat) (ks : List PKind) : Keeps s (deliverNo s g n ks) := by
  unfold deliverNo; grind [Keeps.refl, Stays.refl, Core.memWf]
grind_pattern deliverNo_keeps => deliverNo s g n ks

theorem execAtomicReturn_ends (core slot n : Nat) (s : State) : Ends s (execAtomicReturn core slot n s) := by
  unfold execAtomicReturn; grind [Keeps.refl, Stays.refl, Core.memWf]
grind_pattern execAtomicReturn_ends => execAtomicReturn core slot n s

theorem execLoadDataReturn_ends (core slot n : Nat) (s : State) : Ends s (execLoadDataReturn core slot n s) := by
  unfold execLoadDataReturn; grind [Keeps.refl, Stays.refl, Core.memWf]
grind_pattern execLoadDataReturn_ends => execLoadDataReturn core slot n s

theorem execStoreAck_ends (core slot n : Nat) (s : State) : Ends s (execStoreAck core slot n s) := by
  unfold execStoreAck; grind [Keeps.refl, Stays.refl, Core.memWf]
grind_pattern execStoreAck_ends => execStoreAck core slot n s

theorem execQueuePopDelivery_ends (core slot n : Nat) (s : State) : Ends s (execQueuePopDelivery core slot n s) := by
  unfold execQueuePopDelivery; grind [Keeps.refl, Stays.refl, Core.memWf]
grind_pattern execQueuePopDelivery_ends => execQueuePopDelivery core slot n s

end Sys2Proof.Machine
end

