-- ==== Sys2Proof/Laws/KeepsControl.lean ====
section
/-! SUPPORT. The operations of Machine/Control.lean keep what every step keeps (Laws/KeepsBase.lean). -/

namespace Sys2Proof.Machine
open State

theorem controlNext_ends (s : State) (g : Nat) : Ends s (controlNext s g) := by
  unfold controlNext; grind [Keeps.refl, Stays.refl, Core.memWf]
grind_pattern controlNext_ends => controlNext s g

theorem goTo_ends (s : State) (g target : Nat) (lanes : Mask) (upd : Group → Group) : Ends s (goTo s g target lanes upd) := by
  unfold goTo; grind [Keeps.refl, Stays.refl, Core.memWf]
grind_pattern goTo_ends => goTo s g target lanes upd

theorem checkFetched_keeps (s : State) (g a : Nat) (t : Mask) (need : Header → Bool) (x : FetchX) :
    Keeps s (checkFetched s g a t need x).1 := by
  unfold checkFetched; grind [Keeps.refl, Core.memWf]
grind_pattern checkFetched_keeps => checkFetched s g a t need x

theorem checkPark_keeps (s : State) (g a : Nat) : Keeps s (checkPark s g a) := by
  unfold checkPark; grind [Keeps.refl, Core.memWf]
grind_pattern checkPark_keeps => checkPark s g a

theorem clauseCheck_keeps (s : State) (g a : Nat) (t : Mask) (need : Header → Bool) : Keeps s (clauseCheck s g a t need).1 := by
  unfold clauseCheck; grind [Keeps.refl, Core.memWf]
grind_pattern clauseCheck_keeps => clauseCheck s g a t need

theorem joinCheck_keeps (s : State) (g a : Nat) (t : Mask) : Keeps s (joinCheck s g a t).1 := by
  unfold joinCheck; grind [Keeps.refl]
grind_pattern joinCheck_keeps => joinCheck s g a t

theorem checkFetched_noMem (s : State) (g a : Nat) (t : Mask) (need : Header → Bool) (x : FetchX)
    (h : (checkFetched s g a t need x).2 = true) : (checkFetched s g a t need x).1.noMem = none := by
  cases x with
  | ok w =>
    simp only [checkFetched] at *
    split at h
    · rw [if_pos ‹_›]; exact Option.isNone_iff_eq_none.mp h
    · cases h
  | _ => cases h

/-- An address that passes the check of a `brx` leaves no access beyond device memory standing. -/
theorem clauseCheck_noMem (s : State) (g a : Nat) (t : Mask) (need : Header → Bool)
    (h : (clauseCheck s g a t need).2 = true) (n : s.noMem = none) : (clauseCheck s g a t need).1.noMem = none := by
  unfold clauseCheck at *
  grind [checkFetched_noMem]

theorem targetCheck_keeps (s : State) (g a : Nat) (t : Mask) : Keeps s (targetCheck s g a t).1 := by
  unfold targetCheck; grind [Keeps.refl]
grind_pattern targetCheck_keeps => targetCheck s g a t

theorem targetCheck_noMem (s : State) (g a : Nat) (t : Mask) (h : (targetCheck s g a t).2 = true) (n : s.noMem = none) :
    (targetCheck s g a t).1.noMem = none := by
  unfold targetCheck at *
  grind [clauseCheck_noMem]

theorem execNop_ends (_f : FmtY) (s : State) : Ends s (execNop _f s) := by
  unfold execNop; grind [Keeps.refl, Stays.refl, Core.memWf]
grind_pattern execNop_ends => execNop _f s

theorem execBra_ends (f : FmtB) (s : State) : Ends s (execBra f s) := by
  unfold execBra; grind [Keeps.refl, Stays.refl, Core.memWf]
grind_pattern execBra_ends => execBra f s

theorem execBrx_ends (f : FmtB) (s : State) : Ends s (execBrx f s) := by
  unfold execBrx
  extract_lets g x t off target join j s1
  have h : Keeps s s1 := joinCheck_keeps _ _ _ _
  have n : j.2 = true → s.noMem = none → s1.noMem = none := clauseCheck_noMem _ _ _ _ _
  clear_value s1 j
  split
  · exact ends_done h
  · refine h.ends (n (by simp_all)) ?_
    grind [Keeps.refl, Stays.refl, Core.memWf]
grind_pattern execBrx_ends => execBrx f s

theorem discardK_stays (s : State) (g : Nat) : Stays s (discardK s g) := by
  unfold discardK; grind [Stays.refl, Core.memWf]
grind_pattern discardK_stays => discardK s g

theorem execBrxRegroup_ends (f : FmtB) (s : State) : Ends s (execBrxRegroup f s) := by
  unfold execBrxRegroup
  extract_lets g x t target join j s1
  have h : Keeps s s1 := joinCheck_keeps _ _ _ _
  have n : j.2 = true → s.noMem = none → s1.noMem = none := clauseCheck_noMem _ _ _ _ _
  clear_value s1 j
  split
  · exact ends_done h
  split
  · exact ends_done (h.trans (trap_keeps ..))
  rename_i j2 s2 s3 goal s4 s5 _ _
  have h2 : Keeps s s2 := h.trans (targetCheck_keeps _ _ _ _)
  have n2 : j2.2 = true → s1.noMem = none → s2.noMem = none := targetCheck_noMem _ _ _ _
  clear_value s2 j2
  have h5 : Stays s2 s5 := by grind [Stays.refl]
  clear_value s5
  split
  · exact ends_done h2
  · refine h2.ends (by grind) ?_
    grind [Keeps.refl, Stays.refl, Core.memWf]
grind_pattern execBrxRegroup_ends => execBrxRegroup f s

theorem wakeAt_stays (s : State) (g : Nat) (c : Cause) : Stays s (wakeAt s g c) := by
  unfold wakeAt; grind [Keeps.refl, Stays.refl, Core.memWf]
grind_pattern wakeAt_stays => wakeAt s g c

theorem loadThreads_stays (s : State) (t : Team) (g : Nat) (m : Tab Nat) : Stays s (loadThreads s t g m) := by
  unfold loadThreads; grind [Keeps.refl, Stays.refl, Core.memWf]
grind_pattern loadThreads_stays => loadThreads s t g m

theorem formBatch_stays (s : State) (tm : Nat) : Stays s (formBatch s tm) := by
  unfold formBatch; grind [Keeps.refl, Stays.refl, Core.memWf]
grind_pattern formBatch_stays => formBatch s tm

theorem execRegroupRendezvous_ends (team : Nat) (s : State) : Ends s (execRegroupRendezvous team s) := by
  unfold execRegroupRendezvous; grind [Keeps.refl, Stays.refl, Core.memWf]
grind_pattern execRegroupRendezvous_ends => execRegroupRendezvous team s

theorem gather_stays (s : State) (tm g : Nat) : Stays s (gather s tm g) := by
  unfold gather; grind [Keeps.refl, Stays.refl, Core.memWf]
grind_pattern gather_stays => gather s tm g

theorem resumeOrigin_stays (tm : Nat) (s : State) (e : Nat × Group) : Stays s (resumeOrigin tm s e) := by
  unfold resumeOrigin; grind [Keeps.refl, Stays.refl, Core.memWf]
grind_pattern resumeOrigin_stays => resumeOrigin tm s e

theorem execRegroupRejoin_ends (team : Nat) (s : State) : Ends s (execRegroupRejoin team s) := by
  unfold execRegroupRejoin; grind [Keeps.refl, Stays.refl, Core.memWf]
grind_pattern execRegroupRejoin_ends => execRegroupRejoin team s

theorem reachRejoin_ends (s : State) (g : Nat) (completed : Bool) : Ends s (reachRejoin s g completed) := by
  unfold reachRejoin; grind [Keeps.refl, Stays.refl, Core.memWf]
grind_pattern reachRejoin_ends => reachRejoin s g completed

theorem atSlotOne_stays (s : State) (g join : Nat) : Stays s (atSlotOne s g join) := by
  unfold atSlotOne; grind [Keeps.refl, Stays.refl, Core.memWf]
grind_pattern atSlotOne_stays => atSlotOne s g join

theorem execJoin_ends (_f : FmtY) (s : State) : Ends s (execJoin _f s) := by
  unfold execJoin; grind [Keeps.refl, Stays.refl, Core.memWf]
grind_pattern execJoin_ends => execJoin _f s

theorem execCall_ends (f : FmtB) (s : State) : Ends s (execCall f s) := by
  unfold execCall; grind [Keeps.refl, Stays.refl, Core.memWf]
grind_pattern execCall_ends => execCall f s

theorem returnOf_ends (s : State) (g : Nat) : Ends s (returnOf s g) := by
  unfold returnOf; grind [Keeps.refl, Stays.refl, Core.memWf]
grind_pattern returnOf_ends => returnOf s g

theorem execRet_ends (_f : FmtY) (s : State) : Ends s (execRet _f s) := by
  unfold execRet; grind [Keeps.refl, Stays.refl, Core.memWf]
grind_pattern execRet_ends => execRet _f s

theorem execJmpi_ends (f : FmtS) (s : State) : Ends s (execJmpi f s) := by
  unfold execJmpi; grind [Keeps.refl, Stays.refl, Core.memWf]
grind_pattern execJmpi_ends => execJmpi f s

theorem execLoop_ends (f : FmtS) (s : State) : Ends s (execLoop f s) := by
  unfold execLoop; grind [Keeps.refl, Stays.refl, Core.memWf]
grind_pattern execLoop_ends => execLoop f s

theorem beginExit_stays (s : State) (g : Nat) : Stays s (beginExit s g) := by
  unfold beginExit; grind [Keeps.refl, Stays.refl, Core.memWf]
grind_pattern beginExit_stays => beginExit s g

theorem execExit_ends (f : FmtY) (s : State) : Ends s (execExit f s) := by
  unfold execExit; grind [Keeps.refl, Stays.refl, Core.memWf]
grind_pattern execExit_ends => execExit f s

theorem execYield_ends (_f : FmtY) (s : State) : Ends s (execYield _f s) := by
  unfold execYield; grind [Keeps.refl, Stays.refl, Core.memWf]
grind_pattern execYield_ends => execYield _f s

theorem execEmovGet_ends (f : FmtY) (s : State) : Ends s (execEmovGet f s) := by
  unfold execEmovGet; grind [Keeps.refl, Stays.refl, Core.memWf]
grind_pattern execEmovGet_ends => execEmovGet f s

theorem execEmovSet_ends (f : FmtY) (s : State) : Ends s (execEmovSet f s) := by
  unfold execEmovSet; grind [Keeps.refl, Stays.refl, Core.memWf]
grind_pattern execEmovSet_ends => execEmovSet f s

theorem execEmovPred_ends (f : FmtY) (s : State) : Ends s (execEmovPred f s) := by
  unfold execEmovPred; grind [Keeps.refl, Stays.refl, Core.memWf]
grind_pattern execEmovPred_ends => execEmovPred f s

theorem execEmovLive_ends (f : FmtY) (s : State) : Ends s (execEmovLive f s) := by
  unfold execEmovLive; grind [Keeps.refl, Stays.refl, Core.memWf]
grind_pattern execEmovLive_ends => execEmovLive f s

theorem trapInstr_ends (s : State) (f : FmtY) (code : Nat) : Ends s (trapInstr s f code) := by
  unfold trapInstr; grind [Keeps.refl, Stays.refl, Core.memWf]
grind_pattern trapInstr_ends => trapInstr s f code

theorem execTrap_ends (f : FmtY) (s : State) : Ends s (execTrap f s) := by
  unfold execTrap; grind [Keeps.refl, Stays.refl, Core.memWf]
grind_pattern execTrap_ends => execTrap f s

theorem execBrk_ends (f : FmtY) (s : State) : Ends s (execBrk f s) := by
  unfold execBrk; grind [Keeps.refl, Stays.refl, Core.memWf]
grind_pattern execBrk_ends => execBrk f s

theorem execTret_ends (_f : FmtY) (s : State) : Ends s (execTret _f s) := by
  unfold execTret; grind [Keeps.refl, Stays.refl, Core.memWf]
grind_pattern execTret_ends => execTret _f s

theorem execMpt_ends (_f : FmtY) (s : State) : Ends s (execMpt _f s) := by
  unfold execMpt; grind [Keeps.refl, Stays.refl, Core.memWf]
grind_pattern execMpt_ends => execMpt _f s

end Sys2Proof.Machine
end

