-- ==== Sys2Proof/Laws/KeepsMatrix.lean ====
section
/-! SUPPORT. The operations of Machine/Matrix.lean keep what every step keeps (Laws/KeepsBase.lean). -/

namespace Sys2Proof.Machine
open State

theorem latchPut_stays (s : State) (g d : Nat) (vs : List (Nat × Nat × Word)) : Stays s (latchPut s g d vs) := by
  unfold latchPut; grind [Keeps.refl, Stays.refl, Core.memWf]
grind_pattern latchPut_stays => latchPut s g d vs

theorem latchFree_stays (s : State) (g d : Nat) : Stays s (latchFree s g d).1 := by
  unfold latchFree; grind [Keeps.refl, Stays.refl, Core.memWf]
grind_pattern latchFree_stays => latchFree s g d

theorem finishMatrix_stays (s : State) (g d : Nat) (vs : List (Nat × Nat × Word)) (fl : Flags) (cq : Option QEntry) (eu : Nat) : Stays s (finishMatrix s g d vs fl cq eu) := by
  unfold finishMatrix; grind [Keeps.refl, Stays.refl, Core.memWf]
grind_pattern finishMatrix_stays => finishMatrix s g d vs fl cq eu

theorem matDo_stays (s : State) (f : FmtX) (set : Bool) (m : MFmt) (slices : List Nat) : Stays s (matDo s f set m slices) := by
  unfold matDo; grind [Stays.refl, Core.memWf]
grind_pattern matDo_stays => matDo s f set m slices

theorem creditGone_stays (s : State) (g : Nat) : Stays s (creditGone s g) := by
  unfold creditGone; grind [Stays.refl, Core.memWf]
grind_pattern creditGone_stays => creditGone s g

theorem matMul_ends (s : State) (f : FmtX) (set : Bool) : Ends s (matMul s f set) := by
  unfold matMul
  extract_lets
  repeat' split
  all_goals grind [Core.memWf]
grind_pattern matMul_ends => matMul s f set

theorem execMmla_ends (f : FmtX) (s : State) : Ends s (execMmla f s) := by
  unfold execMmla; grind [Keeps.refl, Stays.refl, Core.memWf]
grind_pattern execMmla_ends => execMmla f s

theorem execMmls_ends (f : FmtX) (s : State) : Ends s (execMmls f s) := by
  unfold execMmls; grind [Keeps.refl, Stays.refl, Core.memWf]
grind_pattern execMmls_ends => execMmls f s

theorem accOp_ends (s : State) (f : FmtX) (load : Bool) (srcs : List (Nat × Nat)) (op : Nat → Word → Word × Flags) :
    Ends s (accOp s f load srcs op) := by
  unfold accOp; grind [Keeps.refl, Stays.refl, Core.memWf]
grind_pattern accOp_ends => accOp s f load srcs op

theorem execMclr_ends (f : FmtX) (s : State) : Ends s (execMclr f s) := by
  unfold execMclr; grind [Keeps.refl, Stays.refl, Core.memWf]
grind_pattern execMclr_ends => execMclr f s

theorem execMscl_ends (f : FmtX) (s : State) : Ends s (execMscl f s) := by
  unfold execMscl; grind [Keeps.refl, Stays.refl, Core.memWf]
grind_pattern execMscl_ends => execMscl f s

theorem writeChain_stays (s : State) (core : Nat) : Stays s (writeChain s core) := by
  unfold writeChain; grind [Keeps.refl, Stays.refl, Core.memWf]
grind_pattern writeChain_stays => writeChain s core

theorem execMatrixWriteBack_ends (core : Nat) (s : State) : Ends s (execMatrixWriteBack core s) := by
  unfold execMatrixWriteBack; grind [Keeps.refl, Stays.refl, Core.memWf]
grind_pattern execMatrixWriteBack_ends => execMatrixWriteBack core s

theorem execMldb_ends (f : FmtX) (s : State) : Ends s (execMldb f s) := by
  unfold execMldb
  extract_lets g x c t e n vb cq limit phys copy s1 entry s2 s3
  have fold : ∀ (l : List Nat) (v : Mem), Mem.wf v = true → Mem.wf (l.foldl copy v) = true := by
    intro l
    induction l with
    | nil => exact fun _ h => h
    | cons a r ih => exact fun v h => ih _ (mset_wf _ _ h)
  have h1 : Stays s s1 := modCore_stays s _ _ fun k h => by
    simp only [Core.memWf, Bool.and_eq_true] at h ⊢
    exact ⟨⟨⟨h.1.1.1, fold _ _ h.1.1.2⟩, h.1.2⟩, h.2⟩
  have h3 : Stays s s3 := by clear_value s1; grind
  clear_value s3 s1
  repeat' split
  all_goals grind
grind_pattern execMldb_ends => execMldb f s

theorem execMldbComplete_ends (core slot n : Nat) (s : State) : Ends s (execMldbComplete core slot n s) := by
  unfold execMldbComplete; grind [Keeps.refl, Stays.refl, Core.memWf]
grind_pattern execMldbComplete_ends => execMldbComplete core slot n s

theorem mstatResult_stays (s : State) (f : FmtX) (v : DWord) : Stays s (mstatResult s f v) := by
  unfold mstatResult; grind [Keeps.refl, Stays.refl, Core.memWf]
grind_pattern mstatResult_stays => mstatResult s f v

theorem mstatWaits_stays (s : State) (g : Nat) (t : State) (h : mstatWaits s g = some t) : Stays s t := by
  unfold mstatWaits at h; grind
grind_pattern mstatWaits_stays => mstatWaits s g, some t

theorem execMstatFlags_ends (f : FmtX) (s : State) : Ends s (execMstatFlags f s) := by
  unfold execMstatFlags; grind [Keeps.refl, Stays.refl, Core.memWf]
grind_pattern execMstatFlags_ends => execMstatFlags f s

theorem execMstatClr_ends (f : FmtX) (s : State) : Ends s (execMstatClr f s) := by
  unfold execMstatClr; grind [Keeps.refl, Stays.refl, Core.memWf]
grind_pattern execMstatClr_ends => execMstatClr f s

theorem execMstatTile_ends (f : FmtX) (s : State) : Ends s (execMstatTile f s) := by
  unfold execMstatTile; grind [Keeps.refl, Stays.refl, Core.memWf]
grind_pattern execMstatTile_ends => execMstatTile f s

theorem execMstatEu_ends (f : FmtX) (s : State) : Ends s (execMstatEu f s) := by
  unfold execMstatEu; grind [Keeps.refl, Stays.refl, Core.memWf]
grind_pattern execMstatEu_ends => execMstatEu f s

end Sys2Proof.Machine
end

