-- ==== Sys2Proof/Laws/KeepsSync.lean ====
section
/-! SUPPORT. The operations of Machine/Sync.lean keep what every step keeps (Laws/KeepsBase.lean). -/

namespace Sys2Proof.Machine
open State

theorem fenceOp_ends (s : State) (f : FmtY) (sq : Bool) : Ends s (fenceOp s f sq) := by
  unfold fenceOp; grind [Keeps.refl, Stays.refl, Core.memWf]
grind_pattern fenceOp_ends => fenceOp s f sq

theorem execFence_ends (f : FmtY) (s : State) : Ends s (execFence f s) := by
  unfold execFence; grind [Keeps.refl, Stays.refl, Core.memWf]
grind_pattern execFence_ends => execFence f s

theorem execFenceSc_ends (f : FmtY) (s : State) : Ends s (execFenceSc f s) := by
  unfold execFenceSc; grind [Keeps.refl, Stays.refl, Core.memWf]
grind_pattern execFenceSc_ends => execFenceSc f s

theorem syncResult_stays (s : State) (g : Nat) (sregs : List (Nat × DWord)) (preds : List (Nat × Bool)) : Stays s (syncResult s g sregs preds) := by
  unfold syncResult; grind [Keeps.refl, Stays.refl, Core.memWf]
grind_pattern syncResult_stays => syncResult s g sregs preds

theorem syncDone_stays (s : State) (g : Nat) : Stays s (syncDone s g) := by
  unfold syncDone; grind [Keeps.refl, Stays.refl, Core.memWf]
grind_pattern syncDone_stays => syncDone s g

theorem barWrite_stays (s : State) (tm e : Nat) (b : BarObj) : Stays s (barWrite s tm e b) := by
  unfold barWrite; grind [Keeps.refl, Stays.refl, Core.memWf]
grind_pattern barWrite_stays => barWrite s tm e b

theorem barWake_stays (s : State) (tm e : Nat) (arrivals : Bool) : Stays s (barWake s tm e arrivals) := by
  unfold barWake; grind [Keeps.refl, Stays.refl, Core.memWf]
grind_pattern barWake_stays => barWake s tm e arrivals

theorem barComplete_stays (s : State) (tm e : Nat) (b : BarObj) : Stays s (barComplete s tm e b) := by
  unfold barComplete; grind [Keeps.refl, Stays.refl, Core.memWf]
grind_pattern barComplete_stays => barComplete s tm e b

theorem barPark_stays (s : State) (g e : Nat) (arrival : Bool) : Stays s (barPark s g e arrival) := by
  unfold barPark; grind [Keeps.refl, Stays.refl, Core.memWf]
grind_pattern barPark_stays => barPark s g e arrival

theorem barInstr_ends (s : State) (f : FmtY) (op : Nat → BarObj → State) (h : ∀ e b, Keeps s (op e b)) :
    Ends s (barInstr s f op) := by
  unfold barInstr; grind
grind_pattern barInstr_ends => barInstr s f op

theorem barProt_keeps (s : State) (e : Nat) : Keeps s (barProt s e) := by
  unfold barProt; grind [Keeps.refl, Stays.refl, Core.memWf]
grind_pattern barProt_keeps => barProt s e

theorem execBaraInit_ends (f : FmtY) (s : State) : Ends s (execBaraInit f s) := by
  unfold execBaraInit; grind [Keeps.refl, Stays.refl, Core.memWf]
grind_pattern execBaraInit_ends => execBaraInit f s

theorem execBaraFree_ends (f : FmtY) (s : State) : Ends s (execBaraFree f s) := by
  unfold execBaraFree; grind [Keeps.refl, Stays.refl, Core.memWf]
grind_pattern execBaraFree_ends => execBaraFree f s

theorem barStep_stays (s : State) (tm e : Nat) (b : BarObj) (drop : Bool) : Stays s (barStep s tm e b drop) := by
  unfold barStep; grind [Keeps.refl, Stays.refl, Core.memWf]
grind_pattern barStep_stays => barStep s tm e b drop

theorem barArrive_ends (s : State) (f : FmtY) (drop : Bool) : Ends s (barArrive s f drop) := by
  unfold barArrive; grind [Keeps.refl, Stays.refl, Core.memWf]
grind_pattern barArrive_ends => barArrive s f drop

theorem execBaraArr_ends (f : FmtY) (s : State) : Ends s (execBaraArr f s) := by
  unfold execBaraArr; grind [Keeps.refl, Stays.refl, Core.memWf]
grind_pattern execBaraArr_ends => execBaraArr f s

theorem execBaraDrop_ends (f : FmtY) (s : State) : Ends s (execBaraDrop f s) := by
  unfold execBaraDrop; grind [Keeps.refl, Stays.refl, Core.memWf]
grind_pattern execBaraDrop_ends => execBaraDrop f s

theorem execBarw_ends (f : FmtY) (s : State) : Ends s (execBarw f s) := by
  unfold execBarw; grind [Keeps.refl, Stays.refl, Core.memWf]
grind_pattern execBarw_ends => execBarw f s

theorem execBartArr_ends (f : FmtY) (s : State) : Ends s (execBartArr f s) := by
  unfold execBartArr; grind [Keeps.refl, Stays.refl, Core.memWf]
grind_pattern execBartArr_ends => execBartArr f s

theorem execBartTest_ends (f : FmtY) (s : State) : Ends s (execBartTest f s) := by
  unfold execBartTest; grind [Keeps.refl, Stays.refl, Core.memWf]
grind_pattern execBartTest_ends => execBartTest f s

theorem gbarSend_ends (s : State) (f : FmtY) (form : Nat) (val : DWord) (release : Bool) : Ends s (gbarSend s f form val release) := by
  unfold gbarSend; grind [Keeps.refl, Stays.refl, Core.memWf]
grind_pattern gbarSend_ends => gbarSend s f form val release

theorem execGbarInit_ends (f : FmtY) (s : State) : Ends s (execGbarInit f s) := by
  unfold execGbarInit; grind [Keeps.refl, Stays.refl, Core.memWf]
grind_pattern execGbarInit_ends => execGbarInit f s

theorem execGbarArr_ends (f : FmtY) (s : State) : Ends s (execGbarArr f s) := by
  unfold execGbarArr; grind [Keeps.refl, Stays.refl, Core.memWf]
grind_pattern execGbarArr_ends => execGbarArr f s

theorem execGbarNtf_ends (f : FmtY) (s : State) : Ends s (execGbarNtf f s) := by
  unfold execGbarNtf; grind [Keeps.refl, Stays.refl, Core.memWf]
grind_pattern execGbarNtf_ends => execGbarNtf f s

theorem execGbarWait_ends (f : FmtY) (s : State) : Ends s (execGbarWait f s) := by
  unfold execGbarWait; grind [Keeps.refl, Stays.refl, Core.memWf]
grind_pattern execGbarWait_ends => execGbarWait f s

theorem pushQ15_stays (s : State) (g : Nat) (e : QEntry) : Stays s (pushQ15 s g e) := by
  unfold pushQ15; grind [Keeps.refl, Stays.refl, Core.memWf]
grind_pattern pushQ15_stays => pushQ15 s g e

theorem setGctr_stays (s : State) (c k : Nat) (q : GCtr) : Stays s (setGctr s c k q) := by
  unfold setGctr; grind [Keeps.refl, Stays.refl, Core.memWf]
grind_pattern setGctr_stays => setGctr s c k q

theorem gctrComplete_stays (s : State) (c k : Nat) (q : GCtr) : Stays s (gctrComplete s c k q) := by
  unfold gctrComplete; grind [Keeps.refl, Stays.refl, Core.memWf]
grind_pattern gctrComplete_stays => gctrComplete s c k q

theorem gbarPark_stays (s : State) (g : Nat) (cause : Cause) : Stays s (gbarPark s g cause) := by
  unfold gbarPark; grind [Keeps.refl, Stays.refl, Core.memWf]
grind_pattern gbarPark_stays => gbarPark s g cause

theorem execGridBarrierRequest_ends (s : State) : Ends s (execGridBarrierRequest s) := by
  unfold execGridBarrierRequest; grind [Keeps.refl, Stays.refl, Core.memWf]
grind_pattern execGridBarrierRequest_ends => execGridBarrierRequest s

theorem wideComplete_stays (s : State) (l : Nat) (device : Bool) (k : Nat) (ts : List Nat) : Stays s (wideComplete s l device k ts) := by
  unfold wideComplete; grind [Keeps.refl, Stays.refl, Core.memWf]
grind_pattern wideComplete_stays => wideComplete s l device k ts

theorem checkWide_stays (s : State) (l : Nat) (device : Bool) (k : Nat) : Stays s (checkWide s l device k) := by
  unfold checkWide; grind [Keeps.refl, Stays.refl, Core.memWf]
grind_pattern checkWide_stays => checkWide s l device k

theorem recheckWide_stays (s : State) (l k : Nat) : Stays s (recheckWide s l k) := by
  unfold recheckWide; grind [Keeps.refl, Stays.refl, Core.memWf]
grind_pattern recheckWide_stays => recheckWide s l k

theorem restTeam_stays (s : State) (tm : Nat) : Stays s (restTeam s tm) := by
  unfold restTeam; grind [Stays.refl, Core.memWf]
grind_pattern restTeam_stays => restTeam s tm

theorem tendOp_ends (s : State) (f : FmtY) (device : Bool) : Ends s (tendOp s f device) := by
  unfold tendOp; grind [Keeps.refl, Stays.refl, Core.memWf]
grind_pattern tendOp_ends => tendOp s f device

theorem execTendClu_ends (f : FmtY) (s : State) : Ends s (execTendClu f s) := by
  unfold execTendClu; grind [Keeps.refl, Stays.refl, Core.memWf]
grind_pattern execTendClu_ends => execTendClu f s

theorem execTendDev_ends (f : FmtY) (s : State) : Ends s (execTendDev f s) := by
  unfold execTendDev; grind [Keeps.refl, Stays.refl, Core.memWf]
grind_pattern execTendDev_ends => execTendDev f s

theorem uniformAddr_keeps (s : State) (f : FmtY) (reads : Bool) : Keeps s (uniformAddr s f reads).1 := by
  unfold uniformAddr; grind [Keeps.refl, Stays.refl, Core.memWf]
grind_pattern uniformAddr_keeps => uniformAddr s f reads

theorem execWaitv_ends (f : FmtY) (s : State) : Ends s (execWaitv f s) := by
  unfold execWaitv; grind [Keeps.refl, Stays.refl, Core.memWf]
grind_pattern execWaitv_ends => execWaitv f s

theorem monitorRead_keeps (s : State) (m : Monitor) (as : Nat) : Keeps s (monitorRead s m as) := by
  unfold monitorRead; grind [Keeps.refl, Core.memWf]
grind_pattern monitorRead_keeps => monitorRead s m as

theorem execMonitorFire_ends (n : Nat) (s : State) : Ends s (execMonitorFire n s) := by
  unfold execMonitorFire; grind [Keeps.refl, Stays.refl, Core.memWf]
grind_pattern execMonitorFire_ends => execMonitorFire n s

theorem wakeOp_ends (s : State) (f : FmtY) (all : Bool) : Ends s (wakeOp s f all) := by
  unfold wakeOp; grind [Keeps.refl, Stays.refl, Core.memWf]
grind_pattern wakeOp_ends => wakeOp s f all

theorem execWakeOne_ends (f : FmtY) (s : State) : Ends s (execWakeOne f s) := by
  unfold execWakeOne; grind [Keeps.refl, Stays.refl, Core.memWf]
grind_pattern execWakeOne_ends => execWakeOne f s

theorem execWakeAll_ends (f : FmtY) (s : State) : Ends s (execWakeAll f s) := by
  unfold execWakeAll; grind [Keeps.refl, Stays.refl, Core.memWf]
grind_pattern execWakeAll_ends => execWakeAll f s

theorem taskOp_ends (s : State) (f : FmtY) (req : Nat → CpReq) : Ends s (taskOp s f req) := by
  unfold taskOp; grind [Keeps.refl, Stays.refl, Core.memWf]
grind_pattern taskOp_ends => taskOp s f req

theorem execTdec_ends (f : FmtY) (s : State) : Ends s (execTdec f s) := by
  unfold execTdec; grind [Keeps.refl, Stays.refl, Core.memWf]
grind_pattern execTdec_ends => execTdec f s

theorem execTspn_ends (f : FmtY) (s : State) : Ends s (execTspn f s) := by
  unfold execTspn; grind [Keeps.refl, Stays.refl, Core.memWf]
grind_pattern execTspn_ends => execTspn f s

end Sys2Proof.Machine
end

