-- ==== Sys2Proof/Laws/KeepsCopy.lean ====
section
/-! SUPPORT. The operations of Machine/Copy.lean keep what every step keeps (Laws/KeepsBase.lean). -/

namespace Sys2Proof.Machine
open State

theorem engMalformed_keeps (s : State) (core : Nat) (c : Cmd) (a : Nat) (write : Bool) : Keeps s (engMalformed s core c a write) := by
  unfold engMalformed; grind [Keeps.refl, Core.memWf]
grind_pattern engMalformed_keeps => engMalformed s core c a write

theorem engXlate_keeps (s : State) (core : Nat) (c : Cmd) (a n : Nat) (write : Bool) : Keeps s (engXlate s core c a n write).1 := by
  unfold engXlate; grind [Keeps.refl, Stays.refl, Core.memWf]
grind_pattern engXlate_keeps => engXlate s core c a n write

theorem peerFull_keeps (s : State) (core : Nat) (p : Phys) (n : Nat) : Keeps s (peerFull s core p n).1 := by
  unfold peerFull; grind [Keeps.refl, Stays.refl]
grind_pattern peerFull_keeps => peerFull s core p n

theorem engRead_keeps (s : State) (core : Nat) (c : Cmd) (space a n : Nat) (pol : Nat) (states : Bool) : Keeps s (engRead s core c space a n pol states).1 := by
  unfold engRead; grind [Keeps.refl, Stays.refl, Core.memWf]
grind_pattern engRead_keeps => engRead s core c space a n pol states

theorem engSetFE_stays (s : State) (ws : List (WObj × Bool)) (fem : Nat) : Stays s (engSetFE s ws fem) := by
  unfold engSetFE; grind [Keeps.refl, Stays.refl, Core.memWf]
grind_pattern engSetFE_stays => engSetFE s ws fem

theorem engWrite_keeps (s : State) (core : Nat) (c : Cmd) (b : Blk) (d : End) (a n v full : Nat) : Keeps s (engWrite s core c b d a n v full).1 := by
  unfold engWrite; grind [Keeps.refl, Stays.refl, Core.memWf]
grind_pattern engWrite_keeps => engWrite s core c b d a n v full

theorem endRead_keeps (s : State) (core : Nat) (c : Cmd) (x : End) (r col off n : Nat) (states : Bool) : Keeps s (endRead s core c x r col off n states).1 := by
  unfold endRead; grind [Keeps.refl, Stays.refl, Core.memWf]
grind_pattern endRead_keeps => endRead s core c x r col off n states

theorem endWrite_keeps (k : CRun) (core : Nat) (b : Blk) (x : End) (r col off n v full : Nat) : Keeps k.s (endWrite k core b x r col off n v full).s := by
  unfold endWrite; grind [Keeps.refl, Stays.refl, Core.memWf]
grind_pattern endWrite_keeps => endWrite k core b x r col off n v full

theorem readScale_keeps (k : CRun) (core a : Nat) : Keeps k.s (readScale k core a).s := by
  unfold readScale; grind [Keeps.refl, Core.memWf]
grind_pattern readScale_keeps => readScale k core a

theorem scaleOf_keeps (k : CRun) (core : Nat) (x : End) (r : Nat) : Keeps k.s (scaleOf k core x r).1.s := by
  unfold scaleOf; grind [Keeps.refl, Stays.refl, Core.memWf]
grind_pattern scaleOf_keeps => scaleOf k core x r

theorem startScales_keeps (core : Nat) (b : Blk) (s d : End) (k : CRun) : Keeps k.s (startScales core b s d k).s := by
  unfold startScales; grind [Keeps.refl, Core.memWf]
grind_pattern startScales_keeps => startScales core b s d k

theorem addFlg_stays (k : CRun) (fl : Flags) : Stays k.s (addFlg k fl).s := by
  unfold addFlg; grind [Keeps.refl, Stays.refl, Core.memWf]
grind_pattern addFlg_stays => addFlg k fl

theorem moveElem_keeps (k : CRun) (core : Nat) (b : Blk) (s d : End) (j sr sc dr dc : Nat) : Keeps k.s (moveElem k core b s d j sr sc dr dc).s := by
  unfold moveElem; grind [Keeps.refl, Stays.refl, Core.memWf]
grind_pattern moveElem_keeps => moveElem k core b s d j sr sc dr dc

theorem runMove_keeps (core : Nat) (b : Blk) (s d : End) (n : Nat) (k : CRun) : Keeps k.s (runMove core b s d n k).s := by
  unfold runMove; grind [Keeps.refl, Stays.refl, Core.memWf]
grind_pattern runMove_keeps => runMove core b s d n k

theorem runTranspose_keeps (core : Nat) (b : Blk) (s d : End) (n : Nat) (k : CRun) : Keeps k.s (runTranspose core b s d n k).s := by
  unfold runTranspose; grind [Keeps.refl, Stays.refl, Core.memWf]
grind_pattern runTranspose_keeps => runTranspose core b s d n k

theorem indexOf_keeps (k : CRun) (core : Nat) (b : Blk) (j : Nat) : Keeps k.s (indexOf k core b j).1.s := by
  unfold indexOf; grind [Keeps.refl, Stays.refl, Core.memWf]
grind_pattern indexOf_keeps => indexOf k core b j

theorem runIndexed_keeps (core : Nat) (b : Blk) (s d : End) (gather : Bool) (k : CRun) : Keeps k.s (runIndexed core b s d gather k).s := by
  unfold runIndexed; grind [Keeps.refl, Stays.refl, Core.memWf]
grind_pattern runIndexed_keeps => runIndexed core b s d gather k

theorem sigmaOf_keeps (k : CRun) (core : Nat) (b : Blk) (d : End) (r : Nat) : Keeps k.s (sigmaOf k core b d r).1.s := by
  unfold sigmaOf; grind [Keeps.refl, Stays.refl, Core.memWf]
grind_pattern sigmaOf_keeps => sigmaOf k core b d r

theorem readGroup_keeps (k : CRun) (core : Nat) (s : End) (r c0 : Nat) : Keeps k.s (readGroup k core s r c0).1.s := by
  unfold readGroup; grind [Keeps.refl, Stays.refl, Core.memWf]
grind_pattern readGroup_keeps => readGroup k core s r c0

theorem runQuantise_keeps (core : Nat) (b : Blk) (s d : End) (n : Nat) (k : CRun) : Keeps k.s (runQuantise core b s d n k).s := by
  unfold runQuantise; grind [Keeps.refl, Stays.refl, Core.memWf]
grind_pattern runQuantise_keeps => runQuantise core b s d n k

theorem runFold_keeps (core : Nat) (b : Blk) (s : End) (k : CRun) : Keeps k.s (runFold core b s k).s := by
  unfold runFold
  extract_lets bs n q
  by_cases h0 : b.nrow * b.ncol ≤ k.c.prog
  · rw [if_pos h0]; exact .refl _
  rw [if_neg h0]
  have hq : Keeps k.s q.1.s := foldl_run_fst _ _ (k, none) fun acc j => by
    split
    · exact .refl _
    extract_lets r c off sc v
    have h1 : Keeps acc.1.s sc.1.s := scaleOf_keeps _ _ _ _
    have h2 : Keeps acc.1.s v.1 := h1.trans (endRead_keeps _ _ _ _ _ _ _ _ _)
    clear_value v sc
    grind [Keeps.refl, Stays.refl]
  clear_value q
  simp only [addFlg]
  repeat' split
  all_goals grind
grind_pattern runFold_keeps => runFold core b s k

theorem modCmds_stays (s : State) (core : Nat) (f : Cmd → Cmd) : Stays s (modCmds s core f) := by
  unfold modCmds; grind [Keeps.refl, Stays.refl, Core.memWf]
grind_pattern modCmds_stays => modCmds s core f

theorem putCmd_stays (s : State) (core : Nat) (old new : Cmd) : Stays s (putCmd s core old new) := by
  unfold putCmd; grind [Keeps.refl, Stays.refl, Core.memWf]
grind_pattern putCmd_stays => putCmd s core old new

theorem putHead_stays (s : State) (core : Nat) (c : Cmd) : Stays s (putHead s core c) := by
  unfold putHead; grind [Keeps.refl, Stays.refl, Core.memWf]
grind_pattern putHead_stays => putHead s core c

theorem engWait_keeps (s : State) (core : Nat) (c : Cmd) (a : Nat) (write : Bool) : Keeps s (engWait s core c a write) := by
  unfold engWait; grind [Keeps.refl, Stays.refl, Core.memWf]
grind_pattern engWait_keeps => engWait s core c a write

theorem cmdFault_keeps (s : State) (core : Nat) (c : Cmd) (fc : Nat) : Keeps s (cmdFault s core c fc) := by
  unfold cmdFault; grind [Keeps.refl, Stays.refl, Core.memWf]
grind_pattern cmdFault_keeps => cmdFault s core c fc

theorem orCqst_stays (s : State) (c : Cmd) (v : BitVec 7) : Stays s (orCqst s c v) := by
  unfold orCqst; grind [Keeps.refl, Stays.refl, Core.memWf]
grind_pattern orCqst_stays => orCqst s c v

theorem readBlock_keeps (s : State) (core : Nat) (c : Cmd) (a : Nat) : Keeps s (readBlock s core c a).1 := by
  unfold readBlock; grind [Keeps.refl, Stays.refl, Core.memWf]
grind_pattern readBlock_keeps => readBlock s core c a

theorem claimTiles_stays (s : State) (c : Cmd) : Stays s (claimTiles s c) := by
  unfold claimTiles; grind [Stays.refl, Core.memWf]
grind_pattern claimTiles_stays => claimTiles s c

theorem releaseTiles_stays (s : State) (c : Cmd) (ts : List Nat) : Stays s (releaseTiles s c ts) := by
  unfold releaseTiles; grind [Stays.refl, Core.memWf]
grind_pattern releaseTiles_stays => releaseTiles s c ts

theorem startHead_stays (s : State) (core q : Nat) : Stays s (startHead s core q) := by
  unfold startHead; grind [Keeps.refl, Stays.refl, Core.memWf]
grind_pattern startHead_stays => startHead s core q

theorem kick_stays (s : State) (core q : Nat) : Stays s (kick s core q) := by
  unfold kick; grind [Keeps.refl, Stays.refl, Core.memWf]
grind_pattern kick_stays => kick s core q

theorem kickAll_stays (s : State) (core : Nat) : Stays s (kickAll s core) := by
  unfold kickAll; grind [Stays.refl, Core.memWf]
grind_pattern kickAll_stays => kickAll s core

theorem tellCpf_stays (s : State) (c : Cmd) (bad : Bool) : Stays s (tellCpf s c bad) := by
  unfold tellCpf; grind [Keeps.refl, Stays.refl, Core.memWf]
grind_pattern tellCpf_stays => tellCpf s c bad

theorem freeEntry_stays (s : State) (core : Nat) (c : Cmd) : Stays s (freeEntry s core c) := by
  unfold freeEntry; grind [Keeps.refl, Stays.refl, Core.memWf]
grind_pattern freeEntry_stays => freeEntry s core c

theorem dropCmd_keeps (s : State) (core : Nat) (c : Cmd) (fc : Nat) : Keeps s (dropCmd s core c fc) := by
  unfold dropCmd; grind [Keeps.refl, Stays.refl, Core.memWf]
grind_pattern dropCmd_keeps => dropCmd s core c fc

theorem acceptOne_keeps (s : State) (core : Nat) (c : Cmd) : Keeps s (acceptOne s core c) := by
  unfold acceptOne; grind [Keeps.refl, Stays.refl, Core.memWf]
grind_pattern acceptOne_keeps => acceptOne s core c

theorem acceptPend_stays (s : State) (c : Cmd) : Stays s (acceptPend s c) := by
  unfold acceptPend; grind [Keeps.refl, Stays.refl, Core.memWf]
grind_pattern acceptPend_stays => acceptPend s c

theorem execCommandAccept_ends (core : Nat) (s : State) : Ends s (execCommandAccept core s) := by
  unfold execCommandAccept; grind [Keeps.refl, Stays.refl, Core.memWf]
grind_pattern execCommandAccept_ends => execCommandAccept core s

theorem execPushedCommand_ends (core : Nat) (s : State) : Ends s (execPushedCommand core s) := by
  unfold execPushedCommand; grind [Keeps.refl, Stays.refl, Core.memWf]
grind_pattern execPushedCommand_ends => execPushedCommand core s

theorem sendLines_keeps (s : State) (core : Nat) (c : Cmd) (cmpr : Bool) (fem : Nat) (ws : List PeerByte) : Keeps s (sendLines s core c cmpr fem ws).1 := by
  unfold sendLines; grind [Keeps.refl, Stays.refl, Core.memWf]
grind_pattern sendLines_keeps => sendLines s core c cmpr fem ws

theorem chainCheck_keeps (s : State) (core : Nat) (c : Cmd) (b : Blk) : Keeps s (chainCheck s core c b).1 := by
  unfold chainCheck; grind [Keeps.refl, Stays.refl, Core.memWf]
grind_pattern chainCheck_keeps => chainCheck s core c b

theorem settleRun_keeps (core : Nat) (b : Blk) (cmpr : Bool) (fem : Nat) (k : CRun) : Keeps k.s (settleRun core b cmpr fem k) := by
  unfold settleRun; grind [Keeps.refl, Stays.refl, Core.memWf]
grind_pattern settleRun_keeps => settleRun core b cmpr fem k

theorem wholeRun_keeps (b : Blk) (s d : End) (start : CRun) (go : Nat → CRun → CRun)
    (h : ∀ n k, Keeps k.s (go n k).s) : Keeps start.s (wholeRun b s d start go).s := by
  unfold wholeRun
  have h1 := h (b.nrow * b.ncol) start
  dsimp only
  grind [Keeps.refl]

theorem runXf_ends (core q xf : Nat) (s : State) (go : Blk → End → End → Nat → CRun → CRun)
    (h : ∀ b x d n k, Keeps k.s (go b x d n k).s) : Ends s (runXf core q xf s go) := by
  unfold runXf
  split
  · exact ends_next (.refl s)
  rename_i c _
  by_cases h0 : !c.started ∨ c.ending ∨ c.wait.isSome ∨ c.cancel ∨ (blkOf c.block).xf ≠ xf ∨ !tilesOpen s core c
  · rw [if_pos h0]; exact ends_next (.refl s)
  rw [if_neg h0]
  extract_lets x d k
  have h1 : Keeps s k.s := startScales_keeps _ _ _ _ { s := s, c := c }
  refine ends_done (Keeps.trans ?_ (settleRun_keeps _ _ _ _ _))
  split
  · exact h1
  · exact h1.trans (wholeRun_keeps _ _ _ _ _ fun n k => h _ x d n k)
grind_pattern runXf_ends => runXf core q xf s go

theorem execCopy_ends (core q : Nat) (s : State) : Ends s (execCopy core q s) := by
  unfold execCopy; grind [Keeps.refl, Stays.refl, Core.memWf]
grind_pattern execCopy_ends => execCopy core q s

theorem execConvert_ends (core q : Nat) (s : State) : Ends s (execConvert core q s) := by
  unfold execConvert; grind [Keeps.refl, Stays.refl, Core.memWf]
grind_pattern execConvert_ends => execConvert core q s

theorem execQuantise_ends (core q : Nat) (s : State) : Ends s (execQuantise core q s) := by
  unfold execQuantise; grind [Keeps.refl, Stays.refl, Core.memWf]
grind_pattern execQuantise_ends => execQuantise core q s

theorem execTileTranspose_ends (core q : Nat) (s : State) : Ends s (execTileTranspose core q s) := by
  unfold execTileTranspose; grind [Keeps.refl, Stays.refl, Core.memWf]
grind_pattern execTileTranspose_ends => execTileTranspose core q s

theorem execGather_ends (core q : Nat) (s : State) : Ends s (execGather core q s) := by
  unfold execGather; grind [Keeps.refl, Stays.refl, Core.memWf]
grind_pattern execGather_ends => execGather core q s

theorem execScatter_ends (core q : Nat) (s : State) : Ends s (execScatter core q s) := by
  unfold execScatter; grind [Keeps.refl, Stays.refl, Core.memWf]
grind_pattern execScatter_ends => execScatter core q s

theorem execFoldMax_ends (core q : Nat) (s : State) : Ends s (execFoldMax core q s) := by
  unfold execFoldMax; grind [Keeps.refl, Stays.refl, Core.memWf]
grind_pattern execFoldMax_ends => execFoldMax core q s

theorem cwordOf_keeps (s : State) (core : Nat) (c : Cmd) (b : Blk) : Keeps s (cwordOf s core c b).1 := by
  unfold cwordOf; grind [Keeps.refl, Stays.refl, Core.memWf]
grind_pattern cwordOf_keeps => cwordOf s core c b

theorem writeStatus_keeps (s : State) (core : Nat) (c : Cmd) (a : Nat) : Keeps s (writeStatus s core c a).1 := by
  unfold writeStatus; grind [Keeps.refl, Stays.refl, Core.memWf]
grind_pattern writeStatus_keeps => writeStatus s core c a

theorem fillWord_keeps (s : State) (core : Nat) (c : Cmd) (b : Blk) (w : CWord) : Keeps s (fillWord s core c b w).1 := by
  unfold fillWord; grind [Keeps.refl, Stays.refl, Core.memWf]
grind_pattern fillWord_keeps => fillWord s core c b w

theorem countEnd_keeps (s : State) (core : Nat) (c : Cmd) : Keeps s (countEnd s core c) := by
  unfold countEnd; grind [Keeps.refl, Stays.refl, Core.memWf]
grind_pattern countEnd_keeps => countEnd s core c

theorem afterEnd_stays (s : State) (core : Nat) (c : Cmd) (b : Blk) : Stays s (afterEnd s core c b) := by
  unfold afterEnd; grind [Keeps.refl, Stays.refl, Core.memWf]
grind_pattern afterEnd_stays => afterEnd s core c b

theorem fillStep_keeps (s : State) (core : Nat) (old c : Cmd) (b : Blk) (w : CWord) : Keeps s (fillStep s core old c b w) := by
  unfold fillStep; grind [Keeps.refl, Core.memWf]
grind_pattern fillStep_keeps => fillStep s core old c b w

theorem fillEnd_keeps (s : State) (core : Nat) (old c : Cmd) (cw : Except Stop CWord) : Keeps s (fillEnd s core old c cw) := by
  unfold fillEnd; grind [Keeps.refl, Core.memWf]
grind_pattern fillEnd_keeps => fillEnd s core old c cw

theorem endCmd_keeps (s : State) (core : Nat) (c : Cmd) : Keeps s (endCmd s core c) := by
  unfold endCmd; grind [Keeps.refl, Stays.refl, Core.memWf]
grind_pattern endCmd_keeps => endCmd s core c

theorem statusDone_keeps (s : State) (core : Nat) (c : Cmd) : Keeps s (statusDone s core c) := by
  unfold statusDone; grind [Keeps.refl, Core.memWf]
grind_pattern statusDone_keeps => statusDone s core c

theorem retryFill_keeps (s : State) (core : Nat) (c : Cmd) : Keeps s (retryFill s core c) := by
  unfold retryFill; grind [Keeps.refl, Core.memWf]
grind_pattern retryFill_keeps => retryFill s core c

theorem endStep_keeps (s : State) (core : Nat) (c : Cmd) : Keeps s (endStep s core c) := by
  unfold endStep; grind [Keeps.refl, Core.memWf]
grind_pattern endStep_keeps => endStep s core c

theorem tellFill_stays (s : State) (core : Nat) (c : Cmd) (m : PeerAccess) : Stays s (tellFill s core c m) := by
  unfold tellFill; grind [Stays.refl, Core.memWf]
grind_pattern tellFill_stays => tellFill s core c m

theorem fillLost_keeps (s : State) (core : Nat) (c : Cmd) : Keeps s (fillLost s core c) := by
  unfold fillLost; grind [Keeps.refl, Core.memWf]
grind_pattern fillLost_keeps => fillLost s core c

theorem cancelOne_stays (s : State) (core : Nat) (c : Cmd) : Stays s (cancelOne s core c) := by
  unfold cancelOne; grind [Keeps.refl, Stays.refl, Core.memWf]
grind_pattern cancelOne_stays => cancelOne s core c

theorem execCommandEnd_ends (core q : Nat) (s : State) : Ends s (execCommandEnd core q s) := by
  unfold execCommandEnd; grind [Keeps.refl, Stays.refl, Core.memWf]
grind_pattern execCommandEnd_ends => execCommandEnd core q s

theorem execEngineCompletionFill_ends (core q : Nat) (s : State) : Ends s (execEngineCompletionFill core q s) := by
  unfold execEngineCompletionFill; grind [Keeps.refl, Stays.refl, Core.memWf]
grind_pattern execEngineCompletionFill_ends => execEngineCompletionFill core q s

theorem execChainNextBlock_ends (core q : Nat) (s : State) : Ends s (execChainNextBlock core q s) := by
  unfold execChainNextBlock
  split
  · exact ends_next (.refl s)
  · extract_lets
    repeat' split
    all_goals grind
grind_pattern execChainNextBlock_ends => execChainNextBlock core q s

theorem submit_ends (s : State) (f : FmtC) (n k : Nat) : Ends s (submit s f n k) := by
  unfold submit; grind [Keeps.refl, Stays.refl, Core.memWf]
grind_pattern submit_ends => submit s f n k

theorem execCpq_ends (f : FmtC) (s : State) : Ends s (execCpq f s) := by
  unfold execCpq; grind [Keeps.refl, Stays.refl, Core.memWf]
grind_pattern execCpq_ends => execCpq f s

theorem execCpi_ends (f : FmtC) (s : State) : Ends s (execCpi f s) := by
  unfold execCpi; grind [Keeps.refl, Stays.refl, Core.memWf]
grind_pattern execCpi_ends => execCpi f s

theorem copyScalar_ends (s : State) (f : FmtC) (v : Nat) : Ends s (copyScalar s f v) := by
  unfold copyScalar; grind [Keeps.refl, Stays.refl, Core.memWf]
grind_pattern copyScalar_ends => copyScalar s f v

theorem execCpl_ends (f : FmtC) (s : State) : Ends s (execCpl f s) := by
  unfold execCpl; grind [Keeps.refl, Stays.refl, Core.memWf]
grind_pattern execCpl_ends => execCpl f s

theorem execCps_ends (f : FmtC) (s : State) : Ends s (execCps f s) := by
  unfold execCps; grind [Keeps.refl, Stays.refl, Core.memWf]
grind_pattern execCps_ends => execCps f s

theorem execCpc_ends (f : FmtC) (s : State) : Ends s (execCpc f s) := by
  unfold execCpc; grind [Keeps.refl, Stays.refl, Core.memWf]
grind_pattern execCpc_ends => execCpc f s

theorem execCpf_ends (f : FmtC) (s : State) : Ends s (execCpf f s) := by
  unfold execCpf; grind [Keeps.refl, Stays.refl, Core.memWf]
grind_pattern execCpf_ends => execCpf f s

end Sys2Proof.Machine
end

