-- ==== Sys2Proof/Laws/KeepsTasks.lean ====
section
/-! SUPPORT. The operations of Machine/Tasks.lean keep what every step keeps (Laws/KeepsBase.lean). -/

namespace Sys2Proof.Machine
open State

theorem cpReach_keeps (s : State) (c a n : Nat) (rd wr : Bool) (bad : List Nat) : Keeps s (cpReach s c a n rd wr bad).1 := by
  unfold cpReach; grind [Keeps.refl, Stays.refl, Core.memWf]
grind_pattern cpReach_keeps => cpReach s c a n rd wr bad

theorem cpLoad_keeps (s : State) (c : Nat) (p : Phys) (n : Nat) : Keeps s (cpLoad s c p n).1 := by
  unfold cpLoad; grind [Keeps.refl, Stays.refl, Core.memWf]
grind_pattern cpLoad_keeps => cpLoad s c p n

theorem cpStore_keeps (s : State) (c : Nat) (p : Phys) (n v : Nat) : Keeps s (cpStore s c p n v) := by
  unfold cpStore; grind [Keeps.refl, Stays.refl, Core.memWf]
grind_pattern cpStore_keeps => cpStore s c p n v

theorem cpRead_keeps (s : State) (c a n : Nat) (bad : List Nat) : Keeps s (cpRead s c a n bad).1 := by
  unfold cpRead; grind [Keeps.refl, Stays.refl, Core.memWf]
grind_pattern cpRead_keeps => cpRead s c a n bad

theorem cpDws_keeps (s : State) (c a : Nat) (bad : List Nat) (x0 : Nat) : Keeps s (cpDws s c a bad x0).1 := by
  induction x0 generalizing s c a bad with
  | zero => unfold cpDws; grind [Keeps.refl, Stays.refl]
  | succ n ih => unfold cpDws; grind [Keeps.refl, Stays.refl]
grind_pattern cpDws_keeps => cpDws s c a bad x0

theorem cpWait_keeps (s : State) (c a : Nat) (write : Bool) (launch : Nat) (w : FWaiter) : Keeps s (cpWait s c a write launch w) := by
  unfold cpWait; grind [Keeps.refl, Stays.refl, Core.memWf]
grind_pattern cpWait_keeps => cpWait s c a write launch w

theorem launchWait_keeps (s : State) (l a : Nat) (write : Bool) : Keeps s (launchWait s l a write) := by
  unfold launchWait; grind [Keeps.refl, Stays.refl, Core.memWf]
grind_pattern launchWait_keeps => launchWait s l a write

theorem taskFault_keeps (s : State) (c addr : Nat) (l : Option Nat) : Keeps s (taskFault s c addr l) := by
  unfold taskFault; grind [Keeps.refl, Stays.refl, Core.memWf]
grind_pattern taskFault_keeps => taskFault s c addr l

theorem cpMalformed_keeps (s : State) (c addr : Nat) (l : Option Nat) : Keeps s (cpMalformed s c addr l) := by
  unfold cpMalformed; grind [Keeps.refl, Core.memWf]
grind_pattern cpMalformed_keeps => cpMalformed s c addr l

theorem stopFault_keeps (why : Nat) (s : State) (c addr : Nat) (l : Option Nat) : Keeps s (stopFault why s c addr l) := by
  unfold stopFault; grind [Keeps.refl, Stays.refl, Core.memWf]
grind_pattern stopFault_keeps => stopFault why s c addr l

theorem validate_keeps (s : State) (r : CpReq) (d : List DWord) : Keeps s (validate s r d).1 := by
  unfold validate; grind [Keeps.refl, Stays.refl, Core.memWf]
grind_pattern validate_keeps => validate s r d

theorem putSt_keeps (s : State) (c : Nat) (p : Phys) (d7 : DWord) (st : Nat) : Keeps s (putSt s c p d7 st) := by
  unfold putSt; grind [Keeps.refl, Stays.refl, Core.memWf]
grind_pattern putSt_keeps => putSt s c p d7 st

theorem launchReady_keeps (s : State) (c : Nat) (p : Phys) (l : Nat) : Keeps s (launchReady s c p l) := by
  unfold launchReady; grind [Keeps.refl, Stays.refl, Core.memWf]
grind_pattern launchReady_keeps => launchReady s c p l

theorem newLaunch_stays (s : State) (r : CpReq) (d : List DWord) (outs : List (Nat × Nat × Nat × Nat)) (refused : Bool) : Stays s (newLaunch s r d outs refused).1 := by
  unfold newLaunch; grind [Keeps.refl, Stays.refl, Core.memWf]
grind_pattern newLaunch_stays => newLaunch s r d outs refused

theorem markSrc_stays (s : State) (r : CpReq) : Stays s (markSrc s r) := by
  unfold markSrc; grind [Keeps.refl, Stays.refl, Core.memWf]
grind_pattern markSrc_stays => markSrc s r

theorem armRecord_keeps (s : State) (r : CpReq) (p : Phys) (d : List DWord) (pre : State → State) (k : State → Nat → State)
    (h : ∀ s, Keeps s (pre s)) (hk : ∀ s n, Keeps s (k s n)) : Keeps s (armRecord s r p d pre k).1 := by
  have hp : ∀ s, Keeps s (pre (validate s r d).1) := fun s => (validate_keeps s r d).trans (h _)
  unfold armRecord
  extract_lets v
  have hv : Keeps s (pre v.1) := hp s
  split
  · grind
  · grind
  · grind
  · exact (show Keeps s (putSt (newLaunch (pre v.1) r d _ false).1 r.ctx p (dwOf d 7) 1) by grind).trans (hk _ _)
grind_pattern armRecord_keeps => armRecord s r p d pre k

theorem countDown_keeps (r : CpReq) (p : Phys) (cnt : Nat) (s : State) (l : Nat) : Keeps s (countDown r p cnt s l) := by
  unfold countDown; grind [Keeps.refl, Stays.refl, Core.memWf]
grind_pattern countDown_keeps => countDown r p cnt s l

theorem performReq_keeps (s : State) (r : CpReq) : Keeps s (performReq s r).1 := by
  unfold performReq; grind [Keeps.refl, Stays.refl, Core.memWf]
grind_pattern performReq_keeps => performReq s r

theorem execTaskDecrement_ends (s : State) : Ends s (execTaskDecrement s) := by
  unfold execTaskDecrement
  repeat' (first | split | extract_lets)
  all_goals grind [Keeps.refl, Stays.refl]
grind_pattern execTaskDecrement_ends => execTaskDecrement s

theorem cpWords_keeps (s : State) (c a : Nat) (bad : List Nat) (x0 : Nat) : Keeps s (cpWords s c a bad x0).1 := by
  induction x0 generalizing s c a bad with
  | zero => unfold cpWords; grind [Keeps.refl, Stays.refl]
  | succ n ih => unfold cpWords; grind [Keeps.refl, Stays.refl]
grind_pattern cpWords_keeps => cpWords s c a bad x0

theorem tableNeeds_keeps (s : State) (c table ntp k : Nat) (bad : List Nat) : Keeps s (tableNeeds s c table ntp k bad).1 := by
  unfold tableNeeds; grind [Keeps.refl, Stays.refl, Core.memWf]
grind_pattern tableNeeds_keeps => tableNeeds s c table ntp k bad

theorem undone_keeps (s : State) (c link : Nat) (bad : List Nat) (x0 : List Nat) : Keeps s (undone s c link bad x0).1 := by
  induction x0 generalizing s c link bad with
  | nil => unfold undone; grind [Keeps.refl, Stays.refl]
  | cons e r ih => unfold undone; grind [Keeps.refl, Stays.refl]
grind_pattern undone_keeps => undone s c link bad x0

theorem consumerNeeds_keeps (s : State) (l : Nat) (hdr : List DWord) (x0 : List Nat) : Keeps s (consumerNeeds s l hdr x0).1 := by
  induction x0 generalizing s l hdr with
  | nil => unfold consumerNeeds; grind [Keeps.refl, Stays.refl]
  | cons e r ih => unfold consumerNeeds; grind [Keeps.refl, Stays.refl]
grind_pattern consumerNeeds_keeps => consumerNeeds s l hdr x0

theorem launchNeeds_keeps (s : State) (l : Nat) : Keeps s (launchNeeds s l).1 := by
  unfold launchNeeds; grind [Keeps.refl, Stays.refl, Core.memWf]
grind_pattern launchNeeds_keeps => launchNeeds s l

theorem createTeams_stays (s : State) (l : Nat) (needs : List (List Nat)) : Stays s (createTeams s l needs) := by
  unfold createTeams; grind [Keeps.refl, Stays.refl, Core.memWf]
grind_pattern createTeams_stays => createTeams s l needs

theorem furrowTake_stays (s : State) (k : Nat) (e : FEntry) : Stays s (furrowTake s k e) := by
  unfold furrowTake; grind [Keeps.refl, Stays.refl, Core.memWf]
grind_pattern furrowTake_stays => furrowTake s k e

theorem execFurrowAgeing_ends (k : Nat) (s : State) : Ends s (execFurrowAgeing k s) := by
  unfold execFurrowAgeing; grind [Keeps.refl, Stays.refl, Core.memWf]
grind_pattern execFurrowAgeing_ends => execFurrowAgeing k s

theorem execLaunchAdmit_ends (s : State) : Ends s (execLaunchAdmit s) := by
  unfold execLaunchAdmit
  repeat' (first | split | extract_lets)
  all_goals grind [Keeps.refl, Stays.refl]
grind_pattern execLaunchAdmit_ends => execLaunchAdmit s

theorem clearWindow_stays (s : State) (c frame size : Nat) : Stays s (clearWindow s c frame size) := by
  unfold clearWindow
  exact modCore_stays s _ _ fun k h => by
    simp only [Core.memWf, Bool.and_eq_true] at h ⊢
    exact ⟨⟨⟨mclear_wf _ _ h.1.1.1, h.1.1.2⟩, h.1.2⟩, rising_filter _ h.2⟩
grind_pattern clearWindow_stays => clearWindow s c frame size

theorem foldCore_wf {α : Type} (f : Core → α → Core) (h : ∀ k a, k.memWf = true → (f k a).memWf = true) (l : List α) (k : Core)
    (w : k.memWf = true) : (l.foldl f k).memWf = true := by
  induction l generalizing k with
  | nil => exact w
  | cons a r ih => exact ih _ (h k a w)
theorem clearTiles_stays (s : State) (c : Nat) (ts : List Nat) : Stays s (clearTiles s c ts) :=
  modCore_stays s _ _ fun k h => foldCore_wf _ (fun k a h => by
    simp only [Core.memWf, Bool.and_eq_true] at h ⊢
    exact ⟨⟨⟨h.1.1.1, mclear_wf _ _ h.1.1.2⟩, h.1.2⟩, h.2⟩) ts k h
grind_pattern clearTiles_stays => clearTiles s c ts

theorem placeTeam_keeps (s : State) (tm u : Nat) : Keeps s (placeTeam s tm u) := by
  unfold placeTeam; grind [Keeps.refl, Stays.refl, Core.memWf]
grind_pattern placeTeam_keeps => placeTeam s tm u

theorem readTable_keeps (s : State) (tm : Nat) : Keeps s (readTable s tm).1 := by
  unfold readTable; grind [Keeps.refl, Stays.refl, Core.memWf]
grind_pattern readTable_keeps => readTable s tm

theorem takeTask_stays (s : State) (tm : Nat) : Stays s (takeTask s tm) := by
  unfold takeTask; grind [Stays.refl, Core.memWf]
grind_pattern takeTask_stays => takeTask s tm

theorem execTeamPlace_ends (cluster : Nat) (s : State) : Ends s (execTeamPlace cluster s) := by
  unfold execTeamPlace
  repeat' (first | split | extract_lets)
  all_goals grind [Keeps.refl, Stays.refl]
grind_pattern execTeamPlace_ends => execTeamPlace cluster s

theorem execGangPlace_ends (s : State) : Ends s (execGangPlace s) := by
  unfold execGangPlace
  extract_lets wait fits first
  clear_value wait fits first
  split
  · exact ends_next (.refl s)
  rename_i l plan _
  split
  · exact ends_next (.refl s)
  rename_i t0 _ rest
  extract_lets r s1 s2 s3
  have h0 : Keeps s r.1 := readTable_keeps ..
  clear_value r
  split
  · exact ends_done h0
  have h1 : Keeps r.1 s1 := by grind [Keeps.refl]
  have h2 : Keeps s1 s2 := by grind [Keeps.refl]
  have h3 : Keeps s2 s3 := by grind [Keeps.refl]
  clear_value s1 s2 s3
  exact ends_done ((h0.trans (h1.trans (h2.trans h3))).trans (by grind [Keeps.refl]))
grind_pattern execGangPlace_ends => execGangPlace s

theorem postPlaces_stays (s : State) (ks : List Nat) : Stays s (postPlaces s ks) := by
  unfold postPlaces; grind [Keeps.refl, Stays.refl, Core.memWf]
grind_pattern postPlaces_stays => postPlaces s ks

theorem admitPages_keeps (s : State) (g : Nat) (r : ParkRec) : Keeps s (admitPages s g r) := by
  unfold admitPages; grind [Keeps.refl, Stays.refl, Core.memWf]
grind_pattern admitPages_keeps => admitPages s g r

theorem admitPast_stays (s : State) (g : Nat) : Stays s (admitPast s g) := by
  unfold admitPast; grind [Keeps.refl, Stays.refl, Core.memWf]
grind_pattern admitPast_stays => admitPast s g

theorem admitGroup_keeps (s : State) (g : Nat) : Keeps s (admitGroup s g) := by
  unfold admitGroup; grind [Keeps.refl, Stays.refl, Core.memWf]
grind_pattern admitGroup_keeps => admitGroup s g

theorem execContinuationAdmit_ends (cluster : Nat) (s : State) : Ends s (execContinuationAdmit cluster s) := by
  unfold execContinuationAdmit; grind [Keeps.refl, Stays.refl, Core.memWf]
grind_pattern execContinuationAdmit_ends => execContinuationAdmit cluster s

theorem execPhaseAdmit_ends (cluster : Nat) (s : State) : Ends s (execPhaseAdmit cluster s) := by
  unfold execPhaseAdmit
  extract_lets isPhase
  split
  · exact ends_next (.refl s)
  · split
    · extract_lets g tm d
      split
      · exact ends_next (.refl s)
      · rename_i s1 s2 _
        have h1 : Stays s s1 := by grind [Stays.refl]
        have h2 : Keeps s1 s2 := by grind [Keeps.refl]
        clear_value s1 s2
        have h := h1.keeps.trans h2
        split
        · exact ends_done (h.trans (by grind [Keeps.refl]))
        · exact ends_done h
    · exact ends_next (.refl s)
    · exact ends_next (.refl s)
grind_pattern execPhaseAdmit_ends => execPhaseAdmit cluster s

theorem execFeBudget_ends (core slot : Nat) (s : State) : Ends s (execFeBudget core slot s) := by
  unfold execFeBudget; grind [Keeps.refl, Stays.refl, Core.memWf]
grind_pattern execFeBudget_ends => execFeBudget core slot s

theorem execGroupExit_ends (core slot : Nat) (s : State) : Ends s (execGroupExit core slot s) := by
  unfold execGroupExit; grind [Keeps.refl, Stays.refl, Core.memWf]
grind_pattern execGroupExit_ends => execGroupExit core slot s

theorem writeDone_keeps (s : State) (l : Nat) : Keeps s (writeDone s l) := by
  unfold writeDone; grind [Keeps.refl, Stays.refl, Core.memWf]
grind_pattern writeDone_keeps => writeDone s l

theorem dropCarve_stays (s : State) (t : Team) : Stays s (dropCarve s t) := by
  unfold dropCarve; grind [Stays.refl, Core.memWf]
grind_pattern dropCarve_stays => dropCarve s t

theorem execTeamRetire_ends (team : Nat) (s : State) : Ends s (execTeamRetire team s) := by
  unfold execTeamRetire; grind [Keeps.refl, Stays.refl, Core.memWf]
grind_pattern execTeamRetire_ends => execTeamRetire team s

theorem execProducerTeamFinish_ends (team : Nat) (s : State) : Ends s (execProducerTeamFinish team s) := by
  unfold execProducerTeamFinish; grind [Keeps.refl, Stays.refl, Core.memWf]
grind_pattern execProducerTeamFinish_ends => execProducerTeamFinish team s

theorem cpBytes_keeps (s : State) (c a : Nat) (bad : List Nat) (x0 : Nat) : Keeps s (cpBytes s c a bad x0).1 := by
  induction x0 generalizing s c a bad with
  | zero => unfold cpBytes; grind [Keeps.refl, Stays.refl]
  | succ n ih => unfold cpBytes; grind [Keeps.refl, Stays.refl]
grind_pattern cpBytes_keeps => cpBytes s c a bad x0

theorem rangeBytes_keeps (s : State) (c : Nat) (bad : List Nat) (x0 : List (Nat × Nat × Nat × Nat)) : Keeps s (rangeBytes s c bad x0).1 := by
  induction x0 generalizing s c bad with
  | nil => unfold rangeBytes; grind [Keeps.refl, Stays.refl]
  | cons e r ih => unfold rangeBytes; grind [Keeps.refl, Stays.refl]
grind_pattern rangeBytes_keeps => rangeBytes s c bad x0

theorem coreDigests_keeps (s : State) (x : Launch) (x0 : List Nat) : Keeps s (coreDigests s x x0).1 := by
  induction x0 generalizing s x with
  | nil => unfold coreDigests; grind [Keeps.refl, Stays.refl]
  | cons e r ih => unfold coreDigests; grind [Keeps.refl, Stays.refl]
grind_pattern coreDigests_keeps => coreDigests s x x0

theorem endDigest_keeps (s : State) (l : Nat) : Keeps s (endDigest s l).1 := by
  unfold endDigest
  repeat' (first | split | extract_lets)
  all_goals grind [Keeps.refl, Stays.refl]
grind_pattern endDigest_keeps => endDigest s l

theorem endRecord_keeps (s : State) (l : Nat) : Keeps s (endRecord s l).1 := by
  unfold endRecord; grind [Keeps.refl, Stays.refl, Core.memWf]
grind_pattern endRecord_keeps => endRecord s l

theorem endState_keeps (s : State) (l : Nat) : Keeps s (endState s l).1 := by
  unfold endState; grind [Keeps.refl, Stays.refl, Core.memWf]
grind_pattern endState_keeps => endState s l

theorem readSucc_keeps (s : State) (c a : Nat) (bad : List Nat) (x0 : Nat) : Keeps s (readSucc s c a bad x0).1 := by
  induction x0 generalizing s c a bad with
  | zero => unfold readSucc; grind [Keeps.refl, Stays.refl]
  | succ n ih => unfold readSucc; grind [Keeps.refl, Stays.refl]
grind_pattern readSucc_keeps => readSucc s c a bad x0

theorem endSucc_keeps (s : State) (l : Nat) : Keeps s (endSucc s l).1 := by
  unfold endSucc
  repeat' (first | split | extract_lets)
  all_goals grind [Keeps.refl, Stays.refl]
grind_pattern endSucc_keeps => endSucc s l

theorem endSteps_keeps (l : Nat) (x0 : Nat) (x1 : State) : Keeps x1 (endSteps l x0 x1) := by
  induction x0 generalizing l x1 with
  | zero => unfold endSteps; grind [Keeps.refl, Stays.refl]
  | succ n ih => unfold endSteps; grind [Keeps.refl, Stays.refl]
grind_pattern endSteps_keeps => endSteps l x0 x1

theorem execLaunchEnd_ends (launch : Nat) (s : State) : Ends s (execLaunchEnd launch s) := by
  unfold execLaunchEnd; grind [Keeps.refl, Stays.refl, Core.memWf]
grind_pattern execLaunchEnd_ends => execLaunchEnd launch s

end Sys2Proof.Machine
end

