-- ==== Sys2Proof/Laws/KeepsSystem.lean ====
section
/-! SUPPORT. The operations of Machine/System.lean keep what every step keeps (Laws/KeepsBase.lean). -/

namespace Sys2Proof.Machine
open State

theorem sysScalar_ends (s : State) (g n : Nat) (v : DWord) : Ends s (sysScalar s g n v) := by
  unfold sysScalar; grind [Keeps.refl, Stays.refl, Core.memWf]
grind_pattern sysScalar_ends => sysScalar s g n v

theorem execTlr_ends (f : FmtY) (s : State) : Ends s (execTlr f s) := by
  unfold execTlr; grind [Keeps.refl, Stays.refl, Core.memWf]
grind_pattern execTlr_ends => execTlr f s

theorem execTlc_ends (f : FmtY) (s : State) : Ends s (execTlc f s) := by
  unfold execTlc; grind [Keeps.refl, Stays.refl, Core.memWf]
grind_pattern execTlc_ends => execTlc f s

theorem execSrd_ends (f : FmtY) (s : State) : Ends s (execSrd f s) := by
  unfold execSrd; grind [Keeps.refl, Stays.refl, Core.memWf]
grind_pattern execSrd_ends => execSrd f s

theorem setCtxReg_stays (s : State) (c idx : Nat) (v : DWord) : Stays s (setCtxReg s c idx v) := by
  unfold setCtxReg; grind [Stays.refl, Core.memWf]
grind_pattern setCtxReg_stays => setCtxReg s c idx v

theorem settleCtxRegs_stays (s : State) (core : Nat) : Stays s (settleCtxRegs s core) := by
  unfold settleCtxRegs; grind [Stays.refl, Core.memWf]
grind_pattern settleCtxRegs_stays => settleCtxRegs s core

theorem execSwr_ends (f : FmtY) (s : State) : Ends s (execSwr f s) := by
  unfold execSwr; grind [Keeps.refl, Stays.refl, Core.memWf]
grind_pattern execSwr_ends => execSwr f s

theorem execFeat_ends (f : FmtY) (s : State) : Ends s (execFeat f s) := by
  unfold execFeat; grind [Keeps.refl, Stays.refl, Core.memWf]
grind_pattern execFeat_ends => execFeat f s

theorem execRdc_ends (f : FmtY) (s : State) : Ends s (execRdc f s) := by
  unfold execRdc; grind [Keeps.refl, Stays.refl, Core.memWf]
grind_pattern execRdc_ends => execRdc f s

theorem execMsg_ends (f : FmtY) (s : State) : Ends s (execMsg f s) := by
  unfold execMsg; grind [Keeps.refl, Stays.refl, Core.memWf]
grind_pattern execMsg_ends => execMsg f s

theorem execPageFaultReport_ends (s : State) : Ends s (execPageFaultReport s) := by
  unfold execPageFaultReport; grind [Keeps.refl, Stays.refl, Core.memWf]
grind_pattern execPageFaultReport_ends => execPageFaultReport s

end Sys2Proof.Machine
end

