-- ==== Sys2Proof/Laws/KeepsEnergy.lean ====
section
/-! SUPPORT. The operations of Machine/Energy.lean keep what every step keeps (Laws/KeepsBase.lean). -/

namespace Sys2Proof.Machine
open State

theorem settleTeamRegs_stays (s : State) (tm now : Nat) : Stays s (settleTeamRegs s tm now) := by
  unfold settleTeamRegs; grind [Keeps.refl, Stays.refl, Core.memWf]
grind_pattern settleTeamRegs_stays => settleTeamRegs s tm now

theorem closeCycle_stays (s : State) (cs : List Nat) (hi : Bool) : Stays s (closeCycle s cs hi) := by
  refine eachDo_stays _ cs s fun s c => ?_
  refine .trans ((correctStore_stays s c).trans (settleCtxRegs_stays _ c)) ?_
  refine .trans (.trans (modDev_stays _ _ ?_) (eachDo_stays _ _ _ ?_)) (modCore_stays _ _ _ ?_)
  · exact fun _ => rfl
  · exact fun s tm => settleTeamRegs_stays s tm _
  · exact fun _ h => h
grind_pattern closeCycle_stays => closeCycle s cs hi

theorem execRailStopEnd_ends (cluster : Nat) (s : State) : Ends s (execRailStopEnd cluster s) := by
  unfold execRailStopEnd
  apply ends_next
  apply eachDo_stays
  intro s c
  split
  · exact .refl s
  · rename_i old _
    refine (closeCycle_stays s (clockCores s c) old).trans ?_
    apply eachDo_stays
    intro s c
    apply modCore_stays
    intro k h
    simpa only [Core.memWf] using h
grind_pattern execRailStopEnd_ends => execRailStopEnd cluster s

theorem dropLease_stays (s : State) (k c : Nat) : Stays s (dropLease s k c) := by
  unfold dropLease; grind [Keeps.refl, Stays.refl, Core.memWf]
grind_pattern dropLease_stays => dropLease s k c

theorem putLease_stays (s : State) (k c left : Nat) : Stays s (putLease s k c left) := by
  unfold putLease; grind [Keeps.refl, Stays.refl, Core.memWf]
grind_pattern putLease_stays => putLease s k c left

theorem requestLease_stays (s : State) (k c n : Nat) : Stays s (requestLease s k c n).1 := by
  unfold requestLease; grind [Keeps.refl, Stays.refl, Core.memWf]
grind_pattern requestLease_stays => requestLease s k c n

theorem execLease_ends (f : FmtY) (s : State) : Ends s (execLease f s) := by
  unfold execLease
  repeat' (first | split | extract_lets)
  all_goals grind [Keeps.refl, Stays.refl]
grind_pattern execLease_ends => execLease f s

theorem execLrel_ends (f : FmtY) (s : State) : Ends s (execLrel f s) := by
  unfold execLrel
  repeat' (first | split | extract_lets)
  all_goals grind [Keeps.refl, Stays.refl]
grind_pattern execLrel_ends => execLrel f s

theorem execLeaseExpire_ends (cluster ctx : Nat) (s : State) : Ends s (execLeaseExpire cluster ctx s) := by
  unfold execLeaseExpire
  repeat' (first | split | extract_lets)
  all_goals grind [Keeps.refl, Stays.refl]
grind_pattern execLeaseExpire_ends => execLeaseExpire cluster ctx s

theorem ageLeases_stays (s : State) (k : Nat) : Stays s (ageLeases s k) := by
  unfold ageLeases; grind [Keeps.refl, Stays.refl, Core.memWf]
grind_pattern ageLeases_stays => ageLeases s k

theorem changeRail_stays (s : State) (k : Nat) : Stays s (changeRail s k) := by
  unfold changeRail; grind [Keeps.refl, Stays.refl, Core.memWf]
grind_pattern changeRail_stays => changeRail s k

theorem setCredits_keeps (s : State) (k : Nat) : Keeps s (setCredits s k) := by
  unfold setCredits; grind [Keeps.refl, Stays.refl, Core.memWf]
grind_pattern setCredits_keeps => setCredits s k

theorem recheckThrottle_keeps (s : State) (k : Nat) : Keeps s (recheckThrottle s k) := by
  unfold recheckThrottle; grind [Keeps.refl]
grind_pattern recheckThrottle_keeps => recheckThrottle s k

theorem execTeamThrottle_ends (team : Nat) (s : State) : Ends s (execTeamThrottle team s) := by
  unfold execTeamThrottle; grind [Stays.refl, Core.memWf]
grind_pattern execTeamThrottle_ends => execTeamThrottle team s

theorem sampleCore_keeps (s : State) (c temp : Nat) : Keeps s (sampleCore s c temp) := by
  unfold sampleCore; grind [Keeps.refl, Stays.refl, Core.memWf]
grind_pattern sampleCore_keeps => sampleCore s c temp

theorem countSleep_stays (s : State) (k : Nat) : Stays s (countSleep s k) := by
  unfold countSleep; grind [Keeps.refl, Stays.refl, Core.memWf]
grind_pattern countSleep_stays => countSleep s k

theorem sampleCores_keeps (s : State) (k : Nat) (temps : List (Nat × Nat)) : Keeps s (sampleCores s k temps) := by
  unfold sampleCores; grind [Keeps.refl, Stays.refl, Core.memWf]
grind_pattern sampleCores_keeps => sampleCores s k temps

theorem startInterval_keeps (s : State) (k : Nat) (temps : List (Nat × Nat)) : Keeps s (startInterval s k temps) := by
  unfold startInterval; grind [Keeps.refl, Stays.refl, Core.memWf]
grind_pattern startInterval_keeps => startInterval s k temps

theorem execControlIntervalStart_ends (cluster : Nat) (start : Bool) (temps : List (Nat × Nat)) (s : State) : Ends s (execControlIntervalStart cluster start temps s) := by
  unfold execControlIntervalStart
  repeat' (first | split | extract_lets)
  all_goals grind [Keeps.refl, Stays.refl]
grind_pattern execControlIntervalStart_ends => execControlIntervalStart cluster start temps s

theorem execPackageIntervalEnd_ends (leak bandwidth : Nat) (s : State) : Ends s (execPackageIntervalEnd leak bandwidth s) := by
  unfold execPackageIntervalEnd
  repeat' (first | split | extract_lets)
  all_goals grind [Keeps.refl, Stays.refl]
grind_pattern execPackageIntervalEnd_ends => execPackageIntervalEnd leak bandwidth s

theorem sleepOp_ends (s : State) (f : FmtY) (notice : Bool) : Ends s (sleepOp s f notice) := by
  unfold sleepOp
  repeat' (first | split | extract_lets)
  all_goals grind [Keeps.refl, Stays.refl]
grind_pattern sleepOp_ends => sleepOp s f notice

theorem execSlpIv_ends (f : FmtY) (s : State) : Ends s (execSlpIv f s) := by
  unfold execSlpIv
  repeat' (first | split | extract_lets)
  all_goals grind [Keeps.refl, Stays.refl]
grind_pattern execSlpIv_ends => execSlpIv f s

theorem execSlpNtc_ends (f : FmtY) (s : State) : Ends s (execSlpNtc f s) := by
  unfold execSlpNtc
  repeat' (first | split | extract_lets)
  all_goals grind [Keeps.refl, Stays.refl]
grind_pattern execSlpNtc_ends => execSlpNtc f s

theorem execSleepWake_ends (core slot : Nat) (s : State) : Ends s (execSleepWake core slot s) := by
  unfold execSleepWake
  repeat' (first | split | extract_lets)
  all_goals grind [Keeps.refl, Stays.refl]
grind_pattern execSleepWake_ends => execSleepWake core slot s

end Sys2Proof.Machine
end

