-- ==== Sys2Proof/Laws/KeepsSwitch.lean ====
section
/-! SUPPORT. The operations of Machine/Switch.lean keep what every step keeps (Laws/KeepsBase.lean). -/

namespace Sys2Proof.Machine
open State

/-- A core changed with another core's memories at hand. -/
theorem modCore_from (s : State) (c : Nat) (f : Core → Core) (h : s.memWf = true → ∀ k, k.memWf = true → (f k).memWf = true) :
    Stays s (s.modCore c f) :=
  ⟨⟨fun w => (modCore_stays s c f (h w)).keeps.mem w, rfl, Nat.le_refl _⟩, rfl⟩
theorem memWf_parts {k : Core} (h : k.memWf = true) :
    Mem.wf k.store = true ∧ Mem.wf k.veneer = true ∧ Mem.wf k.chainBuf = true ∧ rising k.storeEmpty = true := by
  simp only [Core.memWf, Bool.and_eq_true] at h
  exact ⟨h.1.1.1, h.1.1.2, h.1.2, h.2⟩
theorem memWf_of_parts {k : Core} (a : Mem.wf k.store = true) (b : Mem.wf k.veneer = true) (c : Mem.wf k.chainBuf = true)
    (d : rising k.storeEmpty = true) : k.memWf = true := by
  simp only [Core.memWf, a, b, c, d, Bool.and_self]
theorem moveWindow_stays (s : State) (c frame c' frame' size : Nat) : Stays s (moveWindow s c frame c' frame' size) := by
  refine .trans (modCore_from s c' _ fun w y h => ?_) (clearWindow_stays _ _ _ _)
  have hk := memWf_parts (memWf_core c w)
  have hy := memWf_parts h
  exact memWf_of_parts (moveMem_wf _ _ _ hk.1 hy.1) hy.2.1 hy.2.2.1 (moveNats_rising _ _ _ hk.2.2.2 hy.2.2.2)
grind_pattern moveWindow_stays => moveWindow s c frame c' frame' size

theorem moveTiles_stays (s : State) (c c' : Nat) (ts ts' : List Nat) : Stays s (moveTiles s c c' ts ts') := by
  refine .trans (modCore_from s c' _ fun w y h => foldCore_wf _ (fun y p h => ?_) _ y h) (clearTiles_stays _ _ _)
  have hk := memWf_parts (memWf_core c w)
  have hy := memWf_parts h
  exact memWf_of_parts hy.1 (moveMem_wf _ _ _ hk.2.1 hy.2.1) hy.2.2.1 hy.2.2.2
grind_pattern moveTiles_stays => moveTiles s c c' ts ts'

theorem repoint_stays (s : State) (tm : Nat) (t t' : Team) (m : List (Nat × Nat)) : Stays s (repoint s tm t t' m) := by
  unfold repoint
  extract_lets gctr wt fault item cmd ctx core clu s1
  have h1 : Stays s s1 := .mapped (fun e => core e.2) (fun _ h => h) rfl rfl rfl rfl rfl rfl
  exact h1.trans (modTeam_stays _ _ _)
grind_pattern repoint_stays => repoint s tm t t' m

theorem followTasks_stays (s : State) : Stays s (followTasks s) := by
  unfold followTasks
  extract_lets away home moved s1
  split
  · exact .refl s
  · have h1 : Stays s s1 := .same rfl rfl rfl rfl rfl rfl
    exact h1.trans (eachDo_stays _ _ _ fun s f => modCluster_stays _ _ _)
grind_pattern followTasks_stays => followTasks s

theorem settleAllRegs_stays (s : State) (tm : Nat) : Stays s (settleAllRegs s tm) := by
  unfold settleAllRegs; grind [Stays.refl, Core.memWf]
grind_pattern settleAllRegs_stays => settleAllRegs s tm

theorem relocate_keeps (s : State) (tm : Nat) (d : Dest) : Keeps s (relocate s tm d) := by
  unfold relocate
  extract_lets s0 t away t' pairs live xs sm sc cores' s1 s2 s3 s4 s5 ptrs s6 waits s7 s8 s9 s10
  have h0 : Keeps s s0 := (settleAllRegs_stays _ _).keeps
  have hm : Keeps s0 sm := eachDo_keeps _ _ _ fun a p => (tellProxy_stays _ _ _).keeps
  have hc : Keeps sm sc := by clear_value sm; grind [Keeps.refl]
  have h1 : Keeps sc s1 := eachDo_keeps _ _ _ fun a c => by grind [Keeps.refl, Stays.refl, Core.memWf]
  have h2 : Keeps s1 s2 := (moveWindow_stays _ _ _ _ _ _).keeps
  have h3 : Keeps s2 s3 := by clear_value s2; grind [Keeps.refl, Stays.refl]
  have h4 : Keeps s3 s4 := (moveTiles_stays _ _ _ _ _).keeps
  have h5 : Keeps s4 s5 := by clear_value s4; grind [Keeps.refl, Stays.refl]
  have h6 : Keeps s5 s6 := by clear_value s5; grind [Keeps.refl, Stays.refl, Core.memWf]
  have h7 : Keeps s6 s7 := eachDo_keeps _ _ _ fun a c => by grind [Keeps.refl, Stays.refl, Core.memWf]
  have h9 : Keeps s8 s9 := eachDo_keeps _ _ _ fun a c => (setGrp_stays _ _ _).keeps
  have h10 : Keeps s9 s10 := eachDo_keeps _ _ _ fun a c => by grind [Keeps.refl, Stays.refl, Core.memWf]
  exact h0.trans (hm.trans (hc.trans (h1.trans (h2.trans (h3.trans (h4.trans (h5.trans (h6.trans (h7.trans
    ((setTeam_stays _ _ _).keeps.trans (h9.trans (h10.trans (repoint_stays _ _ _ _ _).keeps))))))))))))
grind_pattern relocate_keeps => relocate s tm d

theorem rejig_stays (s : State) (tm u : Nat) : Stays s (rejig s tm u) := by
  unfold rejig; grind [Keeps.refl, Stays.refl, Core.memWf]
grind_pattern rejig_stays => rejig s tm u

theorem freeMonitor_stays (s : State) (g : Nat) : Stays s (freeMonitor s g) := by
  unfold freeMonitor; grind [Keeps.refl, Stays.refl, Core.memWf]
grind_pattern freeMonitor_stays => freeMonitor s g

theorem savePart_keeps (s : State) (c a : Nat) (bs : List Nat) : Keeps s (savePart s c a bs) := by
  unfold savePart; grind [Keeps.refl, Stays.refl, Core.memWf]
grind_pattern savePart_keeps => savePart s c a bs

theorem saveOpaque_keeps (s : State) (c a size : Nat) : Keeps s (saveOpaque s c a size) := by
  unfold saveOpaque; grind [Keeps.refl, Stays.refl, Core.memWf]
grind_pattern saveOpaque_keeps => saveOpaque s c a size

theorem saveCore_keeps (s : State) (c core j : Nat) : Keeps s (saveCore s c core j) := by
  unfold saveCore; grind [Keeps.refl, Stays.refl, Core.memWf]
grind_pattern saveCore_keeps => saveCore s c core j

theorem foldMem_wf {α : Type} (f : Mem → α → Mem) (h : ∀ m a, Mem.wf m = true → Mem.wf (f m a) = true) (l : List α) (m : Mem)
    (w : Mem.wf m = true) : Mem.wf (l.foldl f m) = true := by
  induction l generalizing m with
  | nil => exact w
  | cons a r ih => exact ih _ (h m a w)
theorem moveFills_stays (s : State) (c c' : Nat) (p : Cmd → Bool) : Stays s (moveFills s c c' p) :=
  .same rfl rfl rfl rfl rfl rfl
grind_pattern moveFills_stays => moveFills s c c' p

theorem addCmd_stays (s : State) (c c' : Nat) (d : Cmd) : Stays s (addCmd s c c' d) := by
  unfold addCmd; grind [Stays.refl, Core.memWf]
grind_pattern addCmd_stays => addCmd s c c' d

theorem addCmds_stays (c c' : Nat) (ds : List Cmd) (s : State) :
    Stays s (eachDo ds s fun s d => addCmd s c c' { d with wait := none }) :=
  eachDo_stays _ _ _ fun s d => addCmd_stays s c c' _

theorem saveCmds_stays (s : State) (tm : Nat) : Stays s (saveCmds s tm) := by
  unfold saveCmds
  extract_lets t from_
  apply eachDo_stays
  intro s c
  extract_lets k mine drop c' s1 s2 buf s3
  have h1 : Stays s s1 := by
    unfold s1
    refine .trans ?_ (moveFills_stays _ _ _ _)
    exact .same rfl rfl rfl rfl rfl rfl
  have h2 : Stays s s2 := by
    unfold s2
    clear_value s1
    refine h1.trans (.trans ?_ (kickAll_stays _ _))
    exact modCore_stays _ _ _ fun _ h => h
  have h3 : Stays s s3 := h2.trans (addCmds_stays ..)
  clear_value s3
  by_cases w : s.memWf = true
  · refine h3.trans (modCore_stays _ _ _ fun y h => ?_)
    have hk := memWf_parts (memWf_core c w)
    have hy := memWf_parts h
    refine memWf_of_parts hy.1 hy.2.1 (foldMem_wf _ (fun m d hm => ?_) _ _ hy.2.2.1) hy.2.2.2
    show Mem.wf (match d.region with | some (a, n) => moveMem k.chainBuf m a a n | none => m) = true
    split
    · exact moveMem_wf _ _ _ hk.2.2.1 hm
    · exact hm
  · exact ⟨⟨fun v => absurd v w, h3.keeps.enabled, h3.keeps.free⟩, h3.noMem⟩
grind_pattern saveCmds_stays => saveCmds s tm

theorem cctlDone_stays (s : State) (c : Nat) : Stays s (cctlDone s c) := by
  unfold cctlDone; grind [Keeps.refl, Stays.refl, Core.memWf]
grind_pattern cctlDone_stays => cctlDone s c

theorem finishSave_keeps (s : State) (c : Nat) : Keeps s (finishSave s c) := by
  unfold finishSave; grind [Keeps.refl, Stays.refl, Core.memWf]
grind_pattern finishSave_keeps => finishSave s c

theorem finishSaves_keeps (s : State) : Keeps s (finishSaves s) := by
  unfold finishSaves; grind [Keeps.refl, Core.memWf]
grind_pattern finishSaves_keeps => finishSaves s

theorem execGroupSave_ends (core slot : Nat) (s : State) : Ends s (execGroupSave core slot s) := by
  unfold execGroupSave
  repeat' (first | split | extract_lets)
  all_goals grind [Keeps.refl, Stays.refl]
grind_pattern execGroupSave_ends => execGroupSave core slot s

theorem execCctlPreempt_ends (ctx : Nat) (s : State) : Ends s (execCctlPreempt ctx s) := by
  unfold execCctlPreempt
  repeat' (first | split | extract_lets)
  all_goals grind [Keeps.refl, Stays.refl]
grind_pattern execCctlPreempt_ends => execCctlPreempt ctx s

theorem killCtx_stays (s : State) (c : Nat) : Stays s (killCtx s c) := by
  unfold killCtx
  extract_lets ts gs mineT s1 s2 held s3 s4 keep drop late s5 s6 s7 ls s8
  have h1 : Stays s s1 := by
    apply eachDo_stays
    intro s k
    extract_lets ds gone a b e
    have ha : Stays s a := .same rfl rfl rfl rfl rfl rfl
    have hb : Stays a b := eachDo_stays _ _ _ fun s d => tellFill_stays _ _ _ _
    have he : Stays b e := modCore_stays _ _ _ fun _ h => h
    exact ((ha.trans hb).trans he).trans ((eachDo_stays _ _ _ fun s d => releaseTiles_stays _ _ _).trans (kickAll_stays _ _))
  have h2 : Stays s1 s2 := eachDo_stays _ _ _ fun s g => freeSlot_stays _ _
  have h3 : Stays s2 s3 := eachDo_stays _ _ _ fun s t => dropCarve_stays _ _
  have h4 : Stays s3 s4 := by
    apply eachDo_stays
    intro s tm
    extract_lets t s'
    have : Stays s s' := by
      show Stays s (if savedCore 0 ≤ t.core then (s.setCore (savedCore tm) {}).setCore (savedCore tm + 1) {} else s)
      split
      · exact (setCore_stays _ _ _ fun _ => rfl).trans (setCore_stays _ _ _ fun _ => rfl)
      · exact .refl s
    exact this.trans (setTeam_stays _ _ _)
  have h5 : Stays s4 s5 := .same rfl rfl rfl rfl rfl rfl
  have h6 : Stays s5 s6 := by clear_value s5; grind [Stays.refl]
  have h7 : Stays s6 s7 := by clear_value s6; grind [Stays.refl]
  have h8 : Stays s7 s8 := by
    apply eachDo_stays
    intro s l
    exact (modLaunch_stays s l _).trans (post_stays _ _)
  exact (((((((h1.trans h2).trans h3).trans h4).trans h5).trans h6).trans h7).trans h8).trans (modCtx_stays _ _ _)
grind_pattern killCtx_stays => killCtx s c

theorem execCctlKill_ends (ctx : Nat) (s : State) : Ends s (execCctlKill ctx s) := by
  unfold execCctlKill
  repeat' (first | split | extract_lets)
  all_goals grind [Keeps.refl, Stays.refl]
grind_pattern execCctlKill_ends => execCctlKill ctx s

theorem execCtxcfgCreate_ends (ctx : Nat) (v : DWord) (s : State) : Ends s (execCtxcfgCreate ctx v s) := by
  unfold execCtxcfgCreate
  repeat' (first | split | extract_lets)
  all_goals grind [Keeps.refl, Stays.refl]
grind_pattern execCtxcfgCreate_ends => execCtxcfgCreate ctx v s

theorem execCtxcfgDelete_ends (ctx : Nat) (s : State) : Ends s (execCtxcfgDelete ctx s) := by
  unfold execCtxcfgDelete
  repeat' (first | split | extract_lets)
  all_goals grind [Keeps.refl, Stays.refl]
grind_pattern execCtxcfgDelete_ends => execCtxcfgDelete ctx s

/-- What `Stays` says, but for the memories. -/
def Loose (a t : State) : Prop := t.dev.enabled = a.dev.enabled ∧ a.freeCtr ≤ t.freeCtr ∧ t.noMem = a.noMem

theorem Loose.trans {a b c : State} (h : Loose a b) (k : Loose b c) : Loose a c :=
  ⟨k.1.trans h.1, Nat.le_trans h.2.1 k.2.1, k.2.2.trans h.2.2⟩

theorem modCore_loose (s : State) (c : Nat) (f : Core → Core) : Loose s (s.modCore c f) := ⟨rfl, Nat.le_refl _, rfl⟩

theorem eachDo_rel {α : Type} (R : State → State → Prop) (refl : ∀ s, R s s) (trans : ∀ {a b c}, R a b → R b c → R a c)
    (f : State → α → State) (h : ∀ s a, R s (f s a)) (l : List α) (s : State) : R s (eachDo l s f) := by
  induction l generalizing s with
  | nil => exact refl s
  | cons a r ih => exact trans (h s a) (ih _)

theorem Stays.ofWf {s t : State} (h : s.memWf = true → Stays s t) (e : t.dev.enabled = s.dev.enabled)
    (f : s.freeCtr ≤ t.freeCtr) (n : t.noMem = s.noMem) : Stays s t :=
  ⟨⟨fun w => (h w).keeps.mem w, e, f⟩, n⟩

theorem restoreCmds_stays (s : State) (tm u : Nat) : Stays s (restoreCmds s tm u) := by
  unfold restoreCmds
  extract_lets t
  apply eachDo_stays
  intro s i
  extract_lets from_ s1 s2
  have h1 : Stays s s1 := moveFills_stays s _ _ _
  -- the buffer of the saved core is canonical where the machine's memories are
  have each : ∀ (l : List Cmd) (a : State), Mem.wf from_.chainBuf = true → Stays a (eachDo l a fun s d =>
      match d.region with
      | none => addCmd s (savedCore tm + i) (u + i) d
      | some (a, n) =>
        let b := (findRegion (s.core (u + i)) n).getD 0
        (addCmd s (savedCore tm + i) (u + i) { d with region := some (b, n) }).modCore (u + i) fun k =>
          { k with chainBuf := moveMem from_.chainBuf k.chainBuf a b n }) := by
    intro l a w
    apply eachDo_stays
    intro s d
    split
    · exact addCmd_stays ..
    · refine (addCmd_stays ..).trans (modCore_stays _ _ _ fun y h => ?_)
      have hy := memWf_parts h
      exact memWf_of_parts hy.1 hy.2.1 (moveMem_wf _ _ _ w hy.2.2.1) hy.2.2.2
  have hl : Loose s1 s2 := by
    refine eachDo_rel Loose (fun _ => ⟨rfl, Nat.le_refl _, rfl⟩) Loose.trans _ (fun a d => ?_) _ _
    have loose : ∀ {x y : State}, Stays x y → Loose x y := fun h => ⟨h.keeps.enabled, h.keeps.free, h.noMem⟩
    dsimp only
    split
    · exact loose (addCmd_stays ..)
    · exact (loose (addCmd_stays ..)).trans (modCore_loose ..)
  have h2 : Stays s1 s2 := .ofWf
    (fun w => each _ _ (memWf_parts (memWf_core (s := s1) (savedCore tm + i) w)).2.2.1) hl.1 hl.2.1 hl.2.2
  exact (h1.trans h2).trans (setCore_stays _ _ _ fun _ => rfl)
grind_pattern restoreCmds_stays => restoreCmds s tm u

theorem rewalkReg_keeps (s : State) (c : Nat) (r : TReg) : Keeps s (rewalkReg s c r).1 := by
  unfold rewalkReg; grind [Keeps.refl, Core.memWf]
grind_pattern rewalkReg_keeps => rewalkReg s c r

theorem rewalkRegs_keeps (s : State) (c : Nat) (rs : Tab TReg) : Keeps s (rewalkRegs s c rs).1 := by
  unfold rewalkRegs; grind [Keeps.refl, Core.memWf]
grind_pattern rewalkRegs_keeps => rewalkRegs s c rs

theorem rewalk_keeps (s : State) (g : Nat) : Keeps s (rewalk s g) := by
  unfold rewalk; grind [Keeps.refl, Stays.refl, Core.memWf]
grind_pattern rewalk_keeps => rewalk s g

theorem rewalkOrigins_keeps (s : State) (tm : Nat) : Keeps s (rewalkOrigins s tm) := by
  unfold rewalkOrigins; grind [Keeps.refl, Core.memWf]
grind_pattern rewalkOrigins_keeps => rewalkOrigins s tm

theorem restoreTeam_keeps (s : State) (tm : Nat) : Keeps s (restoreTeam s tm) := by
  unfold restoreTeam
  repeat' (first | split | extract_lets)
  all_goals grind [Keeps.refl, Stays.refl]
grind_pattern restoreTeam_keeps => restoreTeam s tm

theorem reviveGroup_keeps (s : State) (g : Nat) : Keeps s (reviveGroup s g) := by
  unfold reviveGroup; grind [Keeps.refl, Keeps.refl, Stays.refl, Core.memWf]
grind_pattern reviveGroup_keeps => reviveGroup s g

theorem execCctlRestore_ends (ctx : Nat) (s : State) : Ends s (execCctlRestore ctx s) := by
  unfold execCctlRestore
  repeat' (first | split | extract_lets)
  all_goals grind [Keeps.refl, Stays.refl]
grind_pattern execCctlRestore_ends => execCctlRestore ctx s

theorem afterMove_keeps (s : State) (tm old : Nat) : Keeps s (afterMove s tm old) := by
  unfold afterMove; grind [Keeps.refl, Stays.refl, Core.memWf]
grind_pattern afterMove_keeps => afterMove s tm old

theorem halfDuty_stays (s : State) (c : Nat) (b : Bool) : Stays s (s.modCore c fun k => { k with halfDuty := b }) :=
  modCore_stays s c _ fun _ h => h
theorem setDuty_keeps (s : State) (cs : List Nat) : Keeps s (setDuty s cs) := by
  unfold setDuty; grind [Keeps.refl, Core.memWf]
grind_pattern setDuty_keeps => setDuty s cs

theorem noTarget_keeps (s : State) (tm : Nat) : Keeps s (noTarget s tm) := by
  unfold noTarget; grind [Keeps.refl, Core.memWf]
grind_pattern noTarget_keeps => noTarget s tm

theorem aimAt_keeps (s : State) (tm u : Nat) : Keeps s (aimAt s tm u) := by
  unfold aimAt; grind [Keeps.refl, Core.memWf]
grind_pattern aimAt_keeps => aimAt s tm u

theorem moveTeam_keeps (s : State) (tm : Nat) (d : Dest) : Keeps s (moveTeam s tm d) := by
  unfold moveTeam; grind [Keeps.refl, Core.memWf]
grind_pattern moveTeam_keeps => moveTeam s tm d

theorem arriveAt_keeps (s : State) (tm u : Nat) : Keeps s (arriveAt s tm u) := by
  unfold arriveAt; grind [Keeps.refl, Core.memWf]
grind_pattern arriveAt_keeps => arriveAt s tm u

theorem execTeamMigrate_ends (team : Nat) (s : State) : Ends s (execTeamMigrate team s) := by
  unfold execTeamMigrate; grind [Keeps.refl, Stays.refl]
grind_pattern execTeamMigrate_ends => execTeamMigrate team s

end Sys2Proof.Machine
end

