-- ==== Sys2Proof/Laws/KeepsHost.lean ====
section
/-! SUPPORT. The operations of Machine/Host.lean keep what every step keeps (Laws/KeepsBase.lean). -/

namespace Sys2Proof.Machine
open State

theorem unlessRecovery_ends (s t : State) (h : Stays s t) : Ends s (unlessRecovery s t) := by
  unfold unlessRecovery; grind [Keeps.refl, Stays.refl]
grind_pattern unlessRecovery_ends => unlessRecovery s t
/-- A change of device registers that leaves the enabled cores. -/
theorem setDev_stays (s : State) (d : Device) (h : d.enabled = s.dev.enabled) : Stays s { s with dev := d } :=
  ⟨⟨fun w => w, h, Nat.le_refl _⟩, rfl⟩
grind_pattern setDev_stays => State.mk s.cores s.idle s.teams s.launches s.ctxs s.clusters s.fns d s.hbm s.empties s.hbmCode s.l2 s.badMem s.softMem s.headland s.arrivals s.proxies s.monitors s.tickets s.faults s.faultWait s.decs s.launchQ s.greqs s.items s.recvd s.xlcache s.outbox s.hostReply s.nextTeam s.nextLaunch s.agenda s.curCore s.curSlot s.freeCtr s.noMem

theorem execArrive_ends (ctx : Nat) (v : DWord) (s : State) : Ends s (execArrive ctx v s) := by
  unfold execArrive
  repeat' (first | split | extract_lets)
  all_goals grind [Keeps.refl, Stays.refl]
grind_pattern execArrive_ends => execArrive ctx v s

theorem resolveGroup_stays (s : State) (g page : Nat) (bad : Bool) : Stays s (resolveGroup s g page bad) := by
  unfold resolveGroup; grind [Keeps.refl, Stays.refl, Core.memWf]
grind_pattern resolveGroup_stays => resolveGroup s g page bad

theorem resolveCmds_stays (s : State) (ctx core q page : Nat) (bad : Bool) : Stays s (resolveCmds s ctx core q page bad) := by
  unfold resolveCmds; grind [Keeps.refl, Stays.refl, Core.memWf]
grind_pattern resolveCmds_stays => resolveCmds s ctx core q page bad

theorem resolveDecs_stays (s : State) (c page : Nat) (bad : Bool) : Stays s (resolveDecs s c page bad) := by
  unfold resolveDecs; grind [Keeps.refl, Stays.refl, Core.memWf]
grind_pattern resolveDecs_stays => resolveDecs s c page bad

theorem resolveLaunch_stays (s : State) (l page : Nat) (bad : Bool) : Stays s (resolveLaunch s l page bad) := by
  unfold resolveLaunch; grind [Keeps.refl, Stays.refl, Core.memWf]
grind_pattern resolveLaunch_stays => resolveLaunch s l page bad

theorem resolveTeam_keeps (s : State) (t : Nat) (bad : Bool) : Keeps s (resolveTeam s t bad) := by
  unfold resolveTeam; grind [Keeps.refl, Stays.refl, Core.memWf]
grind_pattern resolveTeam_keeps => resolveTeam s t bad

theorem resolveWaiter_keeps (f : OpenFault) (bad : Bool) (s : State) (w : FWaiter) : Keeps s (resolveWaiter f bad s w) := by
  unfold resolveWaiter; grind [Keeps.refl, Stays.refl, Core.memWf]
grind_pattern resolveWaiter_keeps => resolveWaiter f bad s w

theorem resolve__keeps (s : State) (ctx seq : Nat) (bad : Bool) : Keeps s (resolve_ s ctx seq bad) := by
  unfold resolve_; grind [Keeps.refl, Stays.refl, Core.memWf]
grind_pattern resolve__keeps => resolve_ s ctx seq bad

theorem execFresolveResolved_ends (ctx seq : Nat) (s : State) : Ends s (execFresolveResolved ctx seq s) := by
  unfold execFresolveResolved
  repeat' (first | split | extract_lets)
  all_goals grind [Keeps.refl, Stays.refl]
grind_pattern execFresolveResolved_ends => execFresolveResolved ctx seq s

theorem execFresolveUnresolvable_ends (ctx seq : Nat) (s : State) : Ends s (execFresolveUnresolvable ctx seq s) := by
  unfold execFresolveUnresolvable
  repeat' (first | split | extract_lets)
  all_goals grind [Keeps.refl, Stays.refl]
grind_pattern execFresolveUnresolvable_ends => execFresolveUnresolvable ctx seq s

theorem shootBegin_stays (s : State) (c : Nat) (v : DWord) : Stays s (shootBegin s c v) := by
  unfold shootBegin
  extract_lets r first n hit mine grp core team
  exact .mapped (fun e => core e.2) (fun _ h => h) rfl rfl rfl rfl rfl rfl
grind_pattern shootBegin_stays => shootBegin s c v

theorem execShoot_ends (ctx : Nat) (v : DWord) (s : State) : Ends s (execShoot ctx v s) := by
  unfold execShoot
  repeat' (first | split | extract_lets)
  all_goals grind [Keeps.refl, Stays.refl]
grind_pattern execShoot_ends => execShoot ctx v s

theorem execShootdownComplete_ends (ctx : Nat) (s : State) : Ends s (execShootdownComplete ctx s) := by
  unfold execShootdownComplete
  repeat' (first | split | extract_lets)
  all_goals grind [Keeps.refl, Stays.refl]
grind_pattern execShootdownComplete_ends => execShootdownComplete ctx s

theorem execShootRead_ends (by_ : Nat × Nat) (s : State) : Ends s (execShootRead by_ s) := by
  unfold execShootRead
  repeat' (first | split | extract_lets)
  all_goals grind [Keeps.refl, Stays.refl]
grind_pattern execShootRead_ends => execShootRead by_ s

theorem execMsgin_ends (ctx : Nat) (s : State) : Ends s (execMsgin ctx s) := by
  unfold execMsgin
  repeat' (first | split | extract_lets)
  all_goals grind [Keeps.refl, Stays.refl]
grind_pattern execMsgin_ends => execMsgin ctx s

theorem execQ15Outgoing_ends (core slot : Nat) (s : State) : Ends s (execQ15Outgoing core slot s) := by
  unfold execQ15Outgoing
  repeat' (first | split | extract_lets)
  all_goals grind [Keeps.refl, Stays.refl]
grind_pattern execQ15Outgoing_ends => execQ15Outgoing core slot s

theorem execGbarCounterWrite_ends (ctx k : Nat) (v : DWord) (s : State) : Ends s (execGbarCounterWrite ctx k v s) := by
  unfold execGbarCounterWrite
  repeat' (first | split | extract_lets)
  all_goals grind [Keeps.refl, Stays.refl]
grind_pattern execGbarCounterWrite_ends => execGbarCounterWrite ctx k v s

theorem execLostCountClear_ends (ctx : Nat) (events : Bool) (s : State) : Ends s (execLostCountClear ctx events s) := by
  unfold execLostCountClear
  repeat' (first | split | extract_lets)
  all_goals grind [Keeps.refl, Stays.refl]
grind_pattern execLostCountClear_ends => execLostCountClear ctx events s

theorem execQueueTailRead_ends (fn ctx : Nat) (events : Bool) (s : State) : Ends s (execQueueTailRead fn ctx events s) := by
  unfold execQueueTailRead
  repeat' (first | split | extract_lets)
  all_goals grind [Keeps.refl, Stays.refl]
grind_pattern execQueueTailRead_ends => execQueueTailRead fn ctx events s

theorem windowStop_keeps (s : State) (c : Nat) (e : CpStop) : Keeps s (windowStop s c e) := by
  unfold windowStop; grind [Keeps.refl, Core.memWf]
grind_pattern windowStop_keeps => windowStop s c e

theorem windowPiece_keeps (c a n : Nat) (w : Option Nat) (s : State) : Keeps s (windowPiece c a n w s).1 := by
  unfold windowPiece; grind [Keeps.refl, Stays.refl, Core.memWf]
grind_pattern windowPiece_keeps => windowPiece c a n w s

theorem execHostMemoryWindowAccess_ends (fn ctx addr : Nat) (size : Nat) (write : Option DWord) (s : State) : Ends s (execHostMemoryWindowAccess fn ctx addr size write s) := by
  unfold execHostMemoryWindowAccess
  repeat' (first | split | extract_lets)
  all_goals grind [Keeps.refl, Stays.refl]
grind_pattern execHostMemoryWindowAccess_ends => execHostMemoryWindowAccess fn ctx addr size write s

theorem execXlgo_ends (fn : Nat) (s : State) : Ends s (execXlgo fn s) := by
  unfold execXlgo
  repeat' (first | split | extract_lets)
  all_goals grind [Keeps.refl, Stays.refl]
grind_pattern execXlgo_ends => execXlgo fn s

theorem readBytes_keeps (s : State) (c a n : Nat) : Keeps s (readBytes s c a n).1 := by
  unfold readBytes; grind [Keeps.refl, Stays.refl, Core.memWf]
grind_pattern readBytes_keeps => readBytes s c a n

theorem translateReq_keeps (s : State) (fn : Nat) (q : XlReq) : Keeps s (translateReq s fn q).1 := by
  unfold translateReq; grind [Keeps.refl, Stays.refl, Core.memWf]
grind_pattern translateReq_keeps => translateReq s fn q

theorem execTranslationComplete_ends (fn : Nat) (s : State) : Ends s (execTranslationComplete fn s) := by
  unfold execTranslationComplete
  repeat' (first | split | extract_lets)
  all_goals grind [Keeps.refl, Stays.refl]
grind_pattern execTranslationComplete_ends => execTranslationComplete fn s

theorem write32_stays (s : State) (v : DWord) (half : Option Bool) (f : DWord → State) (h : ∀ w, Stays s (f w)) :
    Stays s (write32 s v half f) := by
  unfold write32
  split
  · exact .refl s
  · exact h _
grind_pattern write32_stays => write32 s v half f

theorem cfgWrite_stays (s : State) (c : Nat) (v : DWord) : Stays s (cfgWrite s c v) := by
  unfold cfgWrite; grind [Keeps.refl, Stays.refl, Core.memWf]
grind_pattern cfgWrite_stays => cfgWrite s c v

theorem cctlWrite_stays (s : State) (c : Nat) (v : DWord) : Stays s (cctlWrite s c v) := by
  unfold cctlWrite; grind [Keeps.refl, Stays.refl, Core.memWf]
grind_pattern cctlWrite_stays => cctlWrite s c v

theorem fresolveWrite_stays (s : State) (c : Nat) (v : DWord) : Stays s (fresolveWrite s c v) := by
  unfold fresolveWrite; grind [Keeps.refl, Stays.refl, Core.memWf]
grind_pattern fresolveWrite_stays => fresolveWrite s c v

theorem ctxRegWrite_stays (s : State) (c off : Nat) (v : DWord) (half : Option Bool) : Stays s (ctxRegWrite s c off v half) := by
  unfold ctxRegWrite; grind [Keeps.refl, Stays.refl, Core.memWf]
grind_pattern ctxRegWrite_stays => ctxRegWrite s c off v half

theorem bindWrite_stays (s : State) (c : Nat) (v : DWord) : Stays s (bindWrite s c v) := by
  unfold bindWrite; grind [Keeps.refl, Stays.refl, Core.memWf]
grind_pattern bindWrite_stays => bindWrite s c v

theorem tkeyWrite_stays (s : State) (f dw : Nat) (v : DWord) (half : Option Bool) : Stays s (tkeyWrite s f dw v half) := by
  unfold tkeyWrite
  simp only
  split
  · exact modFn_stays _ _ _
  · exact modFn_stays _ _ _
  · exact write32_stays _ _ _ _ fun w => modFn_stays _ _ _
  · exact .refl s
grind_pattern tkeyWrite_stays => tkeyWrite s f dw v half

theorem devRegWrite_stays (s : State) (off : Nat) (v : DWord) (half : Option Bool) : Stays s (devRegWrite s off v half) := by
  have low : ∀ f, (∀ w, Stays s (f w)) → Stays s (write32 s v half f) := fun f h => write32_stays s v half f h
  unfold devRegWrite
  simp only
  split
  · exact low _ fun w => setDev_stays _ _ rfl
  · exact low _ fun w => setDev_stays _ _ rfl
  · exact setDev_stays _ _ rfl
  · exact low _ fun w => setDev_stays _ _ rfl
  · split
    · refine low _ fun w => ?_
      split
      · exact .refl s
      · exact setDev_stays _ _ rfl
    split
    · exact low _ fun w => bindWrite_stays _ _ _
    split
    · exact tkeyWrite_stays _ _ _ _ _
    split
    · refine low _ fun w => ?_
      split
      · exact .refl s
      · exact modCluster_stays _ _ _
    split
    · refine low _ fun w => ?_
      split
      · exact .refl s
      · refine modCore_stays s _ _ fun k h => ?_
        simpa only [Core.memWf] using h
    · exact .refl s
grind_pattern devRegWrite_stays => devRegWrite s off v half

theorem provRegWrite_stays (s : State) (off : Nat) (v : DWord) (half : Option Bool) : Stays s (provRegWrite s off v half) := by
  unfold provRegWrite
  repeat' (first | split | extract_lets)
  all_goals grind [Keeps.refl, Stays.refl]
grind_pattern provRegWrite_stays => provRegWrite s off v half

theorem fnRegWrite_stays (s : State) (fn off : Nat) (v : DWord) (half : Option Bool) : Stays s (fnRegWrite s fn off v half) := by
  unfold fnRegWrite; grind [Keeps.refl, Stays.refl, Core.memWf]
grind_pattern fnRegWrite_stays => fnRegWrite s fn off v half

theorem msixWrite_stays (s : State) (fn o : Nat) (v : DWord) (half : Option Bool) : Stays s (msixWrite s fn o v half) := by
  unfold msixWrite; grind [Stays.refl, Core.memWf]
grind_pattern msixWrite_stays => msixWrite s fn o v half

theorem execRegisterWrite_ends (fn off : Nat) (v : DWord) (half : Option Bool) (s : State) : Ends s (execRegisterWrite fn off v half s) := by
  unfold execRegisterWrite
  repeat' (first | split | extract_lets)
  all_goals grind [Keeps.refl, Stays.refl]
grind_pattern execRegisterWrite_ends => execRegisterWrite fn off v half s

theorem execProvgo_ends (s : State) : Ends s (execProvgo s) := by
  unfold execProvgo
  repeat' (first | split | extract_lets)
  all_goals grind [Keeps.refl, Stays.refl]
grind_pattern execProvgo_ends => execProvgo s

theorem execProvisioningWritten_ends (s : State) : Ends s (execProvisioningWritten s) := by
  unfold execProvisioningWritten
  repeat' (first | split | extract_lets)
  all_goals grind [Keeps.refl, Stays.refl]
grind_pattern execProvisioningWritten_ends => execProvisioningWritten s

theorem execGetMeasurements_ends (nonce : Nat) (s : State) : Ends s (execGetMeasurements nonce s) := by
  unfold execGetMeasurements
  repeat' (first | split | extract_lets)
  all_goals grind [Keeps.refl, Stays.refl]
grind_pattern execGetMeasurements_ends => execGetMeasurements nonce s

theorem execDeviceReset_ends (s : State) : Ends s (execDeviceReset s) :=
  fun u e => by cases e; exact ⟨⟨fun _ => rfl, rfl, Nat.le_refl _⟩, fun _ => rfl⟩
grind_pattern execDeviceReset_ends => execDeviceReset s

end Sys2Proof.Machine
end

