-- ==== Sys2Proof/Laws/KeepsPeer.lean ====
section
/-! SUPPORT. The operations of Machine/Peer.lean keep what every step keeps (Laws/KeepsBase.lean). -/

namespace Sys2Proof.Machine
open State

theorem promoteOut_stays (s : State) (pa n : Nat) : Stays s (promoteOut s pa n) := by
  unfold promoteOut; grind [Stays.refl, Core.memWf]
grind_pattern promoteOut_stays => promoteOut s pa n

theorem rawOut_stays (s : State) (pa : Nat) : Stays s (rawOut s pa) := by
  unfold rawOut; grind [Stays.refl, Core.memWf]
grind_pattern rawOut_stays => rawOut s pa

theorem homeBytes_keeps (s : State) (pa n : Nat) : Keeps s (homeBytes s pa n).1 := by
  unfold homeBytes; grind [Keeps.refl, Stays.refl, Core.memWf]
grind_pattern homeBytes_keeps => homeBytes s pa n

theorem putBytes_keeps (s : State) (pa : Nat) (bs : List Byte) : Keeps s (putBytes s pa bs) := by
  unfold putBytes; grind [Keeps.refl, Stays.refl, Core.memWf]
grind_pattern putBytes_keeps => putBytes s pa bs

theorem ackPeer_stays (s : State) (peer : Nat) : Stays s (ackPeer s peer) := by
  unfold ackPeer; grind [Keeps.refl, Stays.refl, Core.memWf]
grind_pattern ackPeer_stays => ackPeer s peer

theorem countItem_stays (s : State) (peer : Nat) : Stays s (countItem s peer) := by
  unfold countItem; grind [Keeps.refl, Stays.refl, Core.memWf]
grind_pattern countItem_stays => countItem s peer

theorem execPeerMemoryRead_ends (peer pa size : Nat) (s : State) : Ends s (execPeerMemoryRead peer pa size s) := by
  unfold execPeerMemoryRead
  repeat' (first | split | extract_lets)
  all_goals grind [Keeps.refl, Stays.refl]
grind_pattern execPeerMemoryRead_ends => execPeerMemoryRead peer pa size s

theorem execPeerPostedWrite_ends (peer pa : Nat) (data : List Byte) (s : State) : Ends s (execPeerPostedWrite peer pa data s) := by
  unfold execPeerPostedWrite
  repeat' (first | split | extract_lets)
  all_goals grind [Keeps.refl, Stays.refl]
grind_pattern execPeerPostedWrite_ends => execPeerPostedWrite peer pa data s

theorem homeChange_keeps (s : State) (pa n : Nat) (f : Nat → Nat) : Keeps s (homeChange s pa n f).1 := by
  unfold homeChange; grind [Keeps.refl, Stays.refl, Core.memWf]
grind_pattern homeChange_keeps => homeChange s pa n f

theorem homeLanes_ends (s : State) (peer pa n : Nat) (op : Nat → Nat → Nat → Nat) (lanes : List (DWord × DWord)) :
    Ends s (homeLanes s peer pa n op lanes) := by
  unfold homeLanes; grind [Keeps.refl, Core.memWf]
grind_pattern homeLanes_ends => homeLanes s peer pa n op lanes

theorem execPeerAtomicop_ends (peer pa : Nat) (wide : Bool) (op : PeerOp) (lane : DWord × DWord) (more : List (DWord × DWord))
    (s : State) : Ends s (execPeerAtomicop peer pa wide op lane more s) := fun u e => homeLanes_ends _ _ _ _ _ _ u e
grind_pattern execPeerAtomicop_ends => execPeerAtomicop peer pa wide op lane more s

theorem wordsSet_stays (s : State) (pa n : Nat) (full : Bool) : Stays s (wordsSet s pa n full) := by
  unfold wordsSet; grind [Keeps.refl, Stays.refl, Core.memWf]
grind_pattern wordsSet_stays => wordsSet s pa n full

theorem linkProxy_stays (s : State) (peer core slot pa fe : Nat) : Stays s (linkProxy s peer core slot pa fe) := by
  unfold linkProxy; grind [Keeps.refl, Stays.refl, Core.memWf]
grind_pattern linkProxy_stays => linkProxy s peer core slot pa fe

theorem unlinkProxy_stays (s : State) (peer core slot : Nat) : Stays s (unlinkProxy s peer core slot) := by
  unfold unlinkProxy; grind [Stays.refl, Core.memWf]
grind_pattern unlinkProxy_stays => unlinkProxy s peer core slot

theorem moveProxy_stays (s : State) (peer core slot core' slot' : Nat) : Stays s (moveProxy s peer core slot core' slot') := by
  unfold moveProxy; grind [Stays.refl, Core.memWf]
grind_pattern moveProxy_stays => moveProxy s peer core slot core' slot'

theorem execPeerFeAccess_ends (peer core slot pa : Nat) (acc : PeerAccess) (s : State) : Ends s (execPeerFeAccess peer core slot pa acc s) := by
  unfold execPeerFeAccess
  repeat' (first | split | extract_lets)
  all_goals grind [Keeps.refl, Stays.refl]
grind_pattern execPeerFeAccess_ends => execPeerFeAccess peer core slot pa acc s

theorem execPeerCompressedLine_ends (peer pa code : Nat) (data : List Byte) (s : State) : Ends s (execPeerCompressedLine peer pa code data s) := by
  unfold execPeerCompressedLine
  repeat' (first | split | extract_lets)
  all_goals grind [Keeps.refl, Stays.refl]
grind_pattern execPeerCompressedLine_ends => execPeerCompressedLine peer pa code data s

theorem execPeerProxyWake_ends (core slot : Nat) (s : State) : Ends s (execPeerProxyWake core slot s) := by
  unfold execPeerProxyWake
  repeat' (first | split | extract_lets)
  all_goals grind [Keeps.refl, Stays.refl]
grind_pattern execPeerProxyWake_ends => execPeerProxyWake core slot s

theorem ackItem_stays (s : State) (i : PItem) : Stays s (ackItem s i) := by
  unfold ackItem
  extract_lets s1 s2 s3
  have h1 : Stays s s1 := by grind [Stays.refl]
  have h2 : Stays s1 s2 := by clear_value s1; grind [Stays.refl]
  have h3 : Stays s2 s3 := by
    unfold s3
    clear_value s2
    split
    · split
      · exact (putCmd_stays _ _ _ _).trans (post_stays _ _)
      · exact .refl _
    · exact .refl _
  refine (h1.trans (h2.trans h3)).trans ?_
  clear_value s3
  repeat' split
  all_goals grind [Stays.refl]
grind_pattern ackItem_stays => ackItem s i

theorem execPeerStoreAck_ends (peer n : Nat) (s : State) : Ends s (execPeerStoreAck peer n s) := by
  unfold execPeerStoreAck
  repeat' (first | split | extract_lets)
  all_goals grind [Keeps.refl, Stays.refl]
grind_pattern execPeerStoreAck_ends => execPeerStoreAck peer n s

theorem execPeerDrainRequest_ends (peer : Nat) (s : State) : Ends s (execPeerDrainRequest peer s) := by
  unfold execPeerDrainRequest
  repeat' (first | split | extract_lets)
  all_goals grind [Keeps.refl, Stays.refl]
grind_pattern execPeerDrainRequest_ends => execPeerDrainRequest peer s

theorem execPeerAckTimeout_ends (core q : Nat) (s : State) : Ends s (execPeerAckTimeout core q s) := by
  unfold execPeerAckTimeout
  repeat' (first | split | extract_lets)
  all_goals grind [Keeps.refl, Stays.refl]
grind_pattern execPeerAckTimeout_ends => execPeerAckTimeout core q s

theorem execDrainSend_ends (launch : Nat) (s : State) : Ends s (execDrainSend launch s) := by
  unfold execDrainSend
  repeat' (first | split | extract_lets)
  all_goals grind [Keeps.refl, Stays.refl]
grind_pattern execDrainSend_ends => execDrainSend launch s

theorem execLinkTraining_ends (port : Nat) (dcap : Bool) (s : State) : Ends s (execLinkTraining port dcap s) := by
  unfold execLinkTraining
  repeat' (first | split | extract_lets)
  all_goals grind [Keeps.refl, Stays.refl]
grind_pattern execLinkTraining_ends => execLinkTraining port dcap s

theorem execPortDown_ends (port : Nat) (s : State) : Ends s (execPortDown port s) := by
  unfold execPortDown
  repeat' (first | split | extract_lets)
  all_goals grind [Keeps.refl, Stays.refl]
grind_pattern execPortDown_ends => execPortDown port s

end Sys2Proof.Machine
end

