-- ==== Sys2Proof/Laws/KeepsClause.lean ====
section
/-! SUPPORT. The operations of Machine/Clause.lean keep what every step keeps (Laws/KeepsBase.lean). -/

namespace Sys2Proof.Machine
open State

theorem fetchRun_keeps (s : State) (g a : Nat) (x0 : Nat) : Keeps s (fetchRun s g a x0).1 := by
  induction x0 generalizing s g a with
  | zero => unfold fetchRun; grind [Keeps.refl, Stays.refl]
  | succ n ih => unfold fetchRun; grind [Keeps.refl, Stays.refl]
grind_pattern fetchRun_keeps => fetchRun s g a x0

theorem fetchFail_keeps (s : State) (g hdr a : Nat) (e : FetchX) : Keeps s (fetchFail s g hdr a e) := by
  unfold fetchFail; grind [Keeps.refl, Stays.refl, Core.memWf]
grind_pattern fetchFail_keeps => fetchFail s g hdr a e

theorem takeBack_stays (s : State) (g : Nat) (w : Came) : Stays s (takeBack s g w) := by
  unfold takeBack; grind [Stays.refl, Core.memWf]
grind_pattern takeBack_stays => takeBack s g w

theorem tretLate_keeps (s : State) (g a : Nat) (w : Came) : Keeps s (tretLate s g a w) := by
  unfold tretLate
  split
  · grind [Keeps.refl]
  · exact tretSlot_keeps _ _ _ _ _ fun t => modGrp_stays t g _
grind_pattern tretLate_keeps => tretLate s g a w

theorem notHeader_keeps (s : State) (g a : Nat) : Keeps s (notHeader s g a) := by
  unfold notHeader; grind [Keeps.refl, Stays.refl, Core.memWf]
grind_pattern notHeader_keeps => notHeader s g a

theorem clauseWords_keeps (s : State) (g a : Nat) : Keeps s (clauseWords s g a).1 := by
  unfold clauseWords; grind [Keeps.refl, Stays.refl, Core.memWf]
grind_pattern clauseWords_keeps => clauseWords s g a

theorem beginClause_keeps (s : State) (g a pc : Nat) (rows : BitVec 4) : Keeps s (beginClause s g a pc rows) := by
  unfold beginClause; grind [Keeps.refl, Stays.refl, Core.memWf]
grind_pattern beginClause_keeps => beginClause s g a pc rows

theorem refreshGroup_keeps (s : State) (g : Nat) : Keeps s (refreshGroup s g) := by
  unfold refreshGroup
  extract_lets x s1 held
  split
  · exact .refl s
  · have h1 : Keeps s s1 := by
      unfold s1
      split
      · exact clauseWords_keeps _ _ _
      · exact .refl s
    exact h1.trans (modGrp_stays _ _ _).keeps
grind_pattern refreshGroup_keeps => refreshGroup s g

theorem startGroup_keeps (s : State) (g : Nat) (rows : BitVec 4) : Keeps s (startGroup s g rows) := by
  unfold startGroup; grind [Keeps.refl, Stays.refl, Core.memWf]
grind_pattern startGroup_keeps => startGroup s g rows

theorem countYields_stays (s : State) (c : Nat) (chosen : List Nat) : Stays s (countYields s c chosen) := by
  unfold countYields; grind [Keeps.refl, Stays.refl, Core.memWf]
grind_pattern countYields_stays => countYields s c chosen

theorem tryStart_keeps (s : State) (g : Nat) : Keeps s (tryStart s g).1 := by
  unfold tryStart; grind [Keeps.refl, Stays.refl, Core.memWf]
grind_pattern tryStart_keeps => tryStart s g

theorem startAll_keeps (s : State) (x0 : List Nat) : Keeps s (startAll s x0).1 := by
  induction x0 generalizing s with
  | nil => unfold startAll; grind [Keeps.refl, Stays.refl]
  | cons e r ih => unfold startAll; grind [Keeps.refl, Stays.refl]
grind_pattern startAll_keeps => startAll s x0

theorem startExempt_keeps (s : State) (c : Nat) : Keeps s (startExempt s c).1 := by
  unfold startExempt; grind [Keeps.refl, Stays.refl, Core.memWf]
grind_pattern startExempt_keeps => startExempt s c

theorem fillRows_keeps (s : State) (c pol ptr : Nat) : Keeps s (fillRows s c pol ptr).1 := by
  unfold fillRows; grind [Keeps.refl, Stays.refl, Core.memWf]
grind_pattern fillRows_keeps => fillRows s c pol ptr

theorem selectFair_keeps (s : State) (c pol : Nat) : Keeps s (selectFair s c pol) := by
  unfold selectFair; grind [Keeps.refl, Stays.refl, Core.memWf]
grind_pattern selectFair_keeps => selectFair s c pol

theorem setPtr_stays (s : State) (c p : Nat) : Stays s (s.modCore c fun k => { k with ptr := p }) := by
  refine modCore_stays s c _ fun k h => ?_
  simpa only [Core.memWf] using h
theorem selectDet_keeps (s : State) (c n : Nat) : Keeps s (selectDet s c n) := by
  induction n generalizing s with
  | zero => exact .refl s
  | succ n ih =>
    unfold selectDet
    extract_lets ptr g next ex a s1
    have hn : ∀ s, Stays s (next s) := fun s => setPtr_stays s c _
    clear_value next
    split
    · exact .refl s
    · exact (hn s).keeps.trans (ih _)
    · split
      · exact .refl s
      · have h1 : Keeps s s1 := by grind [Core.memWf]
        exact (h1.trans (hn s1).keeps).trans (by grind)
grind_pattern selectDet_keeps => selectDet s c n

theorem postStops_stays (s : State) (c : Nat) : Stays s (postStops s c) := by
  unfold postStops; grind [Keeps.refl, Stays.refl, Core.memWf]
grind_pattern postStops_stays => postStops s c

theorem selectCore_keeps (s : State) (c : Nat) : Keeps s (selectCore s c) := by
  unfold selectCore; grind [Keeps.refl, Stays.refl, Core.memWf]
grind_pattern selectCore_keeps => selectCore s c

theorem beginCycle_stays (s : State) (c : Nat) :
    Stays s (s.modCore c fun k => { k with grants := (1, 2, 1), cycling := true, turn := [] }) := by
  refine modCore_stays s c _ fun k h => ?_
  simpa only [Core.memWf] using h
theorem setTurn_stays (s : State) (c : Nat) (l : List Nat) : Stays s (s.modCore c fun k => { k with turn := l }) := by
  refine modCore_stays s c _ fun k h => ?_
  simpa only [Core.memWf] using h
theorem newCycle_stays (s : State) (cs : List Nat) : Stays s (newCycle s cs) := by
  unfold newCycle
  extract_lets c s1
  have h1 : Stays s s1 := by grind [Stays.refl]
  exact h1.trans (eachDo_stays _ _ _ fun s c => beginCycle_stays s c)
grind_pattern newCycle_stays => newCycle s cs

theorem execGroupSelect_ends (core : Nat) (s : State) : Ends s (execGroupSelect core s) := by
  unfold execGroupSelect
  extract_lets cs c s1
  split
  · exact ends_next (.refl s)
  split
  · exact ends_next (post_stays _ _)
  · have h1 : Keeps s s1 := (newCycle_stays s cs).keeps.trans (eachDo_keeps _ _ _ fun s c => selectCore_keeps s c)
    exact ends_done (h1.trans (setTurn_stays _ _ _).keeps)
grind_pattern execGroupSelect_ends => execGroupSelect core s

end Sys2Proof.Machine
end

