-- ==== Sys2Proof/Laws/KeepsIssue.lean ====
section
/-! SUPPORT. Every instruction and every issue of one keep what every step keeps (Laws/KeepsBase.lean). -/

namespace Sys2Proof.Machine
open State

/-- Every instruction and every event of the part keeps what every step keeps. -/
theorem exec_ends (i : Instr) (s : State) : Ends s (exec i s) := by
  cases i <;> (simp only [exec]; grind)
grind_pattern exec_ends => exec i s

theorem setGrants_stays (s : State) (c : Nat) (v : Nat × Nat × Nat) : Stays s (s.modCore c fun k => { k with grants := v }) :=
  modCore_stays s c _ fun _ h => h

theorem takeGrant_stays (s : State) (c : Nat) (p : Port) : Stays s (s.modCore c fun k => takeGrant k p) :=
  modCore_stays s c _ fun k h => by cases p <;> exact h

theorem setCur_stays (s : State) (c k : Nat) : Stays s { s with curCore := c, curSlot := k } := .same rfl rfl rfl rfl rfl rfl

theorem setCurCore_stays (s : State) (c : Nat) : Stays s { s with curCore := c } := .same rfl rfl rfl rfl rfl rfl

theorem holdFor_stays (s : State) (g : Nat) (i : Instr) : Stays s (holdFor s g i) := by
  unfold holdFor; grind [Stays.refl, Core.memWf]
grind_pattern holdFor_stays => holdFor s g i

theorem runGranted_ends (s : State) (g : Nat) (i : Instr) : Ends s (runGranted s g i) := by
  unfold runGranted
  extract_lets c before seq s1 eu
  have h1 : Stays s { s1 with curCore := c, curSlot := g % 32 } :=
    (takeGrant_stays s c (portOf i)).trans (setCur_stays s1 _ _)
  have h2 := h1.ends (exec_ends i _)
  split
  · rename_i t e
    have h3 := h2 t e
    have next : ∀ u, Stays t u → Ends s (.next u) := fun u h v e => by
      cases e; exact ⟨h3.1.trans h.keeps, fun n => h.noMem.trans (h3.2 n)⟩
    extract_lets y
    split
    · split
      · exact next t (.refl t)
      · exact next _ (setGrants_stays _ _ _)
    · refine next _ ?_
      split
      · exact .refl t
      · exact charge_stays _ _ _
  · exact ends_fault _ _
  · exact ends_refused _ _

theorem issue_ends (s : State) (g : Nat) : Ends s (issue s g) := by
  unfold issue
  repeat' (first | split | extract_lets)
  all_goals grind [Keeps.refl, Stays.refl, runGranted_ends]

theorem idleRest_stays (s : State) : Stays s (idleRest s) := by
  unfold idleRest
  extract_lets one
  generalize (List.range Config.numClusters).foldl one s.idle = x
  exact .same rfl rfl rfl rfl rfl rfl

theorem idleCycle_stays (s : State) (c : Nat) : Stays s (idleCycle s c) := by
  unfold idleCycle
  split
  · exact post_stays _ _
  · exact newCycle_stays _ _

/-- The idle cycle of the cores without a group. -/
theorem idleTurn_stays (s : State) (d : Nat) : Stays s (idleTurn s d) :=
  (idleRest_stays s).trans (eachDo_stays _ _ _ idleCycle_stays)

theorem coreStep_ends (s : State) (c : Nat) : Ends s (coreStep s c) := by
  unfold coreStep
  extract_lets l d s1
  split
  · exact (setTurn_stays _ _ _).ends (issue_ends _ _)
  · have h1 : Stays s s1 := by
      unfold s1
      split
      · exact idleTurn_stays s d
      · exact .refl s
    exact (h1.trans (setCurCore_stays s1 d)).ends (exec_ends _ _)

end Sys2Proof.Machine
end

