-- ==== Sys2Proof/Laws/State.lean ====
section
/-! SUPPORT. What each update of the state leaves alone, field by field and accessor by accessor, and what an accessor
reads after its own update. -/

namespace Sys2Proof.Machine

namespace State

@[simp] theorem modCore_eq (s : State) (c : Nat) (f : Core → Core) : s.modCore c f = s.setCore c (f (s.core c)) := rfl
@[simp] theorem modGrp_eq (s : State) (g : Nat) (f : Group → Group) : s.modGrp g f = s.setGrp g (f (s.grp g)) := rfl
@[simp] theorem modG_eq (s : State) (f : Group → Group) : s.modG f = s.setGrp s.cur (f (s.grp s.cur)) := rfl
@[simp] theorem modTeam_eq (s : State) (t : Nat) (f : Team → Team) : s.modTeam t f = s.setTeam t (f (s.team t)) := rfl
@[simp] theorem modLaunch_eq (s : State) (l : Nat) (f : Launch → Launch) :
    s.modLaunch l f = s.setLaunch l (f (s.launch l)) := rfl
@[simp] theorem modCtx_eq (s : State) (c : Nat) (f : Ctx → Ctx) : s.modCtx c f = s.setCtx c (f (s.ctx c)) := rfl
@[simp] theorem modCluster_eq (s : State) (k : Nat) (f : Cluster → Cluster) :
    s.modCluster k f = s.setCluster k (f (s.cluster k)) := rfl

/-! ### `setCore` -/

@[simp] theorem setCore_teams (s : State) (c : Nat) (k : Core) : (s.setCore c k).teams = s.teams := rfl
@[simp] theorem setCore_launches (s : State) (c : Nat) (k : Core) : (s.setCore c k).launches = s.launches := rfl
@[simp] theorem setCore_ctxs (s : State) (c : Nat) (k : Core) : (s.setCore c k).ctxs = s.ctxs := rfl
@[simp] theorem setCore_clusters (s : State) (c : Nat) (k : Core) : (s.setCore c k).clusters = s.clusters := rfl
@[simp] theorem setCore_fns (s : State) (c : Nat) (k : Core) : (s.setCore c k).fns = s.fns := rfl
@[simp] theorem setCore_dev (s : State) (c : Nat) (k : Core) : (s.setCore c k).dev = s.dev := rfl
@[simp] theorem setCore_hbm (s : State) (c : Nat) (k : Core) : (s.setCore c k).hbm = s.hbm := rfl
@[simp] theorem setCore_empties (s : State) (c : Nat) (k : Core) : (s.setCore c k).empties = s.empties := rfl
@[simp] theorem setCore_hbmCode (s : State) (c : Nat) (k : Core) : (s.setCore c k).hbmCode = s.hbmCode := rfl
@[simp] theorem setCore_l2 (s : State) (c : Nat) (k : Core) : (s.setCore c k).l2 = s.l2 := rfl
@[simp] theorem setCore_badMem (s : State) (c : Nat) (k : Core) : (s.setCore c k).badMem = s.badMem := rfl
@[simp] theorem setCore_softMem (s : State) (c : Nat) (k : Core) : (s.setCore c k).softMem = s.softMem := rfl
@[simp] theorem setCore_headland (s : State) (c : Nat) (k : Core) : (s.setCore c k).headland = s.headland := rfl
@[simp] theorem setCore_arrivals (s : State) (c : Nat) (k : Core) : (s.setCore c k).arrivals = s.arrivals := rfl
@[simp] theorem setCore_proxies (s : State) (c : Nat) (k : Core) : (s.setCore c k).proxies = s.proxies := rfl
@[simp] theorem setCore_idle (s : State) (c : Nat) (k : Core) : (s.setCore c k).idle = s.idle := rfl
@[simp] theorem setCore_monitors (s : State) (c : Nat) (k : Core) : (s.setCore c k).monitors = s.monitors := rfl
@[simp] theorem setCore_tickets (s : State) (c : Nat) (k : Core) : (s.setCore c k).tickets = s.tickets := rfl
@[simp] theorem setCore_faults (s : State) (c : Nat) (k : Core) : (s.setCore c k).faults = s.faults := rfl
@[simp] theorem setCore_faultWait (s : State) (c : Nat) (k : Core) : (s.setCore c k).faultWait = s.faultWait := rfl
@[simp] theorem setCore_decs (s : State) (c : Nat) (k : Core) : (s.setCore c k).decs = s.decs := rfl
@[simp] theorem setCore_launchQ (s : State) (c : Nat) (k : Core) : (s.setCore c k).launchQ = s.launchQ := rfl
@[simp] theorem setCore_greqs (s : State) (c : Nat) (k : Core) : (s.setCore c k).greqs = s.greqs := rfl
@[simp] theorem setCore_items (s : State) (c : Nat) (k : Core) : (s.setCore c k).items = s.items := rfl
@[simp] theorem setCore_recvd (s : State) (c : Nat) (k : Core) : (s.setCore c k).recvd = s.recvd := rfl
@[simp] theorem setCore_xlcache (s : State) (c : Nat) (k : Core) : (s.setCore c k).xlcache = s.xlcache := rfl
@[simp] theorem setCore_outbox (s : State) (c : Nat) (k : Core) : (s.setCore c k).outbox = s.outbox := rfl
@[simp] theorem setCore_hostReply (s : State) (c : Nat) (k : Core) : (s.setCore c k).hostReply = s.hostReply := rfl
@[simp] theorem setCore_nextTeam (s : State) (c : Nat) (k : Core) : (s.setCore c k).nextTeam = s.nextTeam := rfl
@[simp] theorem setCore_nextLaunch (s : State) (c : Nat) (k : Core) : (s.setCore c k).nextLaunch = s.nextLaunch := rfl
@[simp] theorem setCore_agenda (s : State) (c : Nat) (k : Core) : (s.setCore c k).agenda = s.agenda := rfl
@[simp] theorem setCore_curCore (s : State) (c : Nat) (k : Core) : (s.setCore c k).curCore = s.curCore := rfl
@[simp] theorem setCore_curSlot (s : State) (c : Nat) (k : Core) : (s.setCore c k).curSlot = s.curSlot := rfl
@[simp] theorem setCore_freeCtr (s : State) (c : Nat) (k : Core) : (s.setCore c k).freeCtr = s.freeCtr := rfl
@[simp] theorem setCore_noMem (s : State) (c : Nat) (k : Core) : (s.setCore c k).noMem = s.noMem := rfl
@[simp] theorem setCore_team (s : State) (c : Nat) (k : Core) (n : Nat) : (s.setCore c k).team n = s.team n := rfl
@[simp] theorem setCore_launch (s : State) (c : Nat) (k : Core) (n : Nat) : (s.setCore c k).launch n = s.launch n := rfl
@[simp] theorem setCore_ctx (s : State) (c : Nat) (k : Core) (n : Nat) : (s.setCore c k).ctx n = s.ctx n := rfl
@[simp] theorem setCore_cluster (s : State) (c : Nat) (k : Core) (n : Nat) : (s.setCore c k).cluster n = s.cluster n := rfl
@[simp] theorem setCore_fn (s : State) (c : Nat) (k : Core) (n : Nat) : (s.setCore c k).fn n = s.fn n := rfl
@[simp] theorem setCore_cur (s : State) (c : Nat) (k : Core) : (s.setCore c k).cur = s.cur := rfl

/-! ### `setTeam` -/

@[simp] theorem setTeam_cores (s : State) (t : Nat) (x : Team) : (s.setTeam t x).cores = s.cores := rfl
@[simp] theorem setTeam_launches (s : State) (t : Nat) (x : Team) : (s.setTeam t x).launches = s.launches := rfl
@[simp] theorem setTeam_ctxs (s : State) (t : Nat) (x : Team) : (s.setTeam t x).ctxs = s.ctxs := rfl
@[simp] theorem setTeam_clusters (s : State) (t : Nat) (x : Team) : (s.setTeam t x).clusters = s.clusters := rfl
@[simp] theorem setTeam_fns (s : State) (t : Nat) (x : Team) : (s.setTeam t x).fns = s.fns := rfl
@[simp] theorem setTeam_dev (s : State) (t : Nat) (x : Team) : (s.setTeam t x).dev = s.dev := rfl
@[simp] theorem setTeam_hbm (s : State) (t : Nat) (x : Team) : (s.setTeam t x).hbm = s.hbm := rfl
@[simp] theorem setTeam_empties (s : State) (t : Nat) (x : Team) : (s.setTeam t x).empties = s.empties := rfl
@[simp] theorem setTeam_hbmCode (s : State) (t : Nat) (x : Team) : (s.setTeam t x).hbmCode = s.hbmCode := rfl
@[simp] theorem setTeam_l2 (s : State) (t : Nat) (x : Team) : (s.setTeam t x).l2 = s.l2 := rfl
@[simp] theorem setTeam_badMem (s : State) (t : Nat) (x : Team) : (s.setTeam t x).badMem = s.badMem := rfl
@[simp] theorem setTeam_softMem (s : State) (t : Nat) (x : Team) : (s.setTeam t x).softMem = s.softMem := rfl
@[simp] theorem setTeam_headland (s : State) (t : Nat) (x : Team) : (s.setTeam t x).headland = s.headland := rfl
@[simp] theorem setTeam_arrivals (s : State) (t : Nat) (x : Team) : (s.setTeam t x).arrivals = s.arrivals := rfl
@[simp] theorem setTeam_proxies (s : State) (t : Nat) (x : Team) : (s.setTeam t x).proxies = s.proxies := rfl
@[simp] theorem setTeam_idle (s : State) (t : Nat) (x : Team) : (s.setTeam t x).idle = s.idle := rfl
@[simp] theorem setTeam_monitors (s : State) (t : Nat) (x : Team) : (s.setTeam t x).monitors = s.monitors := rfl
@[simp] theorem setTeam_tickets (s : State) (t : Nat) (x : Team) : (s.setTeam t x).tickets = s.tickets := rfl
@[simp] theorem setTeam_faults (s : State) (t : Nat) (x : Team) : (s.setTeam t x).faults = s.faults := rfl
@[simp] theorem setTeam_faultWait (s : State) (t : Nat) (x : Team) : (s.setTeam t x).faultWait = s.faultWait := rfl
@[simp] theorem setTeam_decs (s : State) (t : Nat) (x : Team) : (s.setTeam t x).decs = s.decs := rfl
@[simp] theorem setTeam_launchQ (s : State) (t : Nat) (x : Team) : (s.setTeam t x).launchQ = s.launchQ := rfl
@[simp] theorem setTeam_greqs (s : State) (t : Nat) (x : Team) : (s.setTeam t x).greqs = s.greqs := rfl
@[simp] theorem setTeam_items (s : State) (t : Nat) (x : Team) : (s.setTeam t x).items = s.items := rfl
@[simp] theorem setTeam_recvd (s : State) (t : Nat) (x : Team) : (s.setTeam t x).recvd = s.recvd := rfl
@[simp] theorem setTeam_xlcache (s : State) (t : Nat) (x : Team) : (s.setTeam t x).xlcache = s.xlcache := rfl
@[simp] theorem setTeam_outbox (s : State) (t : Nat) (x : Team) : (s.setTeam t x).outbox = s.outbox := rfl
@[simp] theorem setTeam_hostReply (s : State) (t : Nat) (x : Team) : (s.setTeam t x).hostReply = s.hostReply := rfl
@[simp] theorem setTeam_nextTeam (s : State) (t : Nat) (x : Team) : (s.setTeam t x).nextTeam = s.nextTeam := rfl
@[simp] theorem setTeam_nextLaunch (s : State) (t : Nat) (x : Team) : (s.setTeam t x).nextLaunch = s.nextLaunch := rfl
@[simp] theorem setTeam_agenda (s : State) (t : Nat) (x : Team) : (s.setTeam t x).agenda = s.agenda := rfl
@[simp] theorem setTeam_curCore (s : State) (t : Nat) (x : Team) : (s.setTeam t x).curCore = s.curCore := rfl
@[simp] theorem setTeam_curSlot (s : State) (t : Nat) (x : Team) : (s.setTeam t x).curSlot = s.curSlot := rfl
@[simp] theorem setTeam_freeCtr (s : State) (t : Nat) (x : Team) : (s.setTeam t x).freeCtr = s.freeCtr := rfl
@[simp] theorem setTeam_noMem (s : State) (t : Nat) (x : Team) : (s.setTeam t x).noMem = s.noMem := rfl
@[simp] theorem setTeam_core (s : State) (t : Nat) (x : Team) (n : Nat) : (s.setTeam t x).core n = s.core n := rfl
@[simp] theorem setTeam_launch (s : State) (t : Nat) (x : Team) (n : Nat) : (s.setTeam t x).launch n = s.launch n := rfl
@[simp] theorem setTeam_ctx (s : State) (t : Nat) (x : Team) (n : Nat) : (s.setTeam t x).ctx n = s.ctx n := rfl
@[simp] theorem setTeam_cluster (s : State) (t : Nat) (x : Team) (n : Nat) : (s.setTeam t x).cluster n = s.cluster n := rfl
@[simp] theorem setTeam_fn (s : State) (t : Nat) (x : Team) (n : Nat) : (s.setTeam t x).fn n = s.fn n := rfl
@[simp] theorem setTeam_grp (s : State) (t : Nat) (x : Team) (n : Nat) : (s.setTeam t x).grp n = s.grp n := rfl
@[simp] theorem setTeam_cur (s : State) (t : Nat) (x : Team) : (s.setTeam t x).cur = s.cur := rfl

/-! ### `setLaunch` -/

@[simp] theorem setLaunch_cores (s : State) (l : Nat) (x : Launch) : (s.setLaunch l x).cores = s.cores := rfl
@[simp] theorem setLaunch_teams (s : State) (l : Nat) (x : Launch) : (s.setLaunch l x).teams = s.teams := rfl
@[simp] theorem setLaunch_ctxs (s : State) (l : Nat) (x : Launch) : (s.setLaunch l x).ctxs = s.ctxs := rfl
@[simp] theorem setLaunch_clusters (s : State) (l : Nat) (x : Launch) : (s.setLaunch l x).clusters = s.clusters := rfl
@[simp] theorem setLaunch_fns (s : State) (l : Nat) (x : Launch) : (s.setLaunch l x).fns = s.fns := rfl
@[simp] theorem setLaunch_dev (s : State) (l : Nat) (x : Launch) : (s.setLaunch l x).dev = s.dev := rfl
@[simp] theorem setLaunch_hbm (s : State) (l : Nat) (x : Launch) : (s.setLaunch l x).hbm = s.hbm := rfl
@[simp] theorem setLaunch_empties (s : State) (l : Nat) (x : Launch) : (s.setLaunch l x).empties = s.empties := rfl
@[simp] theorem setLaunch_hbmCode (s : State) (l : Nat) (x : Launch) : (s.setLaunch l x).hbmCode = s.hbmCode := rfl
@[simp] theorem setLaunch_l2 (s : State) (l : Nat) (x : Launch) : (s.setLaunch l x).l2 = s.l2 := rfl
@[simp] theorem setLaunch_badMem (s : State) (l : Nat) (x : Launch) : (s.setLaunch l x).badMem = s.badMem := rfl
@[simp] theorem setLaunch_softMem (s : State) (l : Nat) (x : Launch) : (s.setLaunch l x).softMem = s.softMem := rfl
@[simp] theorem setLaunch_headland (s : State) (l : Nat) (x : Launch) : (s.setLaunch l x).headland = s.headland := rfl
@[simp] theorem setLaunch_arrivals (s : State) (l : Nat) (x : Launch) : (s.setLaunch l x).arrivals = s.arrivals := rfl
@[simp] theorem setLaunch_proxies (s : State) (l : Nat) (x : Launch) : (s.setLaunch l x).proxies = s.proxies := rfl
@[simp] theorem setLaunch_idle (s : State) (l : Nat) (x : Launch) : (s.setLaunch l x).idle = s.idle := rfl
@[simp] theorem setLaunch_monitors (s : State) (l : Nat) (x : Launch) : (s.setLaunch l x).monitors = s.monitors := rfl
@[simp] theorem setLaunch_tickets (s : State) (l : Nat) (x : Launch) : (s.setLaunch l x).tickets = s.tickets := rfl
@[simp] theorem setLaunch_faults (s : State) (l : Nat) (x : Launch) : (s.setLaunch l x).faults = s.faults := rfl
@[simp] theorem setLaunch_faultWait (s : State) (l : Nat) (x : Launch) : (s.setLaunch l x).faultWait = s.faultWait := rfl
@[simp] theorem setLaunch_decs (s : State) (l : Nat) (x : Launch) : (s.setLaunch l x).decs = s.decs := rfl
@[simp] theorem setLaunch_launchQ (s : State) (l : Nat) (x : Launch) : (s.setLaunch l x).launchQ = s.launchQ := rfl
@[simp] theorem setLaunch_greqs (s : State) (l : Nat) (x : Launch) : (s.setLaunch l x).greqs = s.greqs := rfl
@[simp] theorem setLaunch_items (s : State) (l : Nat) (x : Launch) : (s.setLaunch l x).items = s.items := rfl
@[simp] theorem setLaunch_recvd (s : State) (l : Nat) (x : Launch) : (s.setLaunch l x).recvd = s.recvd := rfl
@[simp] theorem setLaunch_xlcache (s : State) (l : Nat) (x : Launch) : (s.setLaunch l x).xlcache = s.xlcache := rfl
@[simp] theorem setLaunch_outbox (s : State) (l : Nat) (x : Launch) : (s.setLaunch l x).outbox = s.outbox := rfl
@[simp] theorem setLaunch_hostReply (s : State) (l : Nat) (x : Launch) : (s.setLaunch l x).hostReply = s.hostReply := rfl
@[simp] theorem setLaunch_nextTeam (s : State) (l : Nat) (x : Launch) : (s.setLaunch l x).nextTeam = s.nextTeam := rfl
@[simp] theorem setLaunch_nextLaunch (s : State) (l : Nat) (x : Launch) : (s.setLaunch l x).nextLaunch = s.nextLaunch := rfl
@[simp] theorem setLaunch_agenda (s : State) (l : Nat) (x : Launch) : (s.setLaunch l x).agenda = s.agenda := rfl
@[simp] theorem setLaunch_curCore (s : State) (l : Nat) (x : Launch) : (s.setLaunch l x).curCore = s.curCore := rfl
@[simp] theorem setLaunch_curSlot (s : State) (l : Nat) (x : Launch) : (s.setLaunch l x).curSlot = s.curSlot := rfl
@[simp] theorem setLaunch_freeCtr (s : State) (l : Nat) (x : Launch) : (s.setLaunch l x).freeCtr = s.freeCtr := rfl
@[simp] theorem setLaunch_noMem (s : State) (l : Nat) (x : Launch) : (s.setLaunch l x).noMem = s.noMem := rfl
@[simp] theorem setLaunch_core (s : State) (l : Nat) (x : Launch) (n : Nat) : (s.setLaunch l x).core n = s.core n := rfl
@[simp] theorem setLaunch_team (s : State) (l : Nat) (x : Launch) (n : Nat) : (s.setLaunch l x).team n = s.team n := rfl
@[simp] theorem setLaunch_ctx (s : State) (l : Nat) (x : Launch) (n : Nat) : (s.setLaunch l x).ctx n = s.ctx n := rfl
@[simp] theorem setLaunch_cluster (s : State) (l : Nat) (x : Launch) (n : Nat) : (s.setLaunch l x).cluster n = s.cluster n := rfl
@[simp] theorem setLaunch_fn (s : State) (l : Nat) (x : Launch) (n : Nat) : (s.setLaunch l x).fn n = s.fn n := rfl
@[simp] theorem setLaunch_grp (s : State) (l : Nat) (x : Launch) (n : Nat) : (s.setLaunch l x).grp n = s.grp n := rfl
@[simp] theorem setLaunch_cur (s : State) (l : Nat) (x : Launch) : (s.setLaunch l x).cur = s.cur := rfl

/-! ### `setCtx` -/

@[simp] theorem setCtx_cores (s : State) (c : Nat) (x : Ctx) : (s.setCtx c x).cores = s.cores := rfl
@[simp] theorem setCtx_teams (s : State) (c : Nat) (x : Ctx) : (s.setCtx c x).teams = s.teams := rfl
@[simp] theorem setCtx_launches (s : State) (c : Nat) (x : Ctx) : (s.setCtx c x).launches = s.launches := rfl
@[simp] theorem setCtx_clusters (s : State) (c : Nat) (x : Ctx) : (s.setCtx c x).clusters = s.clusters := rfl
@[simp] theorem setCtx_fns (s : State) (c : Nat) (x : Ctx) : (s.setCtx c x).fns = s.fns := rfl
@[simp] theorem setCtx_dev (s : State) (c : Nat) (x : Ctx) : (s.setCtx c x).dev = s.dev := rfl
@[simp] theorem setCtx_hbm (s : State) (c : Nat) (x : Ctx) : (s.setCtx c x).hbm = s.hbm := rfl
@[simp] theorem setCtx_empties (s : State) (c : Nat) (x : Ctx) : (s.setCtx c x).empties = s.empties := rfl
@[simp] theorem setCtx_hbmCode (s : State) (c : Nat) (x : Ctx) : (s.setCtx c x).hbmCode = s.hbmCode := rfl
@[simp] theorem setCtx_l2 (s : State) (c : Nat) (x : Ctx) : (s.setCtx c x).l2 = s.l2 := rfl
@[simp] theorem setCtx_badMem (s : State) (c : Nat) (x : Ctx) : (s.setCtx c x).badMem = s.badMem := rfl
@[simp] theorem setCtx_softMem (s : State) (c : Nat) (x : Ctx) : (s.setCtx c x).softMem = s.softMem := rfl
@[simp] theorem setCtx_headland (s : State) (c : Nat) (x : Ctx) : (s.setCtx c x).headland = s.headland := rfl
@[simp] theorem setCtx_arrivals (s : State) (c : Nat) (x : Ctx) : (s.setCtx c x).arrivals = s.arrivals := rfl
@[simp] theorem setCtx_proxies (s : State) (c : Nat) (x : Ctx) : (s.setCtx c x).proxies = s.proxies := rfl
@[simp] theorem setCtx_idle (s : State) (c : Nat) (x : Ctx) : (s.setCtx c x).idle = s.idle := rfl
@[simp] theorem setCtx_monitors (s : State) (c : Nat) (x : Ctx) : (s.setCtx c x).monitors = s.monitors := rfl
@[simp] theorem setCtx_tickets (s : State) (c : Nat) (x : Ctx) : (s.setCtx c x).tickets = s.tickets := rfl
@[simp] theorem setCtx_faults (s : State) (c : Nat) (x : Ctx) : (s.setCtx c x).faults = s.faults := rfl
@[simp] theorem setCtx_faultWait (s : State) (c : Nat) (x : Ctx) : (s.setCtx c x).faultWait = s.faultWait := rfl
@[simp] theorem setCtx_decs (s : State) (c : Nat) (x : Ctx) : (s.setCtx c x).decs = s.decs := rfl
@[simp] theorem setCtx_launchQ (s : State) (c : Nat) (x : Ctx) : (s.setCtx c x).launchQ = s.launchQ := rfl
@[simp] theorem setCtx_greqs (s : State) (c : Nat) (x : Ctx) : (s.setCtx c x).greqs = s.greqs := rfl
@[simp] theorem setCtx_items (s : State) (c : Nat) (x : Ctx) : (s.setCtx c x).items = s.items := rfl
@[simp] theorem setCtx_recvd (s : State) (c : Nat) (x : Ctx) : (s.setCtx c x).recvd = s.recvd := rfl
@[simp] theorem setCtx_xlcache (s : State) (c : Nat) (x : Ctx) : (s.setCtx c x).xlcache = s.xlcache := rfl
@[simp] theorem setCtx_outbox (s : State) (c : Nat) (x : Ctx) : (s.setCtx c x).outbox = s.outbox := rfl
@[simp] theorem setCtx_hostReply (s : State) (c : Nat) (x : Ctx) : (s.setCtx c x).hostReply = s.hostReply := rfl
@[simp] theorem setCtx_nextTeam (s : State) (c : Nat) (x : Ctx) : (s.setCtx c x).nextTeam = s.nextTeam := rfl
@[simp] theorem setCtx_nextLaunch (s : State) (c : Nat) (x : Ctx) : (s.setCtx c x).nextLaunch = s.nextLaunch := rfl
@[simp] theorem setCtx_agenda (s : State) (c : Nat) (x : Ctx) : (s.setCtx c x).agenda = s.agenda := rfl
@[simp] theorem setCtx_curCore (s : State) (c : Nat) (x : Ctx) : (s.setCtx c x).curCore = s.curCore := rfl
@[simp] theorem setCtx_curSlot (s : State) (c : Nat) (x : Ctx) : (s.setCtx c x).curSlot = s.curSlot := rfl
@[simp] theorem setCtx_freeCtr (s : State) (c : Nat) (x : Ctx) : (s.setCtx c x).freeCtr = s.freeCtr := rfl
@[simp] theorem setCtx_noMem (s : State) (c : Nat) (x : Ctx) : (s.setCtx c x).noMem = s.noMem := rfl
@[simp] theorem setCtx_core (s : State) (c : Nat) (x : Ctx) (n : Nat) : (s.setCtx c x).core n = s.core n := rfl
@[simp] theorem setCtx_team (s : State) (c : Nat) (x : Ctx) (n : Nat) : (s.setCtx c x).team n = s.team n := rfl
@[simp] theorem setCtx_launch (s : State) (c : Nat) (x : Ctx) (n : Nat) : (s.setCtx c x).launch n = s.launch n := rfl
@[simp] theorem setCtx_cluster (s : State) (c : Nat) (x : Ctx) (n : Nat) : (s.setCtx c x).cluster n = s.cluster n := rfl
@[simp] theorem setCtx_fn (s : State) (c : Nat) (x : Ctx) (n : Nat) : (s.setCtx c x).fn n = s.fn n := rfl
@[simp] theorem setCtx_grp (s : State) (c : Nat) (x : Ctx) (n : Nat) : (s.setCtx c x).grp n = s.grp n := rfl
@[simp] theorem setCtx_cur (s : State) (c : Nat) (x : Ctx) : (s.setCtx c x).cur = s.cur := rfl

/-! ### `setCluster` -/

@[simp] theorem setCluster_cores (s : State) (k : Nat) (x : Cluster) : (s.setCluster k x).cores = s.cores := rfl
@[simp] theorem setCluster_teams (s : State) (k : Nat) (x : Cluster) : (s.setCluster k x).teams = s.teams := rfl
@[simp] theorem setCluster_launches (s : State) (k : Nat) (x : Cluster) : (s.setCluster k x).launches = s.launches := rfl
@[simp] theorem setCluster_ctxs (s : State) (k : Nat) (x : Cluster) : (s.setCluster k x).ctxs = s.ctxs := rfl
@[simp] theorem setCluster_fns (s : State) (k : Nat) (x : Cluster) : (s.setCluster k x).fns = s.fns := rfl
@[simp] theorem setCluster_dev (s : State) (k : Nat) (x : Cluster) : (s.setCluster k x).dev = s.dev := rfl
@[simp] theorem setCluster_hbm (s : State) (k : Nat) (x : Cluster) : (s.setCluster k x).hbm = s.hbm := rfl
@[simp] theorem setCluster_empties (s : State) (k : Nat) (x : Cluster) : (s.setCluster k x).empties = s.empties := rfl
@[simp] theorem setCluster_hbmCode (s : State) (k : Nat) (x : Cluster) : (s.setCluster k x).hbmCode = s.hbmCode := rfl
@[simp] theorem setCluster_l2 (s : State) (k : Nat) (x : Cluster) : (s.setCluster k x).l2 = s.l2 := rfl
@[simp] theorem setCluster_badMem (s : State) (k : Nat) (x : Cluster) : (s.setCluster k x).badMem = s.badMem := rfl
@[simp] theorem setCluster_softMem (s : State) (k : Nat) (x : Cluster) : (s.setCluster k x).softMem = s.softMem := rfl
@[simp] theorem setCluster_headland (s : State) (k : Nat) (x : Cluster) : (s.setCluster k x).headland = s.headland := rfl
@[simp] theorem setCluster_arrivals (s : State) (k : Nat) (x : Cluster) : (s.setCluster k x).arrivals = s.arrivals := rfl
@[simp] theorem setCluster_proxies (s : State) (k : Nat) (x : Cluster) : (s.setCluster k x).proxies = s.proxies := rfl
@[simp] theorem setCluster_idle (s : State) (k : Nat) (x : Cluster) : (s.setCluster k x).idle = s.idle := rfl
@[simp] theorem setCluster_monitors (s : State) (k : Nat) (x : Cluster) : (s.setCluster k x).monitors = s.monitors := rfl
@[simp] theorem setCluster_tickets (s : State) (k : Nat) (x : Cluster) : (s.setCluster k x).tickets = s.tickets := rfl
@[simp] theorem setCluster_faults (s : State) (k : Nat) (x : Cluster) : (s.setCluster k x).faults = s.faults := rfl
@[simp] theorem setCluster_faultWait (s : State) (k : Nat) (x : Cluster) : (s.setCluster k x).faultWait = s.faultWait := rfl
@[simp] theorem setCluster_decs (s : State) (k : Nat) (x : Cluster) : (s.setCluster k x).decs = s.decs := rfl
@[simp] theorem setCluster_launchQ (s : State) (k : Nat) (x : Cluster) : (s.setCluster k x).launchQ = s.launchQ := rfl
@[simp] theorem setCluster_greqs (s : State) (k : Nat) (x : Cluster) : (s.setCluster k x).greqs = s.greqs := rfl
@[simp] theorem setCluster_items (s : State) (k : Nat) (x : Cluster) : (s.setCluster k x).items = s.items := rfl
@[simp] theorem setCluster_recvd (s : State) (k : Nat) (x : Cluster) : (s.setCluster k x).recvd = s.recvd := rfl
@[simp] theorem setCluster_xlcache (s : State) (k : Nat) (x : Cluster) : (s.setCluster k x).xlcache = s.xlcache := rfl
@[simp] theorem setCluster_outbox (s : State) (k : Nat) (x : Cluster) : (s.setCluster k x).outbox = s.outbox := rfl
@[simp] theorem setCluster_hostReply (s : State) (k : Nat) (x : Cluster) : (s.setCluster k x).hostReply = s.hostReply := rfl
@[simp] theorem setCluster_nextTeam (s : State) (k : Nat) (x : Cluster) : (s.setCluster k x).nextTeam = s.nextTeam := rfl
@[simp] theorem setCluster_nextLaunch (s : State) (k : Nat) (x : Cluster) : (s.setCluster k x).nextLaunch = s.nextLaunch := rfl
@[simp] theorem setCluster_agenda (s : State) (k : Nat) (x : Cluster) : (s.setCluster k x).agenda = s.agenda := rfl
@[simp] theorem setCluster_curCore (s : State) (k : Nat) (x : Cluster) : (s.setCluster k x).curCore = s.curCore := rfl
@[simp] theorem setCluster_curSlot (s : State) (k : Nat) (x : Cluster) : (s.setCluster k x).curSlot = s.curSlot := rfl
@[simp] theorem setCluster_freeCtr (s : State) (k : Nat) (x : Cluster) : (s.setCluster k x).freeCtr = s.freeCtr := rfl
@[simp] theorem setCluster_noMem (s : State) (k : Nat) (x : Cluster) : (s.setCluster k x).noMem = s.noMem := rfl
@[simp] theorem setCluster_core (s : State) (k : Nat) (x : Cluster) (n : Nat) : (s.setCluster k x).core n = s.core n := rfl
@[simp] theorem setCluster_team (s : State) (k : Nat) (x : Cluster) (n : Nat) : (s.setCluster k x).team n = s.team n := rfl
@[simp] theorem setCluster_launch (s : State) (k : Nat) (x : Cluster) (n : Nat) : (s.setCluster k x).launch n = s.launch n := rfl
@[simp] theorem setCluster_ctx (s : State) (k : Nat) (x : Cluster) (n : Nat) : (s.setCluster k x).ctx n = s.ctx n := rfl
@[simp] theorem setCluster_fn (s : State) (k : Nat) (x : Cluster) (n : Nat) : (s.setCluster k x).fn n = s.fn n := rfl
@[simp] theorem setCluster_grp (s : State) (k : Nat) (x : Cluster) (n : Nat) : (s.setCluster k x).grp n = s.grp n := rfl
@[simp] theorem setCluster_cur (s : State) (k : Nat) (x : Cluster) : (s.setCluster k x).cur = s.cur := rfl

/-! ### `modFn` -/

@[simp] theorem modFn_cores (s : State) (k : Nat) (f : Fn → Fn) : (s.modFn k f).cores = s.cores := rfl
@[simp] theorem modFn_teams (s : State) (k : Nat) (f : Fn → Fn) : (s.modFn k f).teams = s.teams := rfl
@[simp] theorem modFn_launches (s : State) (k : Nat) (f : Fn → Fn) : (s.modFn k f).launches = s.launches := rfl
@[simp] theorem modFn_ctxs (s : State) (k : Nat) (f : Fn → Fn) : (s.modFn k f).ctxs = s.ctxs := rfl
@[simp] theorem modFn_clusters (s : State) (k : Nat) (f : Fn → Fn) : (s.modFn k f).clusters = s.clusters := rfl
@[simp] theorem modFn_dev (s : State) (k : Nat) (f : Fn → Fn) : (s.modFn k f).dev = s.dev := rfl
@[simp] theorem modFn_hbm (s : State) (k : Nat) (f : Fn → Fn) : (s.modFn k f).hbm = s.hbm := rfl
@[simp] theorem modFn_empties (s : State) (k : Nat) (f : Fn → Fn) : (s.modFn k f).empties = s.empties := rfl
@[simp] theorem modFn_hbmCode (s : State) (k : Nat) (f : Fn → Fn) : (s.modFn k f).hbmCode = s.hbmCode := rfl
@[simp] theorem modFn_l2 (s : State) (k : Nat) (f : Fn → Fn) : (s.modFn k f).l2 = s.l2 := rfl
@[simp] theorem modFn_badMem (s : State) (k : Nat) (f : Fn → Fn) : (s.modFn k f).badMem = s.badMem := rfl
@[simp] theorem modFn_softMem (s : State) (k : Nat) (f : Fn → Fn) : (s.modFn k f).softMem = s.softMem := rfl
@[simp] theorem modFn_headland (s : State) (k : Nat) (f : Fn → Fn) : (s.modFn k f).headland = s.headland := rfl
@[simp] theorem modFn_arrivals (s : State) (k : Nat) (f : Fn → Fn) : (s.modFn k f).arrivals = s.arrivals := rfl
@[simp] theorem modFn_proxies (s : State) (k : Nat) (f : Fn → Fn) : (s.modFn k f).proxies = s.proxies := rfl
@[simp] theorem modFn_idle (s : State) (k : Nat) (f : Fn → Fn) : (s.modFn k f).idle = s.idle := rfl
@[simp] theorem modFn_monitors (s : State) (k : Nat) (f : Fn → Fn) : (s.modFn k f).monitors = s.monitors := rfl
@[simp] theorem modFn_tickets (s : State) (k : Nat) (f : Fn → Fn) : (s.modFn k f).tickets = s.tickets := rfl
@[simp] theorem modFn_faults (s : State) (k : Nat) (f : Fn → Fn) : (s.modFn k f).faults = s.faults := rfl
@[simp] theorem modFn_faultWait (s : State) (k : Nat) (f : Fn → Fn) : (s.modFn k f).faultWait = s.faultWait := rfl
@[simp] theorem modFn_decs (s : State) (k : Nat) (f : Fn → Fn) : (s.modFn k f).decs = s.decs := rfl
@[simp] theorem modFn_launchQ (s : State) (k : Nat) (f : Fn → Fn) : (s.modFn k f).launchQ = s.launchQ := rfl
@[simp] theorem modFn_greqs (s : State) (k : Nat) (f : Fn → Fn) : (s.modFn k f).greqs = s.greqs := rfl
@[simp] theorem modFn_items (s : State) (k : Nat) (f : Fn → Fn) : (s.modFn k f).items = s.items := rfl
@[simp] theorem modFn_recvd (s : State) (k : Nat) (f : Fn → Fn) : (s.modFn k f).recvd = s.recvd := rfl
@[simp] theorem modFn_xlcache (s : State) (k : Nat) (f : Fn → Fn) : (s.modFn k f).xlcache = s.xlcache := rfl
@[simp] theorem modFn_outbox (s : State) (k : Nat) (f : Fn → Fn) : (s.modFn k f).outbox = s.outbox := rfl
@[simp] theorem modFn_hostReply (s : State) (k : Nat) (f : Fn → Fn) : (s.modFn k f).hostReply = s.hostReply := rfl
@[simp] theorem modFn_nextTeam (s : State) (k : Nat) (f : Fn → Fn) : (s.modFn k f).nextTeam = s.nextTeam := rfl
@[simp] theorem modFn_nextLaunch (s : State) (k : Nat) (f : Fn → Fn) : (s.modFn k f).nextLaunch = s.nextLaunch := rfl
@[simp] theorem modFn_agenda (s : State) (k : Nat) (f : Fn → Fn) : (s.modFn k f).agenda = s.agenda := rfl
@[simp] theorem modFn_curCore (s : State) (k : Nat) (f : Fn → Fn) : (s.modFn k f).curCore = s.curCore := rfl
@[simp] theorem modFn_curSlot (s : State) (k : Nat) (f : Fn → Fn) : (s.modFn k f).curSlot = s.curSlot := rfl
@[simp] theorem modFn_freeCtr (s : State) (k : Nat) (f : Fn → Fn) : (s.modFn k f).freeCtr = s.freeCtr := rfl
@[simp] theorem modFn_noMem (s : State) (k : Nat) (f : Fn → Fn) : (s.modFn k f).noMem = s.noMem := rfl
@[simp] theorem modFn_core (s : State) (k : Nat) (f : Fn → Fn) (n : Nat) : (s.modFn k f).core n = s.core n := rfl
@[simp] theorem modFn_team (s : State) (k : Nat) (f : Fn → Fn) (n : Nat) : (s.modFn k f).team n = s.team n := rfl
@[simp] theorem modFn_launch (s : State) (k : Nat) (f : Fn → Fn) (n : Nat) : (s.modFn k f).launch n = s.launch n := rfl
@[simp] theorem modFn_ctx (s : State) (k : Nat) (f : Fn → Fn) (n : Nat) : (s.modFn k f).ctx n = s.ctx n := rfl
@[simp] theorem modFn_cluster (s : State) (k : Nat) (f : Fn → Fn) (n : Nat) : (s.modFn k f).cluster n = s.cluster n := rfl
@[simp] theorem modFn_grp (s : State) (k : Nat) (f : Fn → Fn) (n : Nat) : (s.modFn k f).grp n = s.grp n := rfl
@[simp] theorem modFn_cur (s : State) (k : Nat) (f : Fn → Fn) : (s.modFn k f).cur = s.cur := rfl

/-! ### `modDev` -/

@[simp] theorem modDev_cores (s : State) (f : Device → Device) : (s.modDev f).cores = s.cores := rfl
@[simp] theorem modDev_teams (s : State) (f : Device → Device) : (s.modDev f).teams = s.teams := rfl
@[simp] theorem modDev_launches (s : State) (f : Device → Device) : (s.modDev f).launches = s.launches := rfl
@[simp] theorem modDev_ctxs (s : State) (f : Device → Device) : (s.modDev f).ctxs = s.ctxs := rfl
@[simp] theorem modDev_clusters (s : State) (f : Device → Device) : (s.modDev f).clusters = s.clusters := rfl
@[simp] theorem modDev_fns (s : State) (f : Device → Device) : (s.modDev f).fns = s.fns := rfl
@[simp] theorem modDev_hbm (s : State) (f : Device → Device) : (s.modDev f).hbm = s.hbm := rfl
@[simp] theorem modDev_empties (s : State) (f : Device → Device) : (s.modDev f).empties = s.empties := rfl
@[simp] theorem modDev_hbmCode (s : State) (f : Device → Device) : (s.modDev f).hbmCode = s.hbmCode := rfl
@[simp] theorem modDev_l2 (s : State) (f : Device → Device) : (s.modDev f).l2 = s.l2 := rfl
@[simp] theorem modDev_badMem (s : State) (f : Device → Device) : (s.modDev f).badMem = s.badMem := rfl
@[simp] theorem modDev_softMem (s : State) (f : Device → Device) : (s.modDev f).softMem = s.softMem := rfl
@[simp] theorem modDev_headland (s : State) (f : Device → Device) : (s.modDev f).headland = s.headland := rfl
@[simp] theorem modDev_arrivals (s : State) (f : Device → Device) : (s.modDev f).arrivals = s.arrivals := rfl
@[simp] theorem modDev_proxies (s : State) (f : Device → Device) : (s.modDev f).proxies = s.proxies := rfl
@[simp] theorem modDev_idle (s : State) (f : Device → Device) : (s.modDev f).idle = s.idle := rfl
@[simp] theorem modDev_monitors (s : State) (f : Device → Device) : (s.modDev f).monitors = s.monitors := rfl
@[simp] theorem modDev_tickets (s : State) (f : Device → Device) : (s.modDev f).tickets = s.tickets := rfl
@[simp] theorem modDev_faults (s : State) (f : Device → Device) : (s.modDev f).faults = s.faults := rfl
@[simp] theorem modDev_faultWait (s : State) (f : Device → Device) : (s.modDev f).faultWait = s.faultWait := rfl
@[simp] theorem modDev_decs (s : State) (f : Device → Device) : (s.modDev f).decs = s.decs := rfl
@[simp] theorem modDev_launchQ (s : State) (f : Device → Device) : (s.modDev f).launchQ = s.launchQ := rfl
@[simp] theorem modDev_greqs (s : State) (f : Device → Device) : (s.modDev f).greqs = s.greqs := rfl
@[simp] theorem modDev_items (s : State) (f : Device → Device) : (s.modDev f).items = s.items := rfl
@[simp] theorem modDev_recvd (s : State) (f : Device → Device) : (s.modDev f).recvd = s.recvd := rfl
@[simp] theorem modDev_xlcache (s : State) (f : Device → Device) : (s.modDev f).xlcache = s.xlcache := rfl
@[simp] theorem modDev_outbox (s : State) (f : Device → Device) : (s.modDev f).outbox = s.outbox := rfl
@[simp] theorem modDev_hostReply (s : State) (f : Device → Device) : (s.modDev f).hostReply = s.hostReply := rfl
@[simp] theorem modDev_nextTeam (s : State) (f : Device → Device) : (s.modDev f).nextTeam = s.nextTeam := rfl
@[simp] theorem modDev_nextLaunch (s : State) (f : Device → Device) : (s.modDev f).nextLaunch = s.nextLaunch := rfl
@[simp] theorem modDev_agenda (s : State) (f : Device → Device) : (s.modDev f).agenda = s.agenda := rfl
@[simp] theorem modDev_curCore (s : State) (f : Device → Device) : (s.modDev f).curCore = s.curCore := rfl
@[simp] theorem modDev_curSlot (s : State) (f : Device → Device) : (s.modDev f).curSlot = s.curSlot := rfl
@[simp] theorem modDev_freeCtr (s : State) (f : Device → Device) : (s.modDev f).freeCtr = s.freeCtr := rfl
@[simp] theorem modDev_noMem (s : State) (f : Device → Device) : (s.modDev f).noMem = s.noMem := rfl
@[simp] theorem modDev_core (s : State) (f : Device → Device) (n : Nat) : (s.modDev f).core n = s.core n := rfl
@[simp] theorem modDev_team (s : State) (f : Device → Device) (n : Nat) : (s.modDev f).team n = s.team n := rfl
@[simp] theorem modDev_launch (s : State) (f : Device → Device) (n : Nat) : (s.modDev f).launch n = s.launch n := rfl
@[simp] theorem modDev_ctx (s : State) (f : Device → Device) (n : Nat) : (s.modDev f).ctx n = s.ctx n := rfl
@[simp] theorem modDev_cluster (s : State) (f : Device → Device) (n : Nat) : (s.modDev f).cluster n = s.cluster n := rfl
@[simp] theorem modDev_fn (s : State) (f : Device → Device) (n : Nat) : (s.modDev f).fn n = s.fn n := rfl
@[simp] theorem modDev_grp (s : State) (f : Device → Device) (n : Nat) : (s.modDev f).grp n = s.grp n := rfl
@[simp] theorem modDev_cur (s : State) (f : Device → Device) : (s.modDev f).cur = s.cur := rfl

/-! ### `post` -/

@[simp] theorem post_cores (s : State) (i : Instr) : (s.post i).cores = s.cores := rfl
@[simp] theorem post_teams (s : State) (i : Instr) : (s.post i).teams = s.teams := rfl
@[simp] theorem post_launches (s : State) (i : Instr) : (s.post i).launches = s.launches := rfl
@[simp] theorem post_ctxs (s : State) (i : Instr) : (s.post i).ctxs = s.ctxs := rfl
@[simp] theorem post_clusters (s : State) (i : Instr) : (s.post i).clusters = s.clusters := rfl
@[simp] theorem post_fns (s : State) (i : Instr) : (s.post i).fns = s.fns := rfl
@[simp] theorem post_dev (s : State) (i : Instr) : (s.post i).dev = s.dev := rfl
@[simp] theorem post_hbm (s : State) (i : Instr) : (s.post i).hbm = s.hbm := rfl
@[simp] theorem post_empties (s : State) (i : Instr) : (s.post i).empties = s.empties := rfl
@[simp] theorem post_hbmCode (s : State) (i : Instr) : (s.post i).hbmCode = s.hbmCode := rfl
@[simp] theorem post_l2 (s : State) (i : Instr) : (s.post i).l2 = s.l2 := rfl
@[simp] theorem post_badMem (s : State) (i : Instr) : (s.post i).badMem = s.badMem := rfl
@[simp] theorem post_softMem (s : State) (i : Instr) : (s.post i).softMem = s.softMem := rfl
@[simp] theorem post_headland (s : State) (i : Instr) : (s.post i).headland = s.headland := rfl
@[simp] theorem post_arrivals (s : State) (i : Instr) : (s.post i).arrivals = s.arrivals := rfl
@[simp] theorem post_proxies (s : State) (i : Instr) : (s.post i).proxies = s.proxies := rfl
@[simp] theorem post_idle (s : State) (i : Instr) : (s.post i).idle = s.idle := rfl
@[simp] theorem post_monitors (s : State) (i : Instr) : (s.post i).monitors = s.monitors := rfl
@[simp] theorem post_tickets (s : State) (i : Instr) : (s.post i).tickets = s.tickets := rfl
@[simp] theorem post_faults (s : State) (i : Instr) : (s.post i).faults = s.faults := rfl
@[simp] theorem post_faultWait (s : State) (i : Instr) : (s.post i).faultWait = s.faultWait := rfl
@[simp] theorem post_decs (s : State) (i : Instr) : (s.post i).decs = s.decs := rfl
@[simp] theorem post_launchQ (s : State) (i : Instr) : (s.post i).launchQ = s.launchQ := rfl
@[simp] theorem post_greqs (s : State) (i : Instr) : (s.post i).greqs = s.greqs := rfl
@[simp] theorem post_items (s : State) (i : Instr) : (s.post i).items = s.items := rfl
@[simp] theorem post_recvd (s : State) (i : Instr) : (s.post i).recvd = s.recvd := rfl
@[simp] theorem post_xlcache (s : State) (i : Instr) : (s.post i).xlcache = s.xlcache := rfl
@[simp] theorem post_outbox (s : State) (i : Instr) : (s.post i).outbox = s.outbox := rfl
@[simp] theorem post_hostReply (s : State) (i : Instr) : (s.post i).hostReply = s.hostReply := rfl
@[simp] theorem post_nextTeam (s : State) (i : Instr) : (s.post i).nextTeam = s.nextTeam := rfl
@[simp] theorem post_nextLaunch (s : State) (i : Instr) : (s.post i).nextLaunch = s.nextLaunch := rfl
@[simp] theorem post_curCore (s : State) (i : Instr) : (s.post i).curCore = s.curCore := rfl
@[simp] theorem post_curSlot (s : State) (i : Instr) : (s.post i).curSlot = s.curSlot := rfl
@[simp] theorem post_freeCtr (s : State) (i : Instr) : (s.post i).freeCtr = s.freeCtr := rfl
@[simp] theorem post_noMem (s : State) (i : Instr) : (s.post i).noMem = s.noMem := rfl
@[simp] theorem post_core (s : State) (i : Instr) (n : Nat) : (s.post i).core n = s.core n := rfl
@[simp] theorem post_team (s : State) (i : Instr) (n : Nat) : (s.post i).team n = s.team n := rfl
@[simp] theorem post_launch (s : State) (i : Instr) (n : Nat) : (s.post i).launch n = s.launch n := rfl
@[simp] theorem post_ctx (s : State) (i : Instr) (n : Nat) : (s.post i).ctx n = s.ctx n := rfl
@[simp] theorem post_cluster (s : State) (i : Instr) (n : Nat) : (s.post i).cluster n = s.cluster n := rfl
@[simp] theorem post_fn (s : State) (i : Instr) (n : Nat) : (s.post i).fn n = s.fn n := rfl
@[simp] theorem post_grp (s : State) (i : Instr) (n : Nat) : (s.post i).grp n = s.grp n := rfl
@[simp] theorem post_cur (s : State) (i : Instr) : (s.post i).cur = s.cur := rfl

/-! ### `send` -/

@[simp] theorem send_cores (s : State) (m : OutMsg) : (s.send m).cores = s.cores := rfl
@[simp] theorem send_teams (s : State) (m : OutMsg) : (s.send m).teams = s.teams := rfl
@[simp] theorem send_launches (s : State) (m : OutMsg) : (s.send m).launches = s.launches := rfl
@[simp] theorem send_ctxs (s : State) (m : OutMsg) : (s.send m).ctxs = s.ctxs := rfl
@[simp] theorem send_clusters (s : State) (m : OutMsg) : (s.send m).clusters = s.clusters := rfl
@[simp] theorem send_fns (s : State) (m : OutMsg) : (s.send m).fns = s.fns := rfl
@[simp] theorem send_dev (s : State) (m : OutMsg) : (s.send m).dev = s.dev := rfl
@[simp] theorem send_hbm (s : State) (m : OutMsg) : (s.send m).hbm = s.hbm := rfl
@[simp] theorem send_empties (s : State) (m : OutMsg) : (s.send m).empties = s.empties := rfl
@[simp] theorem send_hbmCode (s : State) (m : OutMsg) : (s.send m).hbmCode = s.hbmCode := rfl
@[simp] theorem send_l2 (s : State) (m : OutMsg) : (s.send m).l2 = s.l2 := rfl
@[simp] theorem send_badMem (s : State) (m : OutMsg) : (s.send m).badMem = s.badMem := rfl
@[simp] theorem send_softMem (s : State) (m : OutMsg) : (s.send m).softMem = s.softMem := rfl
@[simp] theorem send_headland (s : State) (m : OutMsg) : (s.send m).headland = s.headland := rfl
@[simp] theorem send_arrivals (s : State) (m : OutMsg) : (s.send m).arrivals = s.arrivals := rfl
@[simp] theorem send_proxies (s : State) (m : OutMsg) : (s.send m).proxies = s.proxies := rfl
@[simp] theorem send_idle (s : State) (m : OutMsg) : (s.send m).idle = s.idle := rfl
@[simp] theorem send_monitors (s : State) (m : OutMsg) : (s.send m).monitors = s.monitors := rfl
@[simp] theorem send_tickets (s : State) (m : OutMsg) : (s.send m).tickets = s.tickets := rfl
@[simp] theorem send_faults (s : State) (m : OutMsg) : (s.send m).faults = s.faults := rfl
@[simp] theorem send_faultWait (s : State) (m : OutMsg) : (s.send m).faultWait = s.faultWait := rfl
@[simp] theorem send_decs (s : State) (m : OutMsg) : (s.send m).decs = s.decs := rfl
@[simp] theorem send_launchQ (s : State) (m : OutMsg) : (s.send m).launchQ = s.launchQ := rfl
@[simp] theorem send_greqs (s : State) (m : OutMsg) : (s.send m).greqs = s.greqs := rfl
@[simp] theorem send_items (s : State) (m : OutMsg) : (s.send m).items = s.items := rfl
@[simp] theorem send_recvd (s : State) (m : OutMsg) : (s.send m).recvd = s.recvd := rfl
@[simp] theorem send_xlcache (s : State) (m : OutMsg) : (s.send m).xlcache = s.xlcache := rfl
@[simp] theorem send_hostReply (s : State) (m : OutMsg) : (s.send m).hostReply = s.hostReply := rfl
@[simp] theorem send_nextTeam (s : State) (m : OutMsg) : (s.send m).nextTeam = s.nextTeam := rfl
@[simp] theorem send_nextLaunch (s : State) (m : OutMsg) : (s.send m).nextLaunch = s.nextLaunch := rfl
@[simp] theorem send_agenda (s : State) (m : OutMsg) : (s.send m).agenda = s.agenda := rfl
@[simp] theorem send_curCore (s : State) (m : OutMsg) : (s.send m).curCore = s.curCore := rfl
@[simp] theorem send_curSlot (s : State) (m : OutMsg) : (s.send m).curSlot = s.curSlot := rfl
@[simp] theorem send_freeCtr (s : State) (m : OutMsg) : (s.send m).freeCtr = s.freeCtr := rfl
@[simp] theorem send_noMem (s : State) (m : OutMsg) : (s.send m).noMem = s.noMem := rfl
@[simp] theorem send_core (s : State) (m : OutMsg) (n : Nat) : (s.send m).core n = s.core n := rfl
@[simp] theorem send_team (s : State) (m : OutMsg) (n : Nat) : (s.send m).team n = s.team n := rfl
@[simp] theorem send_launch (s : State) (m : OutMsg) (n : Nat) : (s.send m).launch n = s.launch n := rfl
@[simp] theorem send_ctx (s : State) (m : OutMsg) (n : Nat) : (s.send m).ctx n = s.ctx n := rfl
@[simp] theorem send_cluster (s : State) (m : OutMsg) (n : Nat) : (s.send m).cluster n = s.cluster n := rfl
@[simp] theorem send_fn (s : State) (m : OutMsg) (n : Nat) : (s.send m).fn n = s.fn n := rfl
@[simp] theorem send_grp (s : State) (m : OutMsg) (n : Nat) : (s.send m).grp n = s.grp n := rfl
@[simp] theorem send_cur (s : State) (m : OutMsg) : (s.send m).cur = s.cur := rfl

/-! ### `fresh` -/

@[simp] theorem fresh_cores (s : State) : (s.fresh).cores = s.cores := rfl
@[simp] theorem fresh_teams (s : State) : (s.fresh).teams = s.teams := rfl
@[simp] theorem fresh_launches (s : State) : (s.fresh).launches = s.launches := rfl
@[simp] theorem fresh_ctxs (s : State) : (s.fresh).ctxs = s.ctxs := rfl
@[simp] theorem fresh_clusters (s : State) : (s.fresh).clusters = s.clusters := rfl
@[simp] theorem fresh_fns (s : State) : (s.fresh).fns = s.fns := rfl
@[simp] theorem fresh_dev (s : State) : (s.fresh).dev = s.dev := rfl
@[simp] theorem fresh_hbm (s : State) : (s.fresh).hbm = s.hbm := rfl
@[simp] theorem fresh_empties (s : State) : (s.fresh).empties = s.empties := rfl
@[simp] theorem fresh_hbmCode (s : State) : (s.fresh).hbmCode = s.hbmCode := rfl
@[simp] theorem fresh_l2 (s : State) : (s.fresh).l2 = s.l2 := rfl
@[simp] theorem fresh_badMem (s : State) : (s.fresh).badMem = s.badMem := rfl
@[simp] theorem fresh_softMem (s : State) : (s.fresh).softMem = s.softMem := rfl
@[simp] theorem fresh_headland (s : State) : (s.fresh).headland = s.headland := rfl
@[simp] theorem fresh_arrivals (s : State) : (s.fresh).arrivals = s.arrivals := rfl
@[simp] theorem fresh_proxies (s : State) : (s.fresh).proxies = s.proxies := rfl
@[simp] theorem fresh_idle (s : State) : (s.fresh).idle = s.idle := rfl
@[simp] theorem fresh_monitors (s : State) : (s.fresh).monitors = s.monitors := rfl
@[simp] theorem fresh_tickets (s : State) : (s.fresh).tickets = s.tickets := rfl
@[simp] theorem fresh_faults (s : State) : (s.fresh).faults = s.faults := rfl
@[simp] theorem fresh_faultWait (s : State) : (s.fresh).faultWait = s.faultWait := rfl
@[simp] theorem fresh_decs (s : State) : (s.fresh).decs = s.decs := rfl
@[simp] theorem fresh_launchQ (s : State) : (s.fresh).launchQ = s.launchQ := rfl
@[simp] theorem fresh_greqs (s : State) : (s.fresh).greqs = s.greqs := rfl
@[simp] theorem fresh_items (s : State) : (s.fresh).items = s.items := rfl
@[simp] theorem fresh_recvd (s : State) : (s.fresh).recvd = s.recvd := rfl
@[simp] theorem fresh_xlcache (s : State) : (s.fresh).xlcache = s.xlcache := rfl
@[simp] theorem fresh_outbox (s : State) : (s.fresh).outbox = s.outbox := rfl
@[simp] theorem fresh_hostReply (s : State) : (s.fresh).hostReply = s.hostReply := rfl
@[simp] theorem fresh_nextTeam (s : State) : (s.fresh).nextTeam = s.nextTeam := rfl
@[simp] theorem fresh_nextLaunch (s : State) : (s.fresh).nextLaunch = s.nextLaunch := rfl
@[simp] theorem fresh_agenda (s : State) : (s.fresh).agenda = s.agenda := rfl
@[simp] theorem fresh_curCore (s : State) : (s.fresh).curCore = s.curCore := rfl
@[simp] theorem fresh_curSlot (s : State) : (s.fresh).curSlot = s.curSlot := rfl
@[simp] theorem fresh_noMem (s : State) : (s.fresh).noMem = s.noMem := rfl
@[simp] theorem fresh_core (s : State) (n : Nat) : (s.fresh).core n = s.core n := rfl
@[simp] theorem fresh_team (s : State) (n : Nat) : (s.fresh).team n = s.team n := rfl
@[simp] theorem fresh_launch (s : State) (n : Nat) : (s.fresh).launch n = s.launch n := rfl
@[simp] theorem fresh_ctx (s : State) (n : Nat) : (s.fresh).ctx n = s.ctx n := rfl
@[simp] theorem fresh_cluster (s : State) (n : Nat) : (s.fresh).cluster n = s.cluster n := rfl
@[simp] theorem fresh_fn (s : State) (n : Nat) : (s.fresh).fn n = s.fn n := rfl
@[simp] theorem fresh_grp (s : State) (n : Nat) : (s.fresh).grp n = s.grp n := rfl
@[simp] theorem fresh_cur (s : State) : (s.fresh).cur = s.cur := rfl

/-! ### `setGrp` -/

@[simp] theorem setGrp_teams (s : State) (g : Nat) (x : Group) : (s.setGrp g x).teams = s.teams := rfl
@[simp] theorem setGrp_launches (s : State) (g : Nat) (x : Group) : (s.setGrp g x).launches = s.launches := rfl
@[simp] theorem setGrp_ctxs (s : State) (g : Nat) (x : Group) : (s.setGrp g x).ctxs = s.ctxs := rfl
@[simp] theorem setGrp_clusters (s : State) (g : Nat) (x : Group) : (s.setGrp g x).clusters = s.clusters := rfl
@[simp] theorem setGrp_fns (s : State) (g : Nat) (x : Group) : (s.setGrp g x).fns = s.fns := rfl
@[simp] theorem setGrp_dev (s : State) (g : Nat) (x : Group) : (s.setGrp g x).dev = s.dev := rfl
@[simp] theorem setGrp_hbm (s : State) (g : Nat) (x : Group) : (s.setGrp g x).hbm = s.hbm := rfl
@[simp] theorem setGrp_empties (s : State) (g : Nat) (x : Group) : (s.setGrp g x).empties = s.empties := rfl
@[simp] theorem setGrp_hbmCode (s : State) (g : Nat) (x : Group) : (s.setGrp g x).hbmCode = s.hbmCode := rfl
@[simp] theorem setGrp_l2 (s : State) (g : Nat) (x : Group) : (s.setGrp g x).l2 = s.l2 := rfl
@[simp] theorem setGrp_badMem (s : State) (g : Nat) (x : Group) : (s.setGrp g x).badMem = s.badMem := rfl
@[simp] theorem setGrp_softMem (s : State) (g : Nat) (x : Group) : (s.setGrp g x).softMem = s.softMem := rfl
@[simp] theorem setGrp_headland (s : State) (g : Nat) (x : Group) : (s.setGrp g x).headland = s.headland := rfl
@[simp] theorem setGrp_arrivals (s : State) (g : Nat) (x : Group) : (s.setGrp g x).arrivals = s.arrivals := rfl
@[simp] theorem setGrp_proxies (s : State) (g : Nat) (x : Group) : (s.setGrp g x).proxies = s.proxies := rfl
@[simp] theorem setGrp_idle (s : State) (g : Nat) (x : Group) : (s.setGrp g x).idle = s.idle := rfl
@[simp] theorem setGrp_monitors (s : State) (g : Nat) (x : Group) : (s.setGrp g x).monitors = s.monitors := rfl
@[simp] theorem setGrp_tickets (s : State) (g : Nat) (x : Group) : (s.setGrp g x).tickets = s.tickets := rfl
@[simp] theorem setGrp_faults (s : State) (g : Nat) (x : Group) : (s.setGrp g x).faults = s.faults := rfl
@[simp] theorem setGrp_faultWait (s : State) (g : Nat) (x : Group) : (s.setGrp g x).faultWait = s.faultWait := rfl
@[simp] theorem setGrp_decs (s : State) (g : Nat) (x : Group) : (s.setGrp g x).decs = s.decs := rfl
@[simp] theorem setGrp_launchQ (s : State) (g : Nat) (x : Group) : (s.setGrp g x).launchQ = s.launchQ := rfl
@[simp] theorem setGrp_greqs (s : State) (g : Nat) (x : Group) : (s.setGrp g x).greqs = s.greqs := rfl
@[simp] theorem setGrp_items (s : State) (g : Nat) (x : Group) : (s.setGrp g x).items = s.items := rfl
@[simp] theorem setGrp_recvd (s : State) (g : Nat) (x : Group) : (s.setGrp g x).recvd = s.recvd := rfl
@[simp] theorem setGrp_xlcache (s : State) (g : Nat) (x : Group) : (s.setGrp g x).xlcache = s.xlcache := rfl
@[simp] theorem setGrp_outbox (s : State) (g : Nat) (x : Group) : (s.setGrp g x).outbox = s.outbox := rfl
@[simp] theorem setGrp_hostReply (s : State) (g : Nat) (x : Group) : (s.setGrp g x).hostReply = s.hostReply := rfl
@[simp] theorem setGrp_nextTeam (s : State) (g : Nat) (x : Group) : (s.setGrp g x).nextTeam = s.nextTeam := rfl
@[simp] theorem setGrp_nextLaunch (s : State) (g : Nat) (x : Group) : (s.setGrp g x).nextLaunch = s.nextLaunch := rfl
@[simp] theorem setGrp_agenda (s : State) (g : Nat) (x : Group) : (s.setGrp g x).agenda = s.agenda := rfl
@[simp] theorem setGrp_curCore (s : State) (g : Nat) (x : Group) : (s.setGrp g x).curCore = s.curCore := rfl
@[simp] theorem setGrp_curSlot (s : State) (g : Nat) (x : Group) : (s.setGrp g x).curSlot = s.curSlot := rfl
@[simp] theorem setGrp_freeCtr (s : State) (g : Nat) (x : Group) : (s.setGrp g x).freeCtr = s.freeCtr := rfl
@[simp] theorem setGrp_noMem (s : State) (g : Nat) (x : Group) : (s.setGrp g x).noMem = s.noMem := rfl
@[simp] theorem setGrp_team (s : State) (g : Nat) (x : Group) (n : Nat) : (s.setGrp g x).team n = s.team n := rfl
@[simp] theorem setGrp_launch (s : State) (g : Nat) (x : Group) (n : Nat) : (s.setGrp g x).launch n = s.launch n := rfl
@[simp] theorem setGrp_ctx (s : State) (g : Nat) (x : Group) (n : Nat) : (s.setGrp g x).ctx n = s.ctx n := rfl
@[simp] theorem setGrp_cluster (s : State) (g : Nat) (x : Group) (n : Nat) : (s.setGrp g x).cluster n = s.cluster n := rfl
@[simp] theorem setGrp_fn (s : State) (g : Nat) (x : Group) (n : Nat) : (s.setGrp g x).fn n = s.fn n := rfl
@[simp] theorem setGrp_cur (s : State) (g : Nat) (x : Group) : (s.setGrp g x).cur = s.cur := rfl

/-! ### An accessor after its own update -/

@[simp] theorem setCore_core (s : State) (c : Nat) (k : Core) (n : Nat) :
    (s.setCore c k).core n = if n = c then k else s.core n := tget_tset ..

@[simp] theorem setTeam_team (s : State) (t : Nat) (x : Team) (n : Nat) :
    (s.setTeam t x).team n = if n = t then x else s.team n := tget_tset ..

@[simp] theorem setLaunch_launch (s : State) (l : Nat) (x : Launch) (n : Nat) :
    (s.setLaunch l x).launch n = if n = l then x else s.launch n := tget_tset ..

@[simp] theorem setCtx_ctx (s : State) (c : Nat) (x : Ctx) (n : Nat) :
    (s.setCtx c x).ctx n = if n = c then x else s.ctx n := tget_tset ..

@[simp] theorem setCluster_cluster (s : State) (k : Nat) (x : Cluster) (n : Nat) :
    (s.setCluster k x).cluster n = if n = k then x else s.cluster n := tget_tset ..

@[simp] theorem modFn_fn (s : State) (k : Nat) (f : Fn → Fn) (n : Nat) :
    (s.modFn k f).fn n = if n = k then f (s.fn k) else s.fn n := tget_tset ..

@[simp] theorem setGrp_grp (s : State) (g : Nat) (x : Group) (n : Nat) :
    (s.setGrp g x).grp n = if n = g then x else s.grp n := by
  have e : n = g ↔ n / 32 = g / 32 ∧ n % 32 = g % 32 := by omega
  simp only [setGrp, modCore, grp, setCore_core]
  grind [tget_tset]

/-- A core after the update of one of its groups: only that slot changes. -/
theorem setGrp_core (s : State) (g : Nat) (x : Group) (n : Nat) :
    (s.setGrp g x).core n =
      if n = g / 32 then { s.core n with slots := tset (s.core n).slots (g % 32) x } else s.core n := by
  simp only [setGrp, modCore, setCore_core]
  grind

/-- The groups of a core that takes a new record with the same slots. -/
theorem setCore_grp (s : State) (c : Nat) (k : Core) (n : Nat) (h : k.slots = (s.core c).slots) :
    (s.setCore c k).grp n = s.grp n := by
  simp only [grp, setCore_core]
  split
  · next e => rw [h, e]
  · rfl

end State

end Sys2Proof.Machine
end

