-- ==== Sys2Proof/Laws/Pass.lean ====
section
/-! SUPPORT. What going on to the next instruction, or to another clause, does to the state. -/

namespace Sys2Proof.Claims

open Machine Machine.State

theorem dropK_dropK (p : Pend) : dropK (dropK p) = dropK p := by
  unfold dropK; split <;> simp_all
theorem dropK_bank (p : Pend) : dropK { p with k := false } = { p with k := false } := rfl
theorem bank_dropK (p : Pend) : { dropK p with k := false } = dropK p := by
  unfold dropK
  split
  · rfl
  · cases p; simp_all
theorem KeptWork.trans {p q r : Pend} (a : KeptWork p q) (b : KeptWork q r) : KeptWork p r := by
  cases a with
  | same => exact b
  | bank =>
    cases b with
    | same => exact .bank p
    | bank => exact .bank p
    | gone => exact .bank p
  | gone =>
    cases b with
    | same => exact .gone p
    | bank => rw [bank_dropK]; exact .gone p
    | gone => rw [dropK_dropK]; exact .gone p

/-- Work left as it is. -/
theorem work_refl (l : List Pend) : ∃ f : Pend → Pend, (∀ p, KeptWork p (f p)) ∧ l = l.map f :=
  ⟨id, .same, by simp⟩

theorem Moves.refl (s : State) (g : Nat) : Moves s s g :=
  ⟨rfl, work_refl _, fun _ _ => rfl, fun _ _ => rfl, rfl, rfl, fun _ => rfl, rfl, [], by simp⟩

theorem Moves.trans {s t u : State} {g : Nat} (a : Moves s t g) (b : Moves t u g) : Moves s u g where
  grp := by
    have h := b.grp; have k := a.grp
    simp only [asIssued] at h k ⊢
    grind
  work := by
    obtain ⟨f, hf, ef⟩ := a.work; obtain ⟨k, hk, ek⟩ := b.work
    exact ⟨k ∘ f, fun p => (hf p).trans (hk _), by rw [ek, ef, List.map_map]⟩
  others h e := (b.others h e).trans (a.others h e)
  cores c e := (b.cores c e).trans (a.cores c e)
  core := by
    have h := b.core; have k := a.core
    generalize t.core (g / 32) = kt at *
    generalize u.core (g / 32) = ku at *
    generalize s.core (g / 32) = ks at *
    cases kt; cases ku; cases ks
    simp only [Core.mk.injEq] at h k ⊢
    grind
  latch := b.latch.trans a.latch
  teams n := by
    have h := b.teams n; have k := a.teams n
    generalize t.team n = kt at *
    generalize u.team n = ku at *
    generalize s.team n = ks at *
    cases kt; cases ku; cases ks
    simp only [Team.mk.injEq] at h k ⊢
    grind
  rest := by
    have h := b.rest; have k := a.rest
    cases s; cases t; cases u
    simp only [State.mk.injEq] at h k ⊢
    grind
  agenda := by
    obtain ⟨l, h⟩ := a.agenda; obtain ⟨m, k⟩ := b.agenda
    exact ⟨l ++ m, by rw [k, h, List.append_assoc]⟩

theorem Still.refl (s : State) (g : Nat) : Still s s g := ⟨rfl, rfl, rfl, rfl⟩

theorem Still.trans {s t u : State} {g : Nat} (a : Still s t g) (b : Still t u g) : Still s u g :=
  ⟨b.1.trans a.1, b.2.trans a.2, b.3.trans a.3, b.4.trans a.4⟩

/-- An update of the group alone that changes only what going on changes. -/
theorem setGrp_moves (s : State) (g : Nat) (y : Group) (a : asIssued y (s.grp g) = s.grp g)
    (b : ∃ f : Pend → Pend, (∀ p, KeptWork p (f p)) ∧ y.pend = (s.grp g).pend.map f) : Moves s (s.setGrp g y) g where
  grp := by simpa using a
  work := by simpa using b
  others h e := by simp [e]
  cores c e := by simp [setGrp_core, e]
  core := by simp [setGrp_core]
  latch := by simp [setGrp_core]
  teams n := rfl
  rest := rfl
  agenda := ⟨[], by simp⟩

theorem setGrp_still (s : State) (g : Nat) (y : Group) : Still s (s.setGrp g y) g :=
  ⟨by simp [setGrp_core], by simp [setGrp_core], by simp [setGrp_core], rfl⟩

theorem post_moves (s : State) (g : Nat) (i : Instr) : Moves s (s.post i) g :=
  ⟨rfl, work_refl _, fun _ _ => rfl, fun _ _ => rfl, rfl, rfl, fun _ => rfl, rfl, [.event i], rfl⟩

theorem post_still (s : State) (g : Nat) (i : Instr) : Still s (s.post i) g := ⟨rfl, rfl, rfl, rfl⟩

/-- An update of the group's core alone, in its pipe, its latch or its store. -/
theorem setCore_moves (s : State) (g : Nat) (k : Core)
    (a : { k with pipe := (s.core (g / 32)).pipe, latch := (s.core (g / 32)).latch,
                  store := (s.core (g / 32)).store, badStore := (s.core (g / 32)).badStore, softStore := (s.core (g / 32)).softStore } = s.core (g / 32))
    (b : (k.latch.map fun l => { l with closed := true }) =
      (s.core (g / 32)).latch.map fun l => { l with closed := true }) : Moves s (s.setCore (g / 32) k) g := by
  have e : k.slots = (s.core (g / 32)).slots := by
    have := congrArg Core.slots a; exact this
  refine ⟨?_, ?_, fun h _ => ?_, fun c h => by simp [h], ?_, by simpa using b, fun _ => rfl, rfl, [], by simp⟩
  · rw [setCore_grp _ _ _ _ e]; rfl
  · rw [setCore_grp _ _ _ _ e]; exact work_refl _
  · rw [setCore_grp _ _ _ _ e]
  · simp only [setCore_core, if_true]
    cases k
    generalize s.core (g / 32) = ks at *
    cases ks
    simp only [Core.mk.injEq] at a e ⊢
    grind

theorem charge_moves (s : State) (g n : Nat) : Moves s (charge s g n) g := by
  have m (k : Nat) : Moves s (s.setTeam (s.grp g).team { s.team (s.grp g).team with meter := k }) g := by
    refine ⟨rfl, work_refl _, fun _ _ => rfl, fun _ _ => rfl, rfl, rfl, fun t => ?_, rfl, [], by simp⟩
    simp only [setTeam_team]
    split
    · next e => subst e; rfl
    · rfl
  unfold charge limitPoke
  extract_lets t
  split
  · exact (m _).trans (post_moves ..)
  · exact m _

theorem charge_still (s : State) (g n : Nat) : Still s (charge s g n) g := by
  unfold charge limitPoke
  extract_lets t
  split <;> exact ⟨rfl, rfl, rfl, rfl⟩

theorem modGrp_moves (s : State) (g : Nat) (f : Group → Group) (a : ∀ x, asIssued (f x) x = x)
    (b : ∀ x, ∃ k : Pend → Pend, (∀ p, KeptWork p (k p)) ∧ (f x).pend = x.pend.map k) : Moves s (s.modGrp g f) g :=
  setGrp_moves s g _ (a _) (b _)

/-- An update of the group alone that leaves its outstanding work. -/
theorem modGrp_moves' (s : State) (g : Nat) (f : Group → Group) (a : ∀ x, asIssued (f x) x = x)
    (b : ∀ x, (f x).pend = x.pend) : Moves s (s.modGrp g f) g :=
  modGrp_moves s g f a fun x => by rw [b]; exact work_refl _

theorem modGrp_still (s : State) (g : Nat) (f : Group → Group) : Still s (s.modGrp g f) g := setGrp_still ..

theorem retireFixed_moves (s : State) (g l : Nat) (fl : BitVec 4) : Moves s (retireFixed s g l fl) g := by
  unfold retireFixed; extract_lets; exact modGrp_moves' _ _ _ (by intro; rfl) (by intro; rfl)

theorem retireFixed_still (s : State) (g l : Nat) (fl : BitVec 4) : Still s (retireFixed s g l fl) g := by
  unfold retireFixed; extract_lets; exact modGrp_still _ _ _

theorem setLat_moves (s : State) (g l : Nat) (rs : List Res) : Moves s (setLat s g l rs) g := by
  unfold setLat; extract_lets; exact modGrp_moves' _ _ _ (by intro; rfl) (by intro; rfl)

theorem setLat_still (s : State) (g l : Nat) (rs : List Res) : Still s (setLat s g l rs) g := by
  unfold setLat; extract_lets; exact modGrp_still _ _ _

theorem occupy_moves (s : State) (g cls n rows : Nat) : Moves s (occupy s g cls n rows) g := by
  unfold occupy
  extract_lets c s1
  have h : Moves s s1 g := setCore_moves s g _ (by rfl) (by rfl)
  split
  · exact h
  · exact h.trans (modGrp_moves' _ _ _ (by intro; rfl) (by intro; rfl))

theorem setCore_still (s : State) (g : Nat) (k : Core) (a : k.store = (s.core (g / 32)).store)
    (b : k.badStore = (s.core (g / 32)).badStore) (c : k.softStore = (s.core (g / 32)).softStore) :
    Still s (s.setCore (g / 32) k) g :=
  ⟨by simpa using a, by simpa using b, by simpa using c, rfl⟩

theorem occupy_still (s : State) (g cls n rows : Nat) : Still s (occupy s g cls n rows) g := by
  unfold occupy
  extract_lets c s1
  have h : Still s s1 g := setCore_still s g _ (by rfl) (by rfl) (by rfl)
  split
  · exact h
  · exact h.trans (modGrp_still _ _ _)

theorem endChain_moves (s : State) (g : Nat) : Moves s (endChain s g) g := by
  unfold endChain
  split
  · next l e =>
    split
    · refine (setCore_moves s g _ (by rfl) ?_).trans (post_moves ..)
      simp [e]
    · exact .refl s g
  · exact .refl s g

theorem endChain_still (s : State) (g : Nat) : Still s (endChain s g) g := by
  unfold endChain
  split
  · split
    · exact (setCore_still s g _ (by rfl) (by rfl) (by rfl)).trans (post_still ..)
    · exact .refl s g
  · exact .refl s g

theorem fireMonitor_moves (s : State) (g : Nat) (m : Monitor) : Moves s (fireMonitor s m) g :=
  ⟨rfl, work_refl _, fun _ _ => rfl, fun _ _ => rfl, rfl, rfl, fun _ => rfl, rfl, [.event (.monitorFire (m.core * 32 + m.slot))], rfl⟩

theorem eachDo_moves {α : Type} (g : Nat) (f : State → α → State) (l : List α) (s : State)
    (h : ∀ s a, Moves s (f s a) g) : Moves s (eachDo l s f) g := by
  induction l generalizing s with
  | nil => exact .refl s g
  | cons a r ih => exact (h s a).trans (ih _)

theorem modCore_moves (s : State) (g : Nat) (f : Core → Core)
    (a : ∀ k : Core, { f k with
      pipe := k.pipe, latch := k.latch, store := k.store, badStore := k.badStore, softStore := k.softStore } = k)
    (b : ∀ k : Core, (f k).latch = k.latch) : Moves s (s.modCore (g / 32) f) g :=
  setCore_moves s g _ (a _) (by rw [b])

theorem checkStoreMonitors_moves (s : State) (g c off n : Nat) : Moves s (checkStoreMonitors s c off n) g := by
  unfold checkStoreMonitors
  split
  · exact .refl _ g
  · refine eachDo_moves g _ _ _ fun s j => ?_
    exact eachDo_moves g _ _ _ fun s m => fireMonitor_moves s g m

theorem storeWrite_moves (s : State) (g off n v : Nat) : Moves s (storeWrite s (g / 32) off n v) g :=
  (modCore_moves s g _ (by intro; rfl) (by intro; rfl)).trans (checkStoreMonitors_moves ..)

theorem bankWrite_moves (s : State) (g reg i : Nat) (v : Word) : Moves s (bankWrite s g reg i v) g :=
  storeWrite_moves ..

theorem midEmpty_moves (s : State) (g : Nat) : Moves s (midEmpty s g) g := by
  unfold midEmpty
  extract_lets ks s1
  have h : Moves s s1 g := eachDo_moves g _ _ _ fun s e => eachDo_moves g _ _ _ fun s v => bankWrite_moves ..
  exact h.trans (modGrp_moves _ _ _ (by intro; rfl) fun x => ⟨_, .bank, rfl⟩)

theorem stopMid_moves (s : State) (g : Nat) : Moves s (stopMid s g) g :=
  ((midEmpty_moves s g).trans (endChain_moves _ g)).trans (modGrp_moves' _ _ _ (by intro; rfl) (by intro; rfl))

theorem endClause_moves (s : State) (g pc : Nat) : Moves s (endClause s g pc) g :=
  (endChain_moves s g).trans (modGrp_moves _ _ _ (by intro; rfl) fun x => ⟨_, .gone, rfl⟩)

theorem endClause_still (s : State) (g pc : Nat) : Still s (endClause s g pc) g :=
  (endChain_still s g).trans (modGrp_still _ _ _)

theorem park_moves (s : State) (g : Nat) (r : ParkRec) : Moves s (park s g r) g :=
  (stopMid_moves s g).trans (modGrp_moves' _ _ _ (by intro; rfl) (by intro; rfl))

theorem atMarker_moves (s : State) (g : Nat) (x : Group) : Moves s (atMarker s g x) g := by
  unfold atMarker
  split
  · exact park_moves ..
  · exact .refl s g

theorem advance_moves (s : State) (g : Nat) : Moves s (advance s g) g := by
  unfold advance
  extract_lets x last s1
  have h1 : Moves s s1 g := by
    simp only [s1]
    split
    · exact endClause_moves ..
    · exact modGrp_moves' _ _ _ (by intro; rfl) (by intro; rfl)
  exact (h1.trans (modGrp_moves' _ _ _ (by intro; rfl) (by intro; rfl))).trans (atMarker_moves ..)

theorem endChain_grp (s : State) (g n : Nat) : (endChain s g).grp n = s.grp n := by
  unfold endChain
  split
  · split
    · rw [post_grp, modCore_eq, setCore_grp _ _ _ _ (by rfl)]
    · rfl
  · rfl

theorem eachDo_same {α β : Type} (p : State → β) (f : State → α → State) (l : List α) (s : State)
    (h : ∀ s a, p (f s a) = p s) : p (eachDo l s f) = p s := by
  induction l generalizing s with
  | nil => rfl
  | cons a r ih => exact (ih _).trans (h s a)

theorem checkStoreMonitors_core (s : State) (c off n d : Nat) : (checkStoreMonitors s c off n).core d = s.core d := by
  unfold checkStoreMonitors
  split
  · rfl
  · exact eachDo_same (State.core · d) _ _ _ fun s j => eachDo_same (State.core · d) _ _ _ fun s m => rfl

theorem storeWrite_grp (s : State) (c off n v k : Nat) : (storeWrite s c off n v).grp k = s.grp k := by
  unfold storeWrite grp
  rw [checkStoreMonitors_core]
  exact setCore_grp s c _ k (by rfl)

theorem midEmpty_grp (s : State) (g : Nat) : (midEmpty s g).grp g =
    { s.grp g with window := [], reuse := none, pend := (s.grp g).pend.map fun p => { p with k := false } } := by
  unfold midEmpty
  extract_lets ks s1
  have h : s1.grp g = s.grp g := eachDo_same (·.grp g) _ _ _ fun s e => eachDo_same (·.grp g) _ _ _ fun s v => storeWrite_grp ..
  simp only [modGrp_eq, setGrp_grp, if_true, h]
  rfl

theorem stopMid_grp (s : State) (g : Nat) : (stopMid s g).grp g =
    { s.grp g with window := [], reuse := none, pend := (s.grp g).pend.map (fun p => { p with k := false }),
                   running := false, rows := 0, tail := tailOf (s.grp g) } := by
  simp [stopMid, endChain_grp, midEmpty_grp, tailOf]

theorem park_grp (s : State) (g : Nat) (r : ParkRec) : (park s g r).grp g =
    { s.grp g with window := [], reuse := none, pend := (s.grp g).pend.map (fun p => { p with k := false }),
                   running := false, rows := 0, tail := tailOf (s.grp g), st := .parked, park := some r, redo := none, replay := false } := by
  simp [park, stopMid_grp]

theorem endClause_grp (s : State) (g pc : Nat) : (endClause s g pc).grp g =
    { s.grp g with running := false, rows := 0, tail := tailOf (s.grp g), window := [], reuse := none,
                   pend := (s.grp g).pend.map dropK, hdr := 0, clause := [], pc := pc % 2 ^ 57, came := none } := by
  simp [endClause, endChain_grp]

/-- A stop of a group with no results in its forwarding window writes no store. -/
theorem park_still (s : State) (g : Nat) (r : ParkRec) (h : (s.grp g).window = []) : Still s (park s g r) g := by
  have e : midEmpty s g = s.modGrp g fun x => { x with window := [], reuse := none, pend := x.pend.map fun p => { p with k := false } } := by
    simp [midEmpty, h, eachDo]
  unfold park stopMid
  rw [e]
  exact (((modGrp_still ..).trans (endChain_still ..)).trans (modGrp_still ..)).trans (modGrp_still ..)

theorem stopsHere_eq (x : Group) : (marked x (slotNo x) && x.pend.any fun p => isResult p.kind) = stopsHere x := rfl

theorem atMarker_still (s : State) (g : Nat) (x : Group) (h : ¬ stopsHere x ∨ (s.grp g).window = []) :
    Still s (atMarker s g x) g := by
  unfold atMarker
  rw [stopsHere_eq]
  split
  · next e => exact park_still _ _ _ (h.resolve_left fun k => k e)
  · exact .refl s g

theorem advance_still (s : State) (g : Nat) (h : ¬ (stopsHere (s.grp g) ∧ ¬ lastSlot (s.grp g))) :
    Still s (advance s g) g := by
  unfold advance
  extract_lets x last s1
  have h1 : Still s s1 g := by
    simp only [s1]
    split
    · exact endClause_still ..
    · exact modGrp_still _ _ _
  refine (h1.trans (modGrp_still _ _ _)).trans (atMarker_still _ _ _ ?_)
  by_cases k : stopsHere (s.grp g)
  · have l : lastSlot (s.grp g) := by simpa [k] using h
    have l' : last := by simpa [lastSlot, last, x] using l
    right
    simp [s1, l', endClause_grp]
  · exact .inl k

/-- The slot, the pc, the window and the outstanding work after going on. -/
theorem advance_grp (s : State) (g : Nat) :
    ((advance s g).grp g).pc = nextPc (s.grp g) ∧
      ((advance s g).grp g).st = (if stopsHere (s.grp g) then .parked else .eligible) ∧
      ((advance s g).grp g).seq = (s.grp g).seq ∧ ((advance s g).grp g).inflight = (s.grp g).inflight ∧
      ((advance s g).grp g).window = (if lastSlot (s.grp g) || stopsHere (s.grp g) then [] else (s.grp g).window) ∧
      ((advance s g).grp g).pend = (if lastSlot (s.grp g) then (s.grp g).pend.map dropK
        else if stopsHere (s.grp g) then (s.grp g).pend.map (fun p => { p with k := false }) else (s.grp g).pend) ∧
      (stopsHere (s.grp g) → ((advance s g).grp g).park = some (markerPark (s.grp g) (nextPc (s.grp g)))) := by
  unfold advance
  extract_lets x last s1
  have e1 : s1.grp g = if lastSlot x then { x with
      running := false, rows := 0, tail := tailOf x, window := [], reuse := none, pend := x.pend.map dropK, hdr := 0,
      clause := [], pc := nextPc x, came := none } else { x with pc := nextPc x } := by
    simp only [s1, nextPc, last]
    by_cases h : lastSlot x
    · have h' : x.clause.length ≤ slotNo x + 2 := by simpa [lastSlot] using h
      simp [h, h', endClause_grp, fallOf, x]
    · have h' : ¬ x.clause.length ≤ slotNo x + 2 := by simpa [lastSlot] using h
      simp [h, h', x]
  unfold atMarker
  rw [stopsHere_eq]
  by_cases h : stopsHere x <;> by_cases l : lastSlot x <;>
    simp [h, l, e1, park_grp, markerPark, Function.comp_def, bank_dropK, show s.grp g = x from rfl]

/-- The slot, the pc, the window and the outstanding work after a transfer of control. -/
theorem jump_grp (s : State) (g a : Nat) :
    ((jump s g a).grp g).pc = a % 2 ^ 57 ∧
      ((jump s g a).grp g).st = (if stopsHere (s.grp g) then .parked else .eligible) ∧
      ((jump s g a).grp g).running = false ∧
      ((jump s g a).grp g).seq = (s.grp g).seq ∧ ((jump s g a).grp g).inflight = (s.grp g).inflight ∧
      ((jump s g a).grp g).window = [] ∧ ((jump s g a).grp g).pend = (s.grp g).pend.map dropK ∧
      (stopsHere (s.grp g) → ((jump s g a).grp g).park = some (markerPark (s.grp g) (a % 2 ^ 57))) := by
  unfold jump
  extract_lets x s1
  unfold atMarker
  rw [stopsHere_eq]
  by_cases h : stopsHere x <;>
    simp [s1, h, endClause_grp, park_grp, markerPark, Function.comp_def, bank_dropK, show s.grp g = x from rfl]

theorem charge_grp (s : State) (g n k : Nat) : (charge s g n).grp k = s.grp k := by
  unfold charge limitPoke
  extract_lets
  split <;> rfl

theorem occupy_grp (s : State) (g cls n rows : Nat) : (occupy s g cls n rows).grp g =
    if rows ≤ 1 then s.grp g else { s.grp g with issueAt := (s.core (g / 32)).cyc.toNat + rows } := by
  have h (k : Nat) : (s.modCore (g / 32) fun k => { k with pipe := k.pipe ++ [(cls, n)] }).grp k = s.grp k :=
    setCore_grp _ _ _ _ (by rfl)
  unfold occupy
  split
  · exact h g
  · rw [modGrp_eq, setGrp_grp, if_pos rfl, h]; simp

/-- What advancing past an instruction needs of the state it starts from. -/
theorem passes_of {s u : State} {g : Nat} (m : Moves s u g) (t : Still s u g) (pc : (u.grp g).pc = (s.grp g).pc)
    (hdr : (u.grp g).hdr = (s.grp g).hdr) (cl : (u.grp g).clause = (s.grp g).clause)
    (pe : (u.grp g).pend = (s.grp g).pend) (w : (u.grp g).window = (s.grp g).window)
    (seq : (u.grp g).seq = (s.grp g).seq + 1) : Passes s (advance u g) g := by
  have e1 : nextPc (u.grp g) = nextPc (s.grp g) := by unfold nextPc lastSlot slotNo; rw [pc, hdr, cl]
  have e2 : stopsHere (u.grp g) = stopsHere (s.grp g) := by simp only [stopsHere, marked, slotNo, pc, hdr, cl, pe]
  have e3 : lastSlot (u.grp g) = lastSlot (s.grp g) := by unfold lastSlot slotNo; rw [pc, hdr, cl]
  have em : (u.grp g).em = (s.grp g).em := by have := congrArg Group.em m.grp; exact this
  have a := advance_grp u g
  simp only [e1, e2, e3, pe, w, markerPark, em] at a
  exact ⟨m.trans (advance_moves u g), fun h => t.trans (advance_still u g (by rw [e2, e3]; exact h)), a.1, a.2.1,
    a.2.2.1.trans seq, a.2.2.2.2.1, a.2.2.2.2.2.1, a.2.2.2.2.2.2⟩

theorem finish_passes (s : State) (g l cls occ rows eu : Nat) (fl : BitVec 4) (rs : List Res) :
    Passes s (finish s g l cls occ rows eu fl rs) g ∧ Flies s (finish s g l cls occ rows eu fl rs) g l fl := by
  have m : Moves s (charge (setLat (occupy (retireFixed s g l fl) g cls occ rows) g l rs) g eu) g :=
    (((retireFixed_moves ..).trans (occupy_moves ..)).trans (setLat_moves ..)).trans (charge_moves ..)
  have t : Still s (charge (setLat (occupy (retireFixed s g l fl) g cls occ rows) g l rs) g eu) g :=
    (((retireFixed_still ..).trans (occupy_still ..)).trans (setLat_still ..)).trans (charge_still ..)
  refine ⟨passes_of (m.trans (modGrp_moves' _ _ _ (by intro; rfl) (by intro; rfl))) (t.trans (modGrp_still ..))
    ?_ ?_ ?_ ?_ ?_ ?_, ?_⟩
  all_goals
    try unfold Flies finish
    try rw [(advance_grp _ g).2.2.2.1]
    simp [charge_grp, setLat, occupy_grp, retireFixed]
    split <;> simp

theorem finishRows_passes (s : State) (g cls occ rows eu : Nat) :
    Passes s (finishRows s g cls occ rows eu) g ∧ ((finishRows s g cls occ rows eu).grp g).inflight = (s.grp g).inflight := by
  have m : Moves s (charge (occupy s g cls occ rows) g eu) g := (occupy_moves ..).trans (charge_moves ..)
  have t : Still s (charge (occupy s g cls occ rows) g eu) g := (occupy_still ..).trans (charge_still ..)
  refine ⟨passes_of (m.trans (modGrp_moves' _ _ _ (by intro; rfl) (by intro; rfl))) (t.trans (modGrp_still ..))
    ?_ ?_ ?_ ?_ ?_ ?_, ?_⟩
  all_goals
    try unfold finishRows
    try rw [(advance_grp _ g).2.2.2.1]
    simp [charge_grp, occupy_grp]
    split <;> simp

theorem finishVar_passes (s : State) (g cls occ eu : Nat) :
    Passes s (finishVar s g cls occ eu) g ∧ ((finishVar s g cls occ eu).grp g).inflight = (s.grp g).inflight :=
  finishRows_passes ..

theorem jump_moves (s : State) (g pc : Nat) : Moves s (jump s g pc) g := by
  unfold jump
  exact ((endClause_moves ..).trans (modGrp_moves' _ _ _ (by intro; rfl) (by intro; rfl))).trans (atMarker_moves ..)

theorem jump_still (s : State) (g pc : Nat) : Still s (jump s g pc) g := by
  unfold jump
  exact ((endClause_still ..).trans (modGrp_still ..)).trans (atMarker_still _ _ _ (.inr (by simp [endClause_grp])))

/-- What a transfer of control needs of the state it starts from. -/
theorem jumps_of {s u : State} {g a : Nat} (m : Moves s u g) (t : Still s u g) (pc : (u.grp g).pc = (s.grp g).pc)
    (hdr : (u.grp g).hdr = (s.grp g).hdr) (cl : (u.grp g).clause = (s.grp g).clause)
    (pe : (u.grp g).pend = (s.grp g).pend) (seq : (u.grp g).seq = (s.grp g).seq + 1) : Jumps s (jump u g a) g a := by
  have e2 : stopsHere (u.grp g) = stopsHere (s.grp g) := by simp only [stopsHere, marked, slotNo, pc, hdr, cl, pe]
  have em : (u.grp g).em = (s.grp g).em := by have := congrArg Group.em m.grp; exact this
  have b := jump_grp u g a
  simp only [e2, pe, markerPark, em] at b
  exact ⟨m.trans (jump_moves u g a), t.trans (jump_still u g a), b.1, b.2.1, b.2.2.1, b.2.2.2.1.trans seq, b.2.2.2.2.2.1,
    b.2.2.2.2.2.2.1, b.2.2.2.2.2.2.2⟩

theorem finishJump_jumps (s : State) (g pc : Nat) :
    Jumps s (finishJump s g pc) g pc ∧ Flies s (finishJump s g pc) g 1 0 := by
  have m : Moves s (charge (occupy (retireFixed s g 1 0) g 0 1 1) g 1) g :=
    ((retireFixed_moves ..).trans (occupy_moves ..)).trans (charge_moves ..)
  have t : Still s (charge (occupy (retireFixed s g 1 0) g 0 1 1) g 1) g :=
    ((retireFixed_still ..).trans (occupy_still ..)).trans (charge_still ..)
  refine ⟨jumps_of (m.trans (modGrp_moves' _ _ _ (by intro; rfl) (by intro; rfl))) (t.trans (modGrp_still ..))
    ?_ ?_ ?_ ?_ ?_, ?_⟩
  all_goals
    try unfold Flies finishJump
    try rw [(jump_grp _ g _).2.2.2.2.1]
    simp [charge_grp, occupy_grp, retireFixed]

/-- The group notes where it came from when the transfer's target could not be judged. -/
theorem Jumps.came {s t : State} {g a : Nat} (j : Jumps s t g a) (w : Option Came) :
    Jumps s (t.modGrp g fun x => { x with came := w }) g a := by
  have m : Moves t (t.modGrp g fun x => { x with came := w }) g := modGrp_moves' _ _ _ (by intro; rfl) (by intro; rfl)
  refine ⟨j.moves.trans m, j.still.trans (modGrp_still ..), ?_, ?_, ?_, ?_, ?_, ?_, ?_⟩
  all_goals simp [j.pc, j.st, j.running, j.seq, j.window, j.pend]
  exact j.park

/-! ### What is read after going on -/

theorem Moves.field {α : Type} {s t : State} {g : Nat} (m : Moves s t g) (f : Group → α)
    (h : ∀ y x, f (asIssued y x) = f y) : f (t.grp g) = f (s.grp g) := by
  rw [← h (t.grp g) (s.grp g), m.grp]

theorem Moves.readS {s t : State} {g : Nat} (m : Moves s t g) (n : Nat) : readS t g n = readS s g n := by
  unfold Machine.readS
  rw [m.field Group.sregs fun _ _ => rfl]

theorem Moves.predOf {s t : State} {g : Nat} (m : Moves s t g) (n : Nat) :
    predOf (t.grp g) n = predOf (s.grp g) n := by
  unfold Machine.predOf
  rw [m.field Group.preds fun _ _ => rfl]

theorem Moves.cur {s t : State} {g : Nat} (m : Moves s t g) : t.cur = s.cur := by
  have a := congrArg State.curCore m.rest
  have b := congrArg State.curSlot m.rest
  simp only at a b
  simp [State.cur, a, b]

theorem readS_writeS (s : State) (g n : Nat) (v : DWord) (m : Nat) :
    readS (writeS s g n v) g m = if m = 127 then 0 else if m = n then v else readS s g m := by
  unfold readS writeS
  by_cases h : n = 127
  · subst h; simp; grind
  · simp only [h, if_false, modGrp_eq, setGrp_grp, if_true, tget_tset]; grind

theorem writeS_cur (s : State) (g n : Nat) (v : DWord) : (writeS s g n v).cur = s.cur := by
  unfold writeS; split <;> rfl

theorem completes_of {i : Instr} {s e : State} {l cls occ rows eu : Nat} {fl : BitVec 4} {rs : List Res}
    (h : exec i s = .next (finish e s.cur l cls occ rows eu fl rs)) : Completes i s e l fl :=
  ⟨_, h, finish_passes ..⟩

theorem issues_of {i : Instr} {s e : State} {cls occ eu : Nat}
    (h : exec i s = .next (finishVar e s.cur cls occ eu)) : Issues i s e :=
  ⟨_, h, finishVar_passes ..⟩

theorem transfers_of {i : Instr} {s e : State} {a : Nat}
    (h : exec i s = .next (finishJump e s.cur a)) : Transfers i s e a :=
  ⟨_, h, finishJump_jumps ..⟩

theorem setsScalar_of {i : Instr} {s : State} {n : Nat} {v : DWord} {l cls occ rows eu : Nat} {rs : List Res}
    (h : exec i s = .next (finish (writeS s s.cur n v) s.cur l cls occ rows eu 0 rs)) : SetsScalar i s n v l := by
  refine ⟨_, h, (finish_passes ..).1, (finish_passes ..).2, fun m => ?_⟩
  rw [(finish_passes ..).1.moves.readS, readS_writeS]

theorem peekByte_same {s t : State} (a : t.hbm = s.hbm) (b : t.l2 = s.l2) (c : t.hbmCode = s.hbmCode) (p : Nat) :
    peekByte t p = peekByte s p := by unfold peekByte hbmLine; rw [a, b, c]

theorem peek_same {s t : State} (a : t.hbm = s.hbm) (b : t.l2 = s.l2) (c : t.hbmCode = s.hbmCode) (p n : Nat) :
    peek t p n = peek s p n := by
  induction n generalizing p with
  | zero => rfl
  | succ n ih => simp only [peek, ih, peekByte_same a b c]

/-- A part of the state that no core, team, monitor or event belongs to. -/
theorem Moves.part {α : Type} {s t : State} {g : Nat} (m : Moves s t g) (p : State → α)
    (h : ∀ u c k a n, p { u with cores := c, teams := k, agenda := a, monitors := n } = p u) : p t = p s := by
  rw [← h t s.cores s.teams s.agenda s.monitors, m.rest]

/-- Device memory reads as before. -/
theorem Moves.peek {s t : State} {g : Nat} (m : Moves s t g) (p n : Nat) : peek t p n = peek s p n :=
  peek_same (m.part State.hbm fun _ _ _ _ _ => rfl) (m.part State.l2 fun _ _ _ _ _ => rfl)
    (m.part State.hbmCode fun _ _ _ _ _ => rfl) p n

/-- Every core's store reads as before when the group's own does. -/
theorem Moves.storeRead {s t : State} {g : Nat} (m : Moves s t g) (k : Still s t g) (c o n : Nat) :
    storeRead t c o n = storeRead s c o n := by
  unfold Machine.storeRead
  by_cases h : c = g / 32
  · subst h; rw [k.store]
  · rw [m.cores c h]

theorem checkStoreMonitors_part {α : Type} (s : State) (c o n : Nat) (p : State → α)
    (h : ∀ s m a, p { s with monitors := m, agenda := a } = p s) : p (checkStoreMonitors s c o n) = p s := by
  unfold checkStoreMonitors
  split
  · rfl
  · refine eachDo_same p _ _ _ fun s j => ?_
    exact eachDo_same p _ _ _ fun s m => h s _ _

theorem storeWrite_core (s : State) (c o n v d : Nat) : (storeWrite s c o n v).core d =
    if d = c then { s.core d with
      store := mwrite (s.core d).store o n v
      badStore := dropWords o n (s.core d).badStore
      softStore := dropWords o n (s.core d).softStore }
    else s.core d := by
  unfold storeWrite
  rw [checkStoreMonitors_core, modCore_eq, setCore_core]
  split
  · next e => subst e; rfl
  · rfl

/-- Device memory reads as before a write of a store. -/
theorem storeWrite_peek (s : State) (c o n v p k : Nat) : peek (storeWrite s c o n v) p k = peek s p k := by
  unfold storeWrite
  refine peek_same ?_ ?_ ?_ p k
  all_goals exact checkStoreMonitors_part _ _ _ _ _ fun _ _ _ => rfl

/-- A byte of a store after n bytes are written. -/
theorem storeRead_storeWrite (s : State) (c o n v d a : Nat) : storeRead (storeWrite s c o n v) d a 1 =
    if d = c ∧ o ≤ a ∧ a < o + n then v / 256 ^ (a - o) % 256 else storeRead s d a 1 := by
  unfold Machine.storeRead
  rw [storeWrite_core]
  by_cases h : d = c
  · subst h; simp only [if_true, mread, mget_mwrite]; grind
  · simp [h]

end Sys2Proof.Claims
end

