-- ==== Sys2Proof/Machine/CodeObject.lean ====
section
/-! DEFINITION. Code objects, and the code a loader takes from one (16 R416, R417). A loader runs on the host: no step of
the machine reads an object. -/

namespace Sys2Proof.Machine

/-- Kinds of section (16 R416). -/
inductive SecKind where
  | native | berdy | resources | data
  deriving DecidableEq, Repr

/-- An entry of the section table. -/
structure CodeSection where
  kind : SecKind
  target : Nat
  offset : Nat
  size : Nat
  /-- The low 64 bits of the SHA-384 of the section. -/
  digest : Nat
  deriving DecidableEq, Repr

/-- Doubleword k of an object. -/
def objDw (bs : List Byte) (k : Nat) : Nat := valueOf ((bs.drop (8 * k)).take 8)

def secKind (n : Nat) : Option SecKind :=
  match n with
  | 1 => some .native
  | 2 => some .berdy
  | 3 => some .resources
  | 4 => some .data
  | _ => none

/-- Entry j, at byte 64 + 32j. -/
def codeSection (bs : List Byte) (j : Nat) : Option CodeSection :=
  let d (i : Nat) : Nat := objDw bs (8 + 4 * j + i)
  let target := d 0 / 2 ^ 8 % 2 ^ 8
  (secKind (d 0 % 2 ^ 8)).bind fun k =>
    if target == 0 || (2 ≤ target && target ≤ 4) then
      some { kind := k, target := target, offset := d 1, size := d 2, digest := d 3 }
    else none

/-- The sections of an object, none when it is malformed: another magic or version, a reserved field that is not zero, a
count, kind or target the map does not list, or two sections of one kind and target (16 R416). -/
def codeSections (bs : List Byte) : Option (List CodeSection) :=
  let n := objDw bs 1
  if objDw bs 0 ≠ 0x14F4B5541 ∨ n = 0 ∨ 64 < n ∨ (List.range 6).any fun i => objDw bs (2 + i) != 0 then none
  else
    let xs := (List.range n).map (codeSection bs)
    let ys := xs.filterMap id
    if ys.length = n ∧ (ys.map fun x => (x.kind, x.target)).Nodup then some ys else none

/-- Does a section have the digest its entry gives? -/
def sectionSound (bs : List Byte) (x : CodeSection) : Bool :=
  (Config.sha384 ((bs.drop x.offset).take x.size)).toNat % 2 ^ 64 == x.digest

/-- What the loader runs. -/
inductive LoadX where
  | native (x : CodeSection)
  | translate (x : CodeSection)
  /-- Refused with a translator status. -/
  | refused (status : Nat)
  deriving DecidableEq, Repr

/-- The loader's choice on a device of a generation: its native variant, else the portable form through the translator,
else refusal with status 3 (16 R417). A variant of another generation never runs. -/
def loadChoice (generation : Nat) (xs : List CodeSection) : LoadX :=
  match xs.find? fun x => x.kind == .native && x.target == generation with
  | some x => .native x
  | none => match xs.find? fun x => x.kind == .berdy with
    | some x => .translate x
    | none => .refused 3

end Sys2Proof.Machine
end

