-- ==== Sys2Proof/Tests/Slice0.lean ====
section
/-! SUPPORT. Tests of the model: ill-formed terms, decoded words, single steps, and for the statements about the part states and
operands that meet their hypotheses. Expected values are computed by hand from the rules named. -/

namespace Sys2Proof.Tests

open Machine Machine.State Claims

set_option maxRecDepth 20000

/-! ### Decoding (02 R38 to R50) -/

/-- Every word decodes to the instruction beside it. -/
def decodesAll (l : List (DWord × Instr)) : Bool :=
  l.all fun p => match decodeWord p.1 with
    | .ok i => decide (i = p.2)
    | .error _ => false

/-- 03 R85 to R92, 13 R357, R359, 15 R400: the control opcodes of 02 R54 in formats Y, B and S. -/
theorem test_decode_control : decodesAll [
    (0x0050000000000000, .nop ⟨false, 5, 0, 0, 0, 0, 0, 0⟩),
    (0x01A00000FFFFFFFE, .bra ⟨true, 2, 0, 0, 0xfffffffe⟩),
    (0x0241800100000003, .brx ⟨false, 4, 1, 32769, 3⟩),
    (0x0292000600000004, .brxRegroup ⟨true, 1, 2, 6, 4⟩),
    (0x0300000000000000, .join ⟨false, 0, 0, 0, 0, 0, 0, 0⟩),
    (0x0473000080000000, .call ⟨false, 7, 3, 0, 0x80000000⟩),
    (0x0500000000000000, .ret ⟨false, 0, 0, 0, 0, 0, 0, 0⟩),
    (0x060016803FFFFFFF, .jmpi ⟨0, 90, 0, false, 0x3fffffff⟩),
    (0x07E0000000000000, .exit ⟨true, 6, 0, 0, 0, 0, 0, 0⟩),
    (0x0800000000000000, .yield ⟨false, 0, 0, 0, 0, 0, 0, 0⟩),
    (0x0900A1403FFFFFFD, .loop ⟨5, 5, 0, false, 0x3ffffffd⟩)] = true := by decide

/-- 03 R91, 13 R357, R359, 15 R400: `emov` by IMM13, `trap`, `brk`, `tret` and `mpt`. -/
theorem test_decode_masks_and_traps : decodesAll [
    (0x0A00000000012000, .emovGet ⟨false, 0, 0, 0, 0, 0, 9, 0⟩),
    (0x0A000000000FC001, .emovSet ⟨false, 0, 0, 0, 0, 0, 126, 1⟩),
    (0x0AC0000000000002, .emovPred ⟨true, 4, 0, 0, 0, 0, 0, 2⟩),
    (0x0A000000000FE003, .emovLive ⟨false, 0, 0, 0, 0, 0, 127, 3⟩),
    (0x0B20000000001FFF, .trap ⟨false, 2, 0, 0, 0, 0, 0, 8191⟩),
    (0x0CA0000000000001, .brk ⟨true, 2, 0, 0, 0, 0, 0, 1⟩),
    (0x0D00000000000000, .tret ⟨false, 0, 0, 0, 0, 0, 0, 0⟩),
    (0x0E00000000000000, .mpt ⟨false, 0, 0, 0, 0, 0, 0, 0⟩)] = true := by decide

/-- 04 R108 to R111: the scalar opcodes in format S; both values of I where both are taken. -/
theorem test_decode_scalar : decodesAll [
    (0x1002004060000000, .sadd ⟨16, 1, 0, true, 0x20000000⟩),
    (0x11023FE080000000, .ssub ⟨17, 127, 65, false, 0⟩),
    (0x1202404060000002, .smul ⟨18, 1, 0, true, 0x20000002⟩),
    (0x13027FE180000000, .sand ⟨19, 127, 67, false, 0⟩),
    (0x1402804060000004, .sor ⟨20, 1, 0, true, 0x20000004⟩),
    (0x1502BFE280000000, .sxor ⟨21, 127, 69, false, 0⟩),
    (0x1602C04060000006, .sshl ⟨22, 1, 0, true, 0x20000006⟩),
    (0x1702FFE380000000, .sshr ⟨23, 127, 71, false, 0⟩),
    (0x1809E0FF80000000, .scmp ⟨79, 3, 127, false, 0⟩),
    (0x190FDFC000000000, .smov ⟨126, 127, 0, false, 0⟩),
    (0x1A0020807FFFFFFF, .smovi ⟨1, 2, 0, true, 0x3fffffff⟩),
    (0x1B00E20020000000, .sld ⟨7, 8, 0, false, 0x20000000⟩),
    (0x1C00020480000008, .sst ⟨0, 8, 9, false, 8⟩),
    (0x1D00208040002007, .sbfe ⟨1, 2, 0, true, 8199⟩),
    (0x1E00208180000000, .ssel ⟨1, 2, 3, false, 0⟩),
    (0x1F00208180000007, .slea ⟨1, 2, 3, false, 7⟩)] = true := by decide

/-- 04 R112: the integer opcodes in format V: PN, PS, D, A, B, C, S, U, K, TY and FN at their bits. -/
theorem test_decode_integer : decodesAll [
    (0x20B05060700FF801, .iadd ⟨true, 3, 5, 6, 7, 0, 127, true, true, .i32, 1⟩),
    (0x210DFF50000FC080, .isub ⟨false, 0, 223, 245, 0, 0, 126, false, false, .n32, 0⟩),
    (0x22002040600FE040, .imul ⟨false, 0, 2, 4, 6, 0, 127, false, false, .i64, 0⟩),
    (0x23002040608FE0C1, .imad ⟨false, 0, 2, 4, 6, 8, 127, false, false, .n64, 1⟩),
    (0x24005060700FE080, .imulh ⟨false, 0, 5, 6, 7, 0, 127, false, false, .n32, 0⟩),
    (0x25005060700FE001, .idiv ⟨false, 0, 5, 6, 7, 0, 127, false, false, .i32, 1⟩),
    (0x26001020000FE001, .ineg ⟨false, 0, 1, 2, 0, 0, 127, false, false, .i32, 1⟩),
    (0x27002040000FE040, .iabs ⟨false, 0, 2, 4, 0, 0, 127, false, false, .i64, 0⟩),
    (0x28005060700FE000, .imin ⟨false, 0, 5, 6, 7, 0, 127, false, false, .i32, 0⟩),
    (0x29005060700FE080, .imax ⟨false, 0, 5, 6, 7, 0, 127, false, false, .n32, 0⟩)] = true := by decide

/-- 04 R112, R115, R116: logic, shifts, fields, compares, moves. -/
theorem test_decode_logic_and_fields : decodesAll [
    (0x2A005060700FE100, .and ⟨false, 0, 5, 6, 7, 0, 127, false, false, .b32, 0⟩),
    (0x2B005060700FE100, .or ⟨false, 0, 5, 6, 7, 0, 127, false, false, .b32, 0⟩),
    (0x2C00506000000100, .xor ⟨false, 0, 5, 6, 0, 0, 0, false, false, .b32, 0⟩),
    (0x2D005060000FE100, .not ⟨false, 0, 5, 6, 0, 0, 127, false, false, .b32, 0⟩),
    (0x2E004060900FE0C0, .shl ⟨false, 0, 4, 6, 9, 0, 127, false, false, .n64, 0⟩),
    (0x2F005060700FE100, .shr ⟨false, 0, 5, 6, 7, 0, 127, false, false, .b32, 0⟩),
    (0x30004060900FE040, .sar ⟨false, 0, 4, 6, 9, 0, 127, false, false, .i64, 0⟩),
    (0x31005060700FE100, .rot ⟨false, 0, 5, 6, 7, 0, 127, false, false, .b32, 0⟩),
    (0x32005060700FE080, .bfe ⟨false, 0, 5, 6, 7, 0, 127, false, false, .n32, 0⟩),
    (0x33005060708FE100, .bfi ⟨false, 0, 5, 6, 7, 8, 127, false, false, .b32, 0⟩),
    (0x34005060000FE100, .popc ⟨false, 0, 5, 6, 0, 0, 127, false, false, .b32, 0⟩),
    (0x35005060000FE100, .clz ⟨false, 0, 5, 6, 0, 0, 127, false, false, .b32, 0⟩),
    (0x36005060000FE100, .ctz ⟨false, 0, 5, 6, 0, 0, 127, false, false, .b32, 0⟩),
    (0x37005060000FE100, .brev ⟨false, 0, 5, 6, 0, 0, 127, false, false, .b32, 0⟩),
    (0x38007060700FE085, .icmp ⟨false, 0, 7, 6, 7, 0, 127, false, false, .n32, 5⟩),
    (0x39005060703FE100, .sel ⟨false, 0, 5, 6, 7, 3, 127, false, false, .b32, 0⟩),
    (0x3A00500000016100, .mov ⟨false, 0, 5, 0, 0, 0, 11, false, false, .b32, 0⟩),
    (0x3B00900FFFFFF900, .movi ⟨false, 0, 9, 0, 0xffffff, true, .b32, 0⟩),
    (0x3C0090A00FFFF100, .movh ⟨false, 0, 9, 10, 65535, false, .b32, 0⟩),
    (0x3D004060900FE0C7, .lea ⟨false, 0, 4, 6, 9, 0, 127, false, false, .n64, 7⟩),
    (0x3E001020300FE008, .plog ⟨false, 0, 1, 2, 3, 0, 127, false, false, .i32, 8⟩)] = true := by decide

/-- 04 R117 to R119: the lane-cross opcodes; a scalar destination in S. -/
theorem test_decode_lane_cross : decodesAll [
    (0x60005060700FE103, .shfl ⟨false, 0, 5, 6, 7, 0, 127, false, false, .b32, 3⟩),
    (0x61006040000FE100, .matchV ⟨false, 0, 6, 4, 0, 0, 127, false, false, .b32, 0⟩),
    (0x6200603000008003, .vote ⟨false, 0, 6, 3, 0, 0, 4, false, false, .i32, 3⟩),
    (0x62002030000FE001, .vote ⟨false, 0, 2, 3, 0, 0, 127, false, false, .i32, 1⟩),
    (0x63005060000FE18A, .scan ⟨false, 0, 5, 6, 0, 0, 127, false, false, .l16, 10⟩),
    (0x6400506000006105, .redux ⟨false, 0, 5, 6, 0, 0, 3, false, false, .b32, 5⟩),
    (0x650050600000610F, .bcast ⟨false, 0, 5, 6, 0, 0, 3, false, false, .b32, 15⟩)] = true := by decide

/-- 06 R144, R145: the log opcodes in formats V and VI. -/
theorem test_decode_log : decodesAll [
    (0x40005060700FE181, .lmul ⟨false, 0, 5, 6, 7, 0, 127, false, false, .l16, 1⟩),
    (0x41005060700FE1C1, .ldiv ⟨false, 0, 5, 6, 7, 0, 127, false, false, .l32, 1⟩),
    (0x46005060700FE181, .lscl ⟨false, 0, 5, 6, 7, 0, 127, false, false, .l16, 1⟩),
    (0x49005060700FE181, .ladd ⟨false, 0, 5, 6, 7, 0, 127, false, false, .l16, 1⟩),
    (0x4A005060700FE1C1, .lsub ⟨false, 0, 5, 6, 7, 0, 127, false, false, .l32, 1⟩),
    (0x4C005060700FE181, .lmin ⟨false, 0, 5, 6, 7, 0, 127, false, false, .l16, 1⟩),
    (0x4D005060700FE1C1, .lmax ⟨false, 0, 5, 6, 7, 0, 127, false, false, .l32, 1⟩),
    (0x42005060000FE141, .lrcp ⟨false, 0, 5, 6, 0, 0, 127, false, false, .l8, 1⟩),
    (0x43005060000FE181, .lsqr ⟨false, 0, 5, 6, 0, 0, 127, false, false, .l16, 1⟩),
    (0x44005060000FE1C0, .lsqrt ⟨false, 0, 5, 6, 0, 0, 127, false, false, .l32, 0⟩),
    (0x47005060000FE1C0, .lneg ⟨false, 0, 5, 6, 0, 0, 127, false, false, .l32, 0⟩),
    (0x48005060000FE140, .labs ⟨false, 0, 5, 6, 0, 0, 127, false, false, .l8, 0⟩),
    (0x4F005060000FE180, .lcls ⟨false, 0, 5, 6, 0, 0, 127, false, false, .l16, 0⟩),
    (0x55005060000FE181, .lexp2 ⟨false, 0, 5, 6, 0, 0, 127, false, false, .l16, 1⟩),
    (0x56005060000FE1C0, .llg2 ⟨false, 0, 5, 6, 0, 0, 127, false, false, .l32, 0⟩),
    (0x4500506FFFFF01C1, .lpow ⟨false, 0, 5, 6, 0xfffff0, false, .l32, 1⟩),
    (0x4B005060708FE1C0, .lmad ⟨false, 0, 5, 6, 7, 8, 127, false, false, .l32, 0⟩),
    (0x4E002060700FE187, .lcmp ⟨false, 0, 2, 6, 7, 0, 127, false, false, .l16, 7⟩),
    (0x50005060000FE1CD, .lcvt ⟨false, 0, 5, 6, 0, 0, 127, false, false, .l32, 13⟩),
    (0x51005060000FE1C6, .lfi ⟨false, 0, 5, 6, 0, 0, 127, false, false, .l32, 6⟩),
    (0x52006050000FE187, .lti ⟨false, 0, 6, 5, 0, 0, 127, false, false, .l16, 7⟩),
    (0x53005060000FE1FF, .lxf ⟨false, 0, 5, 6, 0, 0, 127, false, false, .l32, 63⟩),
    (0x54005060000FE190, .lfx ⟨false, 0, 5, 6, 0, 0, 127, false, false, .l16, 16⟩),
    (0x57005060708FE141, .lpk ⟨false, 0, 5, 6, 7, 8, 127, false, false, .l8, 1⟩),
    (0x58005060000FE143, .lupk ⟨false, 0, 5, 6, 0, 0, 127, false, false, .l8, 3⟩)] = true := by decide

/-- 08 R212: the memory opcodes in format M; `fest` by FE. -/
theorem test_decode_memory : decodesAll [
    (0x68A0822F6F03C010, .ld ⟨true, 2, 8, 34, 7, 5, 2, 3, 3, 0, 3, true, 16400⟩),
    (0x690F4F00B0007FFF, .st ⟨false, 0, 244, 240, 0, 2, 3, 0, 0, 0, 0, false, 32767⟩),
    (0x6A004052C5240008, .ldc ⟨false, 0, 4, 5, 1, 3, 0, 1, 1, 9, 0, false, 8⟩),
    (0x6B00805531140000, .stc ⟨false, 0, 8, 5, 2, 4, 3, 0, 1, 5, 0, false, 0⟩),
    (0x6C000F02B1000000, .festFull ⟨false, 0, 0, 240, 1, 2, 3, 0, 1, 0, 0, false, 0⟩),
    (0x6C000010E0000004, .festEmpty ⟨false, 0, 0, 1, 0, 3, 2, 0, 0, 0, 0, false, 4⟩),
    (0x6D00301080000004, .feq ⟨false, 0, 3, 1, 0, 2, 0, 0, 0, 0, 0, false, 4⟩),
    (0x6E00001209000010, .pf ⟨false, 0, 0, 1, 1, 0, 0, 2, 1, 0, 0, false, 16⟩),
    (0x6F00001601000000, .dsc ⟨false, 0, 0, 1, 3, 0, 0, 0, 1, 0, 0, false, 0⟩),
    (0x700000160D000000, .wbk ⟨false, 0, 0, 1, 3, 0, 0, 3, 1, 0, 0, false, 0⟩),
    (0x7100001601020000, .linv ⟨false, 0, 0, 1, 3, 0, 0, 0, 1, 0, 2, false, 0⟩)] = true := by decide

/-- 09 R239, R240: the atomic opcodes in format A. -/
theorem test_decode_atomics : decodesAll [
    (0x80B08090A0033000, .aadd ⟨true, 3, 8, 9, 10, 0, 1, 2, 1, true, .i32⟩),
    (0x81008090A0032100, .amin ⟨false, 0, 8, 9, 10, 0, 1, 2, 1, false, .n32⟩),
    (0x82008090A0032000, .amax ⟨false, 0, 8, 9, 10, 0, 1, 2, 1, false, .i32⟩),
    (0x83008090A0032100, .aand ⟨false, 0, 8, 9, 10, 0, 1, 2, 1, false, .n32⟩),
    (0x84008090A0032080, .aor ⟨false, 0, 8, 9, 10, 0, 1, 2, 1, false, .i64⟩),
    (0x85008090A0032000, .axor ⟨false, 0, 8, 9, 10, 0, 1, 2, 1, false, .i32⟩),
    (0x86008090A0032300, .axchg ⟨false, 0, 8, 9, 10, 0, 1, 2, 1, false, .l16⟩),
    (0x87008090A0B32380, .acas ⟨false, 0, 8, 9, 10, 11, 1, 2, 1, false, .l32⟩),
    (0x8800809000000080, .adecp ⟨false, 0, 8, 9, 0, 0, 0, 0, 0, false, .i64⟩),
    (0x89008090A0132300, .afmax ⟨false, 0, 8, 9, 10, 1, 1, 2, 1, false, .l16⟩),
    (0x8A008090A0132380, .ladda ⟨false, 0, 8, 9, 10, 1, 1, 2, 1, false, .l32⟩)] = true := by decide

/-- 10 R269, 12 R325: fences, barriers, monitors and tasks in format Y; the forms of one opcode by IMM13. -/
theorem test_decode_ordering : decodesAll [
    (0x900000000000000F, .fence ⟨false, 0, 0, 0, 0, 0, 0, 15⟩),
    (0x900000000000001D, .fenceSc ⟨false, 0, 0, 0, 0, 0, 0, 29⟩),
    (0x9100200000008000, .baraArr ⟨false, 0, 2, 0, 0, 0, 4, 0⟩),
    (0x9100200000008001, .baraDrop ⟨false, 0, 2, 0, 0, 0, 4, 1⟩),
    (0x910000000000807E, .baraInit ⟨false, 0, 0, 0, 0, 0, 4, 126⟩),
    (0x9100000000008003, .baraFree ⟨false, 0, 0, 0, 0, 0, 4, 3⟩),
    (0x9200005000008000, .barw ⟨false, 0, 0, 5, 0, 0, 4, 0⟩),
    (0x9300200070008000, .bartArr ⟨false, 0, 2, 0, 7, 0, 4, 0⟩),
    (0x9300005010008001, .bartTest ⟨false, 0, 0, 5, 1, 0, 4, 1⟩),
    (0x9400200003F00000, .gbarArr ⟨false, 0, 2, 0, 0, 63, 0, 0⟩),
    (0x9400005000100001, .gbarWait ⟨false, 0, 0, 5, 0, 1, 0, 1⟩),
    (0x9400200000100002, .gbarNtf ⟨false, 0, 2, 0, 0, 1, 0, 2⟩),
    (0x940000000010E003, .gbarInit ⟨false, 0, 0, 0, 0, 1, 7, 3⟩),
    (0x950030500010C009, .waitv ⟨false, 0, 3, 5, 0, 1, 6, 9⟩),
    (0x960030000000C000, .wakeOne ⟨false, 0, 3, 0, 0, 0, 6, 0⟩),
    (0x960030000010C015, .wakeAll ⟨false, 0, 3, 0, 0, 1, 6, 21⟩),
    (0x970000000000CFFF, .tdec ⟨false, 0, 0, 0, 0, 0, 6, 4095⟩),
    (0x980000000000C000, .tspn ⟨false, 0, 0, 0, 0, 0, 6, 0⟩),
    (0x9900300000000000, .tendClu ⟨false, 0, 3, 0, 0, 0, 0, 0⟩),
    (0x9900300000000001, .tendDev ⟨false, 0, 3, 0, 0, 0, 0, 1⟩)] = true := by decide

/-- 07 R186: the matrix opcodes in format X. -/
theorem test_decode_matrix : decodesAll [
    (0xA09800007F612103, .mmla ⟨true, 1, 128, 0, 127, 6, 9, 1, 3⟩),
    (0xA1040000052FE000, .mmls ⟨false, 0, 64, 0, 5, 2, 127, 0, 0⟩),
    (0xA2000000080080FF, .mldb ⟨false, 0, 0, 0, 8, 0, 4, 0, 255⟩),
    (0xA308000000000000, .mclr ⟨false, 0, 128, 0, 0, 0, 0, 0, 0⟩),
    (0xA4040BF000000003, .mscl ⟨false, 0, 64, 191, 0, 0, 0, 0, 3⟩),
    (0xA50000000000C000, .mstatFlags ⟨false, 0, 0, 0, 0, 0, 6, 0, 0⟩),
    (0xA50000000000C001, .mstatClr ⟨false, 0, 0, 0, 0, 0, 6, 0, 1⟩),
    (0xA50000007F00C002, .mstatTile ⟨false, 0, 0, 0, 127, 0, 6, 0, 2⟩),
    (0xA50000000000C003, .mstatEu ⟨false, 0, 0, 0, 0, 0, 6, 0, 3⟩)] = true := by decide

/-- 11 R299: the copy opcodes in format C. -/
theorem test_decode_copy : decodesAll [
    (0xB000C33000000000, .cpq ⟨6, 3, 48, 0⟩),
    (0xB100C100FFFFFFFF, .cpi ⟨6, 1, 0, 0xffffffff⟩),
    (0xB20FE20000000000, .cpl ⟨127, 2, 0, 0⟩),
    (0xB300010000001FFF, .cpc ⟨0, 1, 0, 8191⟩),
    (0xB400A10100000000, .cps ⟨5, 1, 1, 0⟩),
    (0xB500A30000000000, .cpf ⟨5, 3, 0, 0⟩)] = true := by decide

/-- 13 R341, R342, R363, 03 R83, 15 R396, R401, 16 R413, R414: the system opcodes in format Y. -/
theorem test_decode_system : decodesAll [
    (0xC00050000070C001, .tlr ⟨false, 0, 5, 0, 0, 7, 6, 1⟩),
    (0xC100000000700000, .tlc ⟨false, 0, 0, 0, 0, 7, 0, 0⟩),
    (0xC20000000FF02000, .feat ⟨false, 0, 0, 0, 0, 255, 1, 0⟩),
    (0xC300000000208000, .rdc ⟨false, 0, 0, 0, 0, 2, 4, 0⟩),
    (0xC40000000220C000, .srd ⟨false, 0, 0, 0, 0, 34, 6, 0⟩),
    (0xC500000001A0C000, .swr ⟨false, 0, 0, 0, 0, 26, 6, 0⟩),
    (0xC60050000000C000, .lease ⟨false, 0, 5, 0, 0, 0, 6, 0⟩),
    (0xC700500000000000, .lrel ⟨false, 0, 5, 0, 0, 0, 0, 0⟩),
    (0xC800506000001FFF, .msg ⟨false, 0, 5, 6, 0, 0, 0, 8191⟩),
    (0xC90000000000C000, .slpIv ⟨false, 0, 0, 0, 0, 0, 6, 0⟩),
    (0xC90000000000C001, .slpNtc ⟨false, 0, 0, 0, 0, 0, 6, 1⟩)] = true := by decide

/-- The words the spec prints beside their fields: 02 R58, 03 R83, R90, R92, 04 R109, R116, 06 R148, R158, R167, 07 R192, 08 R215, R220, 09 R240,
10 R270, 11 R300, 12 R325, R338, 13 R341, R342, R359, R363, 15 R396, R401, 16 R413, R414. -/
theorem test_decode_printed_words : decodesAll [
    (0x20305040300FE000, .iadd ⟨false, 3, 5, 4, 3, 0, 127, false, false, .i32, 0⟩),
    (0x2000605000012000, .iadd ⟨false, 0, 6, 5, 0, 0, 9, false, false, .i32, 0⟩),
    (0xC300000000108000, .rdc ⟨false, 0, 0, 0, 0, 1, 4, 0⟩),
    (0x0900A1403FFFFFFD, .loop ⟨5, 5, 0, false, 0x3FFFFFFD⟩),
    (0x0212000600000004, .brxRegroup ⟨false, 1, 2, 6, 4⟩),
    (0x1802210040000064, .scmp ⟨0x11, 4, 0, true, 100⟩),
    (0x38002070800FE002, .icmp ⟨false, 0, 2, 7, 8, 0, 127, false, false, .i32, 2⟩),
    (0x40003010200FE180, .lmul ⟨false, 0, 3, 1, 2, 0, 127, false, false, .l16, 0⟩),
    (0x49004030500FE180, .ladd ⟨false, 0, 4, 3, 5, 0, 127, false, false, .l16, 0⟩),
    (0x4B006010205FE180, .lmad ⟨false, 0, 6, 1, 2, 5, 127, false, false, .l16, 0⟩),
    (0x4E002070800FE1C2, .lcmp ⟨false, 0, 2, 7, 8, 0, 127, false, false, .l32, 2⟩),
    (0x49008060700FE1C1, .ladd ⟨false, 0, 8, 6, 7, 0, 127, false, false, .l32, 1⟩),
    (0x4500504FFFFFD180, .lpow ⟨false, 0, 5, 4, 0xFFFFFD, false, .l16, 0⟩),
    (0x50002010000FE187, .lcvt ⟨false, 0, 2, 1, 0, 0, 127, false, false, .l16, 7⟩),
    (0xA200000000008000, .mldb ⟨false, 0, 0, 0, 0, 0, 4, 0, 0⟩),
    (0xA0108000002FE000, .mmla ⟨false, 1, 8, 0, 0, 2, 127, 0, 0⟩),
    (0xA50000000000C000, .mstatFlags ⟨false, 0, 0, 0, 0, 0, 6, 0, 0⟩),
    (0xA50000000000E003, .mstatEu ⟨false, 0, 0, 0, 0, 0, 7, 0, 3⟩),
    (0x6C000F00A0000040, .festEmpty ⟨false, 0, 0, 240, 0, 2, 2, 0, 0, 0, 0, false, 64⟩),
    (0x68402F00A4000040, .ld ⟨false, 4, 2, 240, 0, 2, 2, 1, 0, 0, 0, false, 64⟩),
    (0x694F202080020080, .st ⟨false, 4, 242, 2, 0, 2, 0, 0, 0, 0, 2, false, 128⟩),
    (0x69402F00B4000040, .st ⟨false, 4, 2, 240, 0, 2, 3, 1, 0, 0, 0, false, 64⟩),
    (0x8010503040052000, .aadd ⟨false, 1, 5, 3, 4, 0, 2, 2, 1, false, .i32⟩),
    (0x9000000000000005, .fence ⟨false, 0, 0, 0, 0, 0, 0, 5⟩),
    (0x900000000000001A, .fenceSc ⟨false, 0, 0, 0, 0, 0, 0, 0x1A⟩),
    (0xB000C10100000000, .cpq ⟨6, 1, 1, 0⟩),
    (0x9100500000208000, .baraArr ⟨false, 0, 5, 0, 0, 2, 4, 0⟩),
    (0x910000000020800A, .baraInit ⟨false, 0, 0, 0, 0, 2, 4, 10⟩),
    (0x9200005000208000, .barw ⟨false, 0, 0, 5, 0, 2, 4, 0⟩),
    (0x9300600020208000, .bartArr ⟨false, 0, 6, 0, 2, 2, 4, 0⟩),
    (0x01A00000FFFFFFFE, .bra ⟨true, 2, 0, 0, 0xFFFFFFFE⟩),
    (0x0700000000000000, .exit ⟨false, 0, 0, 0, 0, 0, 0, 0⟩),
    (0x9700000000012000, .tdec ⟨false, 0, 0, 0, 0, 0, 9, 0⟩),
    (0x9900300000000001, .tendDev ⟨false, 0, 3, 0, 0, 0, 0, 1⟩),
    (0xC000900000108001, .tlr ⟨false, 0, 9, 0, 0, 1, 4, 1⟩),
    (0xC100000000100000, .tlc ⟨false, 0, 0, 0, 0, 1, 0, 0⟩),
    (0x0B00000000000005, .trap ⟨false, 0, 0, 0, 0, 0, 0, 5⟩),
    (0xC40000000100C000, .srd ⟨false, 0, 0, 0, 0, 0x10, 6, 0⟩),
    (0xC50000000110E000, .swr ⟨false, 0, 0, 0, 0, 0x11, 7, 0⟩),
    (0xC600500000008000, .lease ⟨false, 0, 5, 0, 0, 0, 4, 0⟩),
    (0xC700500000000000, .lrel ⟨false, 0, 5, 0, 0, 0, 0, 0⟩),
    (0xC900000000008001, .slpNtc ⟨false, 0, 0, 0, 0, 0, 4, 1⟩),
    (0xC200000000308000, .feat ⟨false, 0, 0, 0, 0, 3, 4, 0⟩),
    (0xC800506000000007, .msg ⟨false, 0, 5, 6, 0, 0, 0, 7⟩)] = true := by decide

/-- 02 R58 prints this word for `ld.w` with T = 1 and SS = 0: its fields read as printed, and 08 R196 raises ILLEGAL_ENC for that
pair (log entry 17). -/
theorem test_decode_printed_load :
    Dec.rawDecode 0x6800402280020040 = some (.ld ⟨false, 0, 4, 2, 1, 2, 0, 0, 0, 0, 2, false, 64⟩) ∧
    (match decodeWord 0x6800402280020040 with | .error e => e == .enc .illegal | .ok _ => false) = true := by decide
/-! ### Ill-formed terms (02 R34 to R57): one list for each check, every term of it refused -/

/-- Every term is refused with ILLEGAL_ENC. -/
def refusesAll (l : List Instr) : Bool := l.all fun i => i.encFault == some .illegal

def v32 (d a b c : BitVec 8) (ty : Ty) (fn : BitVec 6) : FmtV := ⟨false, 0, d, a, b, c, 127, false, false, ty, fn⟩

/-- 02 R38: PN = 1 with PS = 0; an unpredicated form with a predicate. -/
theorem test_ill_formed_predicates : refusesAll [
    .iadd { v32 5 6 7 0 .i32 0 with pn := true }, .movi ⟨true, 0, 9, 0, 1, false, .b32, 0⟩,
    .ld ⟨true, 0, 4, 2, 0, 2, 0, 0, 0, 0, 0, false, 0⟩, .aadd ⟨true, 0, 8, 9, 10, 0, 0, 0, 0, false, .i32⟩,
    .bra ⟨true, 0, 0, 0, 8⟩, .nop ⟨true, 0, 0, 0, 0, 0, 0, 0⟩, .mclr ⟨true, 0, 0, 0, 0, 0, 0, 0, 0⟩,
    .join ⟨false, 1, 0, 0, 0, 0, 0, 0⟩, .srd ⟨false, 1, 0, 0, 0, 0, 4, 0⟩, .mldb ⟨false, 1, 0, 0, 0, 0, 4, 0, 0⟩] = true := by decide

/-- 02 R39: a field without a role that is not zero. -/
theorem test_ill_formed_unused_fields : refusesAll [
    .iadd (v32 5 6 7 1 .i32 0), .not (v32 5 6 7 0 .b32 0), .mov { v32 5 6 0 0 .b32 0 with s := 3 },
    .iadd { v32 5 6 7 0 .i32 0 with s := 3 }, .lneg { v32 5 6 0 0 .l32 0 with s := 3 }, .nop ⟨false, 0, 1, 0, 0, 0, 0, 0⟩,
    .smov ⟨1, 2, 3, false, 0⟩, .smov ⟨1, 2, 0, false, 1⟩, .sadd ⟨1, 2, 3, true, 5⟩, .sadd ⟨1, 2, 3, false, 5⟩, .bra ⟨false, 0, 0, 1, 8⟩,
    .pf ⟨false, 0, 1, 2, 1, 0, 0, 1, 1, 0, 0, false, 0⟩, .st ⟨false, 0, 4, 2, 0, 2, 0, 0, 0, 0, 0, true, 0⟩, .ld ⟨false, 0, 4, 2, 0, 2, 0, 0, 0, 1, 0, false, 0⟩,
    .aadd ⟨false, 0, 8, 9, 10, 1, 0, 0, 0, false, .i32⟩, .adecp ⟨false, 0, 8, 9, 10, 0, 0, 0, 0, false, .i32⟩,
    .mstatEu ⟨false, 0, 0, 0, 1, 0, 6, 0, 3⟩, .cpq ⟨6, 1, 1, 1⟩, .rdc ⟨false, 0, 0, 0, 0, 0, 4, 1⟩] = true := by decide

/-- 02 R50: a type the entry does not list. -/
theorem test_ill_formed_types : refusesAll [
    .iadd (v32 5 6 7 0 .b32 0), .ineg (v32 5 6 0 0 .n32 0), .and (v32 5 6 7 0 .i32 0), .shl (v32 5 6 7 0 .i32 0),
    .sar (v32 5 6 7 0 .b32 0), .bfe (v32 5 6 7 0 .b32 0), .sel (v32 5 6 7 1 .i32 0), .movi ⟨false, 0, 9, 0, 1, false, .i32, 0⟩,
    .lea (v32 5 6 7 0 .i32 0), .plog (v32 1 2 3 0 .b32 8), .matchV (v32 6 4 0 0 .i32 0), .vote (v32 1 2 0 0 .b32 0),
    .scan (v32 5 6 0 0 .b32 0), .scan (v32 5 6 0 0 .i32 3), .scan (v32 5 6 0 0 .l8 0), .lmul (v32 5 6 7 0 .i32 0), .lpk (v32 5 6 7 0 .l32 0),
    .aadd ⟨false, 0, 8, 9, 10, 0, 0, 0, 0, false, .n64⟩, .afmax ⟨false, 0, 8, 9, 10, 0, 0, 0, 0, false, .l8⟩] = true := by decide

/-- 04 R112, R117, 06 R144, 07 R186: an FN the entry does not list. -/
theorem test_ill_formed_functions : refusesAll [
    .iadd (v32 5 6 7 0 .i32 2), .imulh (v32 5 6 7 0 .i32 1), .icmp (v32 1 6 7 0 .i32 6), .lea (v32 4 6 7 0 .n64 8), .plog (v32 1 2 3 0 .i32 16),
    .shfl (v32 5 6 7 0 .b32 4), .vote (v32 1 2 0 0 .i32 4), .scan (v32 5 6 0 0 .i32 16), .redux (v32 5 6 0 0 .i32 8), .lmul (v32 5 6 7 0 .l32 2),
    .lsqrt (v32 5 6 0 0 .l32 1), .lcmp (v32 1 6 7 0 .l32 8), .lcvt (v32 5 6 0 0 .l32 4), .lfi (v32 5 6 0 0 .l32 8), .lpk (v32 5 6 7 0 .l16 1),
    .lupk (v32 5 6 0 0 .l16 2), .lpow ⟨false, 0, 5, 6, 17, false, .l32, 0⟩, .movh ⟨false, 0, 5, 6, 0x10000, false, .b32, 0⟩,
    .mmla ⟨false, 0, 64, 0, 0, 2, 0, 0, 4⟩, .mmla ⟨false, 0, 64, 0, 0, 2, 0, 2, 0⟩, .mscl ⟨false, 0, 64, 0, 0, 0, 0, 0, 4⟩] = true := by decide

/-- 02 R51 to R53: destinations: numbers above 240, p0, an odd pair, a queue that is not written. -/
theorem test_ill_formed_destinations : refusesAll [
    .iadd (v32 241 6 7 0 .i32 0), .iadd (v32 228 6 7 0 .i32 0), .iadd (v32 231 6 7 0 .i32 0), .iadd (v32 5 6 8 0 .i64 0), .iadd (v32 224 6 8 0 .i64 0),
    .icmp (v32 0 6 7 0 .i32 0), .icmp (v32 8 6 7 0 .i32 0), .ld ⟨false, 0, 5, 2, 0, 3, 0, 0, 0, 0, 0, false, 0⟩,
    .ld ⟨false, 0, 222, 2, 0, 4, 0, 0, 0, 0, 0, false, 0⟩, .ld ⟨false, 0, 241, 2, 0, 2, 0, 0, 0, 0, 0, false, 0⟩,
    .st ⟨false, 0, 246, 2, 0, 2, 0, 0, 0, 0, 0, false, 0⟩, .feq ⟨false, 0, 0, 2, 0, 2, 0, 0, 0, 0, 0, false, 0⟩, .aadd ⟨false, 0, 224, 9, 10, 0, 0, 0, 0, false, .i32⟩,
    .acas ⟨false, 0, 9, 9, 10, 12, 0, 0, 0, false, .i64⟩, .waitv ⟨false, 0, 0, 5, 0, 0, 6, 0⟩, .bartArr ⟨false, 0, 2, 0, 8, 0, 4, 0⟩,
    .scmp ⟨8, 1, 2, false, 0⟩, .scmp ⟨81, 1, 2, false, 0⟩, .sst ⟨1, 2, 3, false, 0⟩] = true := by decide

/-- 02 R51 to R53: sources: numbers above 245, odd pairs, queues that are not read, predicates above 7, scalars above 127. -/
theorem test_ill_formed_sources : refusesAll [
    .iadd (v32 5 246 7 0 .i32 0), .iadd (v32 4 5 6 0 .i64 0), .iadd (v32 4 242 6 0 .i64 0), .iadd (v32 5 224 7 0 .i32 0), .iadd (v32 5 6 231 0 .i32 0),
    .sel (v32 5 6 7 8 .b32 0), .plog (v32 1 8 3 0 .i32 8), .ld ⟨false, 0, 4, 192, 0, 2, 0, 0, 0, 0, 0, false, 0⟩,
    .ld ⟨false, 0, 4, 246, 0, 2, 0, 0, 0, 0, 0, false, 0⟩, .aadd ⟨false, 0, 8, 241, 10, 0, 0, 0, 0, false, .i32⟩,
    .aadd ⟨false, 0, 8, 9, 246, 0, 0, 0, 0, false, .i32⟩, .barw ⟨false, 0, 0, 128, 0, 0, 4, 0⟩, .tendClu ⟨false, 0, 128, 0, 0, 0, 0, 0⟩,
    .lease ⟨false, 0, 128, 0, 0, 0, 4, 0⟩, .msg ⟨false, 0, 5, 128, 0, 0, 0, 7⟩, .loop ⟨5, 6, 0, false, 1⟩, .jmpi ⟨1, 2, 0, false, 0⟩] = true := by decide

/-- 04 R104, 02 R52, R41: K with a team register or a queue, two queues, U on a queue, a scalar beside a register, or without a role. -/
theorem test_ill_formed_marks : refusesAll [
    .iadd { v32 192 6 7 0 .i32 0 with k := true }, .iadd { v32 239 6 7 0 .i32 0 with k := true }, .iadd (v32 5 228 229 0 .i32 0),
    .iadd { v32 5 228 7 0 .i32 0 with u := true }, .redux { v32 5 6 1 0 .i32 0 with s := 3 }, .smovi ⟨1, 2, 0, false, 4⟩, .sld ⟨1, 2, 0, true, 8⟩,
    .slea ⟨1, 2, 3, false, 8⟩, .lcmp { v32 1 6 7 0 .l32 0 with k := true }] = true := by decide

/-- 08 R196, R212, 09 R240: sizes, forms and scopes: SZ 6, a full/empty form below a word, T against SS, SQ below device scope. -/
theorem test_ill_formed_accesses : refusesAll [
    .ld ⟨false, 0, 4, 2, 0, 6, 0, 0, 0, 0, 0, false, 0⟩, .ld ⟨false, 0, 4, 2, 0, 1, 1, 0, 0, 0, 0, false, 0⟩, .ld ⟨false, 0, 4, 2, 0, 2, 3, 0, 0, 0, 0, false, 0⟩,
    .st ⟨false, 0, 4, 2, 0, 2, 2, 0, 0, 0, 0, false, 0⟩, .ld ⟨false, 0, 4, 2, 0, 2, 0, 0, 1, 0, 0, false, 0⟩, .ld ⟨false, 0, 4, 2, 1, 2, 0, 0, 0, 0, 0, false, 0⟩,
    .ldc ⟨false, 0, 4, 2, 0, 2, 0, 0, 0, 0, 0, false, 0⟩, .pf ⟨false, 0, 0, 2, 1, 0, 0, 0, 1, 0, 0, false, 0⟩,
    .wbk ⟨false, 0, 0, 2, 1, 0, 0, 0, 1, 0, 0, false, 0⟩, .dsc ⟨false, 0, 0, 2, 1, 0, 0, 1, 1, 0, 0, false, 0⟩, .linv ⟨false, 0, 0, 2, 0, 0, 0, 0, 1, 0, 0, false, 0⟩,
    .aadd ⟨false, 0, 8, 9, 10, 0, 0, 2, 0, true, .i32⟩, .aadd ⟨false, 0, 8, 9, 10, 0, 1, 1, 1, true, .i32⟩] = true := by decide

/-- 02 R46, 10 R269, 11 R299 to R305, 12 R325, 13 R341, R342, R363, 15 R401: forms, kinds, indices and counts. -/
theorem test_ill_formed_forms : refusesAll [
    .bra ⟨false, 0, 1, 0, 8⟩, .brx ⟨false, 0, 1, 0, 8⟩, .brxRegroup ⟨false, 0, 1, 5, 8⟩, .call ⟨false, 0, 0, 0, 8⟩, .jmpi ⟨0, 2, 0, true, 0⟩,
    .fence ⟨false, 0, 0, 0, 0, 0, 0, 0x13⟩, .fence ⟨false, 0, 0, 0, 0, 0, 0, 11⟩, .fenceSc ⟨false, 0, 0, 0, 0, 0, 0, 0x14⟩, .fence ⟨false, 0, 0, 0, 0, 0, 0, 32⟩,
    .baraInit ⟨false, 0, 0, 0, 0, 0, 4, 130⟩, .baraArr ⟨false, 0, 2, 0, 0, 0, 4, 4⟩, .gbarArr ⟨false, 0, 2, 0, 0, 64, 0, 0⟩, .waitv ⟨false, 0, 1, 5, 0, 8, 6, 1⟩,
    .wakeOne ⟨false, 0, 1, 0, 0, 1, 6, 0⟩, .wakeAll ⟨false, 0, 1, 0, 0, 1, 6, 1⟩, .tdec ⟨false, 0, 0, 0, 0, 0, 6, 4096⟩, .tendDev ⟨false, 0, 3, 0, 0, 0, 0, 0⟩,
    .cpq ⟨6, 4, 1, 0⟩, .cpq ⟨6, 0, 0, 0⟩, .cpq ⟨6, 0, 49, 0⟩, .cpc ⟨0, 0, 0, 8192⟩, .cpc ⟨1, 0, 0, 0⟩, .cps ⟨0, 0, 2, 0⟩, .tlr ⟨false, 0, 5, 0, 0, 0, 6, 0⟩,
    .tlr ⟨false, 0, 5, 0, 0, 8, 6, 0⟩, .tlc ⟨false, 0, 0, 0, 0, 0, 0, 0⟩, .srd ⟨false, 0, 0, 0, 0, 7, 4, 0⟩, .swr ⟨false, 0, 0, 0, 0, 0x17, 4, 0⟩,
    .rdc ⟨false, 0, 0, 0, 0, 3, 4, 0⟩, .slpIv ⟨false, 0, 0, 0, 0, 0, 4, 2⟩, .mclr ⟨false, 0, 129, 0, 0, 0, 0, 0, 0⟩,
    .mmla ⟨false, 0, 64, 60, 0, 2, 0, 0, 0⟩, .mmla ⟨false, 0, 64, 160, 0, 6, 0, 0, 0⟩, .emovGet ⟨false, 0, 0, 0, 0, 0, 4, 1⟩] = true := by decide

/-- 02 R47, R57: FMT 7 raises MATRIX_FMT before a VB of 128 raises VENEER_BOUNDS, and after the reserved fields. -/
theorem test_ill_formed_matrix :
    (Instr.mmla ⟨false, 0, 64, 0, 128, 7, 0, 0, 0⟩).encFault = some .matrixFmt ∧
    (Instr.mmls ⟨false, 0, 64, 0, 128, 6, 0, 0, 0⟩).encFault = some .veneer ∧
    (Instr.mldb ⟨false, 0, 0, 0, 128, 0, 4, 0, 0⟩).encFault = some .veneer ∧
    (Instr.mstatTile ⟨false, 0, 0, 0, 128, 0, 4, 0, 2⟩).encFault = some .veneer ∧
    (Instr.mmla ⟨false, 0, 64, 0, 0, 7, 0, 0, 4⟩).encFault = some .illegal := by decide

/-! ### Small states -/

/-- The group of core 0, slot 0: 16 lanes at the only instruction of a clause; all registers of its window, all tiles. -/
def base : State := State.reset.withFetchWord 64 0

def grpS (f : Group → Group) : State := base.modGrp 0 f

/-- Lane 0 alone active, its registers as listed. -/
def laneS (vs : List (Nat × Word)) : State :=
  grpS fun x => { x with em := 1, live := 1, window := [⟨0, false, vs.map fun v => ⟨v.1, 0, v.2⟩⟩] }

/-- Scalars as listed. -/
def scalarS (vs : List (Nat × DWord)) : State := grpS fun x => { x with sregs := vs }

/-- The instruction completes, and the next state is as said. -/
def goes (i : Instr) (s : State) (p : State → Bool) : Bool :=
  match exec i s with
  | .next t => p t
  | _ => false

/-- Lane 0 of register r reads v afterwards. -/
def gives (i : Instr) (vs : List (Nat × Word)) (r : Nat) (v : Word) : Bool :=
  goes i (laneS vs) fun t => readV t 0 [] r 0 == v

/-- Predicate 1 of lane 0 reads b afterwards. -/
def tells (i : Instr) (vs : List (Nat × Word)) (b : Bool) : Bool :=
  goes i (laneS vs) fun t => (predOf (t.grp 0) 1).getLsbD 0 == b

/-- Scalar 3 reads v afterwards. -/
def leaves (i : Instr) (vs : List (Nat × DWord)) (v : DWord) : Bool := goes i (scalarS vs) fun t => readS t 0 3 == v

/-- The group has trapped: the launch is aborted, as no handler stands (13 R356). -/
def aborts (i : Instr) (s : State) : Bool := goes i s fun t => (t.launch 0).aborted

/-- A context with a handler at 8192 (13 R355). -/
def handled (s : State) : State := s.setCtx 0 { s.ctx 0 with tvec := 8192 }

/-- The group traps to its handler with this code and address. -/
def trapsTo (i : Instr) (s : State) (code addr : Nat) : Bool :=
  goes i (handled s) fun t =>
    let x := (t.grp 0).trap
    x.tcause == BitVec.ofNat 64 code && x.taddr == BitVec.ofNat 64 addr && (t.grp 0).pc == 8192 && x.hmode

def sf (a b : BitVec 7) : FmtS := ⟨3, a, b, false, 0⟩

/-! ### Scalar instructions (04 R108 to R111) -/

theorem test_sadd_wraps : leaves (.sadd (sf 1 2)) [(1, 0xFFFFFFFFFFFFFFFF), (2, 2)] 1 = true := by decide
theorem test_sadd_immediate : leaves (.sadd ⟨3, 1, 0, true, 0x3FFFFFFF⟩) [(1, 5)] 4 = true := by decide
theorem test_ssub_borrows : leaves (.ssub (sf 1 2)) [(1, 1), (2, 2)] 0xFFFFFFFFFFFFFFFF = true := by decide
theorem test_smul_low_half : leaves (.smul (sf 1 2)) [(1, 0x100000001), (2, 0x100000001)] 0x200000001 = true := by decide
theorem test_sand : leaves (.sand (sf 1 2)) [(1, 12), (2, 10)] 8 = true := by decide
theorem test_sor : leaves (.sor (sf 1 2)) [(1, 12), (2, 10)] 14 = true := by decide
theorem test_sxor : leaves (.sxor (sf 1 2)) [(1, 12), (2, 10)] 6 = true := by decide
theorem test_sshl_by_64 : leaves (.sshl (sf 1 2)) [(1, 1), (2, 64), (3, 7)] 0 = true := by decide
theorem test_sshl_by_63 : leaves (.sshl (sf 1 2)) [(1, 3), (2, 63)] 0x8000000000000000 = true := by decide
theorem test_sshr_logical : leaves (.sshr (sf 1 2)) [(1, 0x8000000000000000), (2, 63)] 1 = true := by decide
theorem test_scmp_signed_less : goes (.scmp ⟨0x11, 1, 2, false, 0⟩) (scalarS [(1, 0xFFFFFFFFFFFFFFFF), (2, 0)])
    (fun t => predOf (t.grp 0) 1 == 0xFFFF) = true := by decide
theorem test_scmp_unsigned_less : goes (.scmp ⟨0x31, 1, 2, false, 0⟩) (scalarS [(1, 0xFFFFFFFFFFFFFFFF), (2, 0)])
    (fun t => predOf (t.grp 0) 1 == 0) = true := by decide
theorem test_smov : leaves (.smov (sf 1 0)) [(1, 9)] 9 = true := by decide
theorem test_smov_to_s127_discards : goes (.smov ⟨127, 1, 0, false, 0⟩) (scalarS [(1, 9)]) (fun t => readS t 0 127 == 0) = true := by decide
theorem test_smovi_appends : leaves (.smovi ⟨3, 1, 0, true, 0x3FFFFFFF⟩) [(1, 1)] 0x3FFFFFFF = true := by decide
theorem test_sbfe_signed : leaves (.sbfe ⟨3, 1, 0, true, 0x2000 + 4 * 64 + 4⟩) [(1, 0x80)] 0xFFFFFFFFFFFFFFF8 = true := by decide
theorem test_ssel_reads_destination : leaves (.ssel (sf 1 2)) [(1, 7), (2, 8), (3, 0)] 8 = true := by decide
theorem test_slea_scales : leaves (.slea ⟨3, 1, 2, false, 7⟩) [(1, 1), (2, 2)] 257 = true := by decide
theorem test_sst_sld_round_trip : goes (.sst ⟨0, 1, 2, false, 8⟩) (scalarS [(1, 16), (2, 0x1122334455667788)])
    (fun t => storeRead t 0 24 1 == 0x88 && storeRead t 0 31 1 == 0x11) = true := by decide
theorem test_sld_little_endian : goes (.sld ⟨3, 1, 0, false, 8⟩)
    (storeWrite (scalarS [(1, 0)]) 0 8 8 0x1122334455667788) (fun t => readS t 0 3 == 0x1122334455667788) = true := by decide
theorem test_sld_misaligned : trapsTo (.sld ⟨3, 1, 0, false, 0⟩) (scalarS [(1, 4)]) 0x05 4 = true := by decide
theorem test_sst_beyond_limit : trapsTo (.sst ⟨0, 1, 2, false, 0⟩) (scalarS [(1, 14336)]) 0x06 14336 = true := by decide

/-! ### Integer vector instructions (04 R112 to R116) -/

theorem test_iadd_wraps : gives (.iadd (v32 5 6 7 0 .i32 0)) [(6, 3), (7, 0xFFFFFFFF)] 5 2 = true := by decide
theorem test_iadd_saturates : gives (.iadd (v32 5 6 7 0 .i32 1)) [(6, 0x7FFFFFFF), (7, 1)] 5 0x7FFFFFFF = true := by decide
theorem test_isub_unsigned_floor : gives (.isub (v32 5 6 7 0 .n32 1)) [(6, 1), (7, 2)] 5 0 = true := by decide
theorem test_isub_wide_borrow : gives (.isub (v32 4 6 8 0 .i64 0)) [(6, 0), (7, 1), (8, 1), (9, 0)] 4 0xFFFFFFFF = true := by decide
theorem test_imul_wraps : gives (.imul (v32 5 6 7 0 .i32 0)) [(6, 0x10001), (7, 0x10001)] 5 0x20001 = true := by decide
theorem test_imad : gives (.imad (v32 5 6 7 8 .i32 0)) [(6, 3), (7, 4), (8, 0xFFFFFFFF)] 5 11 = true := by decide
theorem test_imulh_signed : gives (.imulh (v32 5 6 7 0 .i32 0)) [(6, 0xFFFFFFFF), (7, 2)] 5 0xFFFFFFFF = true := by decide
theorem test_idiv_by_zero : gives (.idiv (v32 5 6 7 0 .i32 0)) [(6, 0xFFFFFFFB), (7, 0)] 5 0x80000000 = true := by decide
theorem test_idiv_remainder_sign : gives (.idiv (v32 5 6 7 0 .i32 1)) [(6, 0xFFFFFFF9), (7, 2)] 5 0xFFFFFFFF = true := by decide
theorem test_ineg_least : gives (.ineg (v32 5 6 0 0 .i32 0)) [(6, 0x80000000)] 5 0x80000000 = true := by decide
theorem test_iabs_saturates : gives (.iabs (v32 5 6 0 0 .i32 1)) [(6, 0x80000000)] 5 0x7FFFFFFF = true := by decide
theorem test_imin_signed : gives (.imin (v32 5 6 7 0 .i32 0)) [(6, 0xFFFFFFFF), (7, 1)] 5 0xFFFFFFFF = true := by decide
theorem test_imax_unsigned : gives (.imax (v32 5 6 7 0 .n32 0)) [(6, 0xFFFFFFFF), (7, 1)] 5 0xFFFFFFFF = true := by decide
theorem test_and : gives (.and (v32 5 6 7 0 .b32 0)) [(6, 12), (7, 10)] 5 8 = true := by decide
theorem test_or : gives (.or (v32 5 6 7 0 .b32 0)) [(6, 12), (7, 10)] 5 14 = true := by decide
theorem test_xor : gives (.xor (v32 5 6 7 0 .b32 0)) [(6, 12), (7, 10)] 5 6 = true := by decide
theorem test_not : gives (.not (v32 5 6 0 0 .b32 0)) [(6, 12)] 5 0xFFFFFFF3 = true := by decide
theorem test_shl_by_width : gives (.shl (v32 5 6 7 0 .b32 0)) [(6, 1), (7, 32)] 5 0 = true := by decide
theorem test_shr_wide : gives (.shr (v32 4 6 8 0 .n64 0)) [(6, 0), (7, 1), (8, 4)] 4 0x10000000 = true := by decide
theorem test_sar_by_width : gives (.sar (v32 5 6 7 0 .i32 0)) [(6, 0x80000000), (7, 40)] 5 0xFFFFFFFF = true := by decide
theorem test_rot_left : gives (.rot (v32 5 6 7 0 .b32 0)) [(6, 0x80000001), (7, 33)] 5 3 = true := by decide
theorem test_bfe_signed : gives (.bfe (v32 5 6 7 0 .i32 0)) [(6, 0xF0), (7, 0x404)] 5 0xFFFFFFFF = true := by decide
theorem test_bfi : gives (.bfi (v32 5 6 7 8 .b32 0)) [(6, 0xFF), (7, 0x12345678), (8, 0x404)] 5 0x123456F8 = true := by decide
theorem test_popc : gives (.popc (v32 5 6 0 0 .b32 0)) [(6, 0xF0F)] 5 8 = true := by decide
theorem test_clz_of_zero : gives (.clz (v32 5 6 0 0 .b32 0)) [(6, 0)] 5 32 = true := by decide
theorem test_ctz : gives (.ctz (v32 5 6 0 0 .b32 0)) [(6, 0x8000)] 5 15 = true := by decide
theorem test_brev : gives (.brev (v32 5 6 0 0 .b32 0)) [(6, 3)] 5 0xC0000000 = true := by decide
theorem test_icmp_signed_less : tells (.icmp (v32 1 6 7 0 .i32 2)) [(6, 0xFFFFFFFF), (7, 0)] true = true := by decide
theorem test_icmp_unsigned_less : tells (.icmp (v32 1 6 7 0 .n32 2)) [(6, 0xFFFFFFFF), (7, 0)] false = true := by decide
theorem test_sel_by_predicate : goes (.sel (v32 5 6 7 2 .b32 0)) ((laneS [(6, 1), (7, 2)]).modGrp 0 fun x => { x with preds := [(2, 0)] })
    (fun t => readV t 0 [] 5 0 == 2) = true := by decide
theorem test_mov_scalar_in_place_of_a : goes (.mov { v32 5 0 0 0 .b32 0 with s := 3 })
    ((laneS []).modGrp 0 fun x => { x with sregs := [(3, 0x123456789)] }) (fun t => readV t 0 [] 5 0 == 0x23456789) = true := by decide
theorem test_movi_sign_extends : gives (.movi ⟨false, 0, 5, 0, 0x800000, false, .b32, 0⟩) [] 5 0xFF800000 = true := by decide
theorem test_movh_keeps_low_half : gives (.movh ⟨false, 0, 5, 6, 0xABCD, false, .b32, 0⟩) [(6, 0x12345678)] 5 0xABCD5678 = true := by decide
theorem test_lea_negative_index : gives (.lea (v32 5 6 7 0 .n32 2)) [(6, 100), (7, 0xFFFFFFFF)] 5 96 = true := by decide
theorem test_plog_xor : goes (.plog (v32 1 2 3 0 .i32 6)) ((laneS []).modGrp 0 fun x => { x with preds := [(2, 1), (3, 0)] })
    (fun t => predOf (t.grp 0) 1 == 1) = true := by decide
/-- 02 R60: an inactive lane keeps its register; 04 R104: with K = 1 the bank keeps its word. -/
theorem test_inactive_lane_keeps : goes (.movi ⟨false, 1, 5, 0, 7, false, .b32, 0⟩) (laneS []) (fun t => readV t 0 [] 5 0 == 0) = true := by decide
theorem test_k_stays_out_of_the_bank : goes (.movi ⟨false, 0, 5, 0, 7, true, .b32, 0⟩) (laneS []) (fun t => readV t 0 [] 5 0 == 0) = true := by decide
/-- 02 R51: a register at the count traps with PROT. -/
theorem test_register_limit : trapsTo (.movi ⟨false, 0, 5, 0, 7, false, .b32, 0⟩) ((laneS []).modGrp 0 fun x => { x with nregs := 5 }) 0x06 5 = true := by
  decide

/-! ### Lane-cross instructions (04 R117 to R120) -/

/-- Lanes 0 and 1 active; register 6 holds a and b there, 99 in lane 2. -/
def twoS (a b : Word) : State :=
  grpS fun x => { x with em := 3, live := 3, window := [⟨0, false, [⟨6, 0, a⟩, ⟨6, 1, b⟩, ⟨6, 2, 99⟩, ⟨7, 0, 2⟩, ⟨7, 1, 1⟩]⟩] }

theorem test_shfl_reads_inactive_lane : goes (.shfl (v32 5 6 7 0 .b32 2)) (twoS 1 2) (fun t => readV t 0 [] 5 0 == 99) = true := by decide
theorem test_match_within_active : goes (.matchV (v32 4 6 0 0 .b32 0)) (twoS 5 5) (fun t => readV t 0 [] 4 1 == 3 && readV t 0 [] 5 1 == 0) = true := by
  decide
theorem test_vote_ballot : goes (.vote { v32 4 2 0 0 .i32 3 with s := 3 }) ((twoS 0 0).modGrp 0 fun x => { x with preds := [(2, 6)] })
    (fun t => readS t 0 3 == 2 && readV t 0 [] 4 0 == 2) = true := by decide
theorem test_vote_all : goes (.vote (v32 1 2 0 0 .i32 1)) ((twoS 0 0).modGrp 0 fun x => { x with preds := [(2, 3)] })
    (fun t => predOf (t.grp 0) 1 == 3) = true := by decide
theorem test_scan_inclusive : goes (.scan (v32 5 6 0 0 .i32 0)) (twoS 3 4) (fun t => readV t 0 [] 5 0 == 3 && readV t 0 [] 5 1 == 7) = true := by decide
theorem test_scan_exclusive : goes (.scan (v32 5 6 0 0 .i32 9)) (twoS 3 4) (fun t => readV t 0 [] 5 0 == 0x7FFFFFFF && readV t 0 [] 5 1 == 3) = true := by
  decide
theorem test_redux_and_scalar : goes (.redux { v32 5 6 0 0 .b32 5 with s := 3 }) (twoS 3 5) (fun t => readV t 0 [] 5 1 == 6 && readS t 0 3 == 6) = true := by
  decide
theorem test_bcast_inactive_lane : goes (.bcast { v32 5 6 0 0 .b32 2 with s := 3 }) (twoS 3 5) (fun t => readV t 0 [] 5 1 == 99 && readS t 0 3 == 99) = true := by
  decide

/-! ### Log instructions (06 R144 to R167); the codes of 05 R121, R122 and the worked examples of 05 and 06 -/

theorem test_lmul_underflow : gives (.lmul (v32 5 6 7 0 .l16 0)) [(6, 0x2C00), (7, 0x3000)] 5 0x4000 = true := by decide
theorem test_lmul_zero_times_infinity : gives (.lmul (v32 5 6 7 0 .l32 0)) [(6, 0x40000000), (7, 0x5FFFFFFF)] 5 0x60000000 = true := by decide
theorem test_ldiv : gives (.ldiv (v32 5 6 7 0 .l16 0)) [(6, 0x8400), (7, 0x0200)] 5 0x8200 = true := by decide
theorem test_lrcp_overflow_saturates : gives (.lrcp (v32 5 6 0 0 .l16 1)) [(6, 0x2000)] 5 0x1FFF = true := by decide
theorem test_lsqr_clears_sign : gives (.lsqr (v32 5 6 0 0 .l16 0)) [(6, 0x8200)] 5 0x0400 = true := by decide
theorem test_lsqrt_tie_to_even : gives (.lsqrt (v32 5 6 0 0 .l16 0)) [(6, 0x3FFD)] 5 0x3FFE = true := by decide
theorem test_lpow_of_zero_negative : gives (.lpow ⟨false, 0, 5, 6, 0xFFFFFD, false, .l16, 0⟩) [(6, 0xC000)] 5 0xDFFF = true := by decide
theorem test_lscl : gives (.lscl (v32 5 6 7 0 .l16 0)) [(6, 0x0200), (7, 0xFFFFFFFF)] 5 0x0000 = true := by decide
theorem test_lneg_of_nan : gives (.lneg (v32 5 6 0 0 .l16 0)) [(6, 0xE001)] 5 0x6000 = true := by decide
theorem test_labs : gives (.labs (v32 5 6 0 0 .l16 0)) [(6, 0xC000)] 5 0x4000 = true := by decide
theorem test_ladd_worked_example : gives (.ladd (v32 5 6 7 0 .l16 0)) [(6, 0x0300), (7, 0x029C)] 5 0x04D0 = true := by decide
theorem test_ladd_near_cancellation : gives (.ladd (v32 5 6 7 0 .l16 0)) [(6, 0x0300), (7, 0x82FD)] 5 0x331B = true := by decide
theorem test_lsub_equal_codes : gives (.lsub (v32 5 6 7 0 .l32 0)) [(6, 0x123), (7, 0x123)] 5 0x40000000 = true := by decide
theorem test_lmad_worked_example : gives (.lmad (v32 5 6 7 8 .l16 0)) [(6, 0x2C00), (7, 0x3000), (8, 0x3000)] 5 0x3001 = true := by decide
theorem test_lmin_of_zeros : gives (.lmin (v32 5 6 7 0 .l16 0)) [(6, 0x4000), (7, 0xC000)] 5 0xC000 = true := by decide
theorem test_lmax_of_magnitudes : gives (.lmax (v32 5 6 7 0 .l16 1)) [(6, 0x0200), (7, 0x8400)] 5 0x8400 = true := by decide
theorem test_lcmp_unordered : tells (.lcmp (v32 1 6 7 0 .l16 1)) [(6, 0x6000), (7, 0)] true = true := by decide
theorem test_lcmp_zeros_equal : tells (.lcmp (v32 1 6 7 0 .l16 0)) [(6, 0x4000), (7, 0xC000)] true = true := by decide
theorem test_lcls_other_nan : gives (.lcls (v32 5 6 0 0 .l16 0)) [(6, 0x6001)] 5 7 = true := by decide
theorem test_lcvt_rounds_to_odd : gives (.lcvt (v32 5 6 0 0 .l16 7)) [(6, 1)] 5 1 = true := by decide
theorem test_lcvt_rounds_to_even : gives (.lcvt (v32 5 6 0 0 .l16 3)) [(6, 1)] 5 0 = true := by decide
theorem test_lfi_power_of_two : gives (.lfi (v32 5 6 0 0 .l16 0)) [(6, 0xFFFFFFF8)] 5 0x8600 = true := by decide
theorem test_lti_saturates : gives (.lti (v32 5 6 0 0 .l32 0)) [(6, 0x5FFFFFFF)] 5 0x7FFFFFFF = true := by decide
theorem test_lxf_half : gives (.lxf (v32 5 6 0 0 .l16 16)) [(6, 0x8000)] 5 0x3E00 = true := by decide
theorem test_lfx_half : gives (.lfx (v32 5 6 0 0 .l16 16)) [(6, 0x3E00)] 5 0x8000 = true := by decide
theorem test_lexp2_of_minus_one : gives (.lexp2 (v32 5 6 0 0 .l16 0)) [(6, 0x8000)] 5 0x3E00 = true := by decide
theorem test_llg2_of_half : gives (.llg2 (v32 5 6 0 0 .l16 0)) [(6, 0x3E00)] 5 0x8000 = true := by decide
theorem test_lpk_keeps_upper_half : gives (.lpk (v32 5 6 7 8 .l8 0)) [(6, 0x12), (7, 0x61), (8, 0xABCD0000)] 5 0xABCD6012 = true := by decide
theorem test_lupk_second_half : gives (.lupk (v32 5 6 0 0 .l16 1)) [(6, 0x12345678)] 5 0x1234 = true := by decide

/-! ### Control flow (03 R84 to R92) -/

def poke (s : State) (pa n v : Nat) : State := { s with hbm := mwrite s.hbm pa n v }

/-- Context 0 with a page table (13 R343): one 2-MiB leaf maps addresses 0 on to 0x400000 on, with R, W, X and FEK; a handler at 8192. -/
def paged (s : State) : State :=
  let s := s.setCtx 0 { s.ctx 0 with ptroot := 0x100000, tvec := 8192 }
  poke (poke (poke s 0x100000 8 0x108001) 0x108000 8 0x110001) 0x110000 8 0x0470000000400025

/-- Clause headers at 4112, behind the clause, at 4160, of a join clause, and at 4224 (02 R33). -/
def codeS (f : Group → Group) : State :=
  poke (poke (poke (paged (grpS f)) 0x401010 8 0xF000000000000000) 0x401040 8 0xF000000000004000) 0x401080 8 0xF000000000000000

def y0 : FmtY := ⟨false, 0, 0, 0, 0, 0, 0, 0⟩
def four : Group → Group := fun x => { x with em := 15, live := 15, preds := [(1, 3)] }

theorem test_nop_goes_on : goes (.nop y0) base (fun t => (t.grp 0).pc == 4112 && (t.grp 0).seq == 1) = true := by decide
theorem test_bra_taken : goes (.bra ⟨false, 1, 0, 0, 16⟩) (codeS four) (fun t => (t.grp 0).pc == 4224) = true := by decide
theorem test_bra_backward_to_no_header : trapsTo (.bra ⟨false, 0, 0, 0, 0xFFFFFFFE⟩) (codeS four) 0x02 4080 = true := by decide
theorem test_brx_diverges : goes (.brx ⟨false, 1, 1, 8, 16⟩) (codeS four) (fun t =>
    (t.grp 0).pc == 4224 && (t.grp 0).em == 3 && (t.grp 0).stack == [.diverge 4160 15 12 4112]) = true := by decide
theorem test_brx_all_fall : goes (.brx ⟨false, 2, 1, 8, 16⟩) (codeS four) (fun t =>
    (t.grp 0).pc == 4112 && (t.grp 0).em == 15 && (t.grp 0).stack == [.diverge 4160 15 0 4112]) = true := by decide
theorem test_brx_join_checked : trapsTo (.brx ⟨false, 1, 1, 16, 8⟩) (codeS four) 0x02 4224 = true := by decide
theorem test_join_runs_pending : goes (.join y0) (codeS fun x => { four x with hdr := 4160, pc := 4168, em := 3, stack := [.diverge 4160 15 12 4112] }) (fun t =>
    (t.grp 0).pc == 4112 && (t.grp 0).em == 12 && (t.grp 0).stack == [.diverge 4160 15 0 4112]) = true := by decide
theorem test_join_reconverges : goes (.join y0) (codeS fun x => { four x with hdr := 4160, pc := 4168, em := 12, stack := [.diverge 4160 15 0 4112] }) (fun t =>
    (t.grp 0).pc == 4176 && (t.grp 0).em == 15 && (t.grp 0).stack == []) = true := by decide
theorem test_brx_regroup_parks : goes (.brxRegroup ⟨false, 1, 2, 8, 16⟩) (codeS four) (fun t =>
    (t.grp 0).st == .parked && tget (t.grp 0).target 0 0 == 4224 && tget (t.grp 0).target 0 2 == 4112) = true := by decide
theorem test_brx_regroup_needs_all_lanes : trapsTo (.brxRegroup ⟨false, 1, 2, 8, 16⟩) (codeS fun x => { four x with em := 7 }) 0x02 4224 = true := by decide
theorem test_call_enables_callers : goes (.call ⟨false, 1, 3, 0, 16⟩) (codeS four) (fun t =>
    (t.grp 0).pc == 4224 && (t.grp 0).em == 3 && (t.grp 0).stack == [.ret 4112 15]) = true := by decide
theorem test_call_at_depth_32 : trapsTo (.call ⟨false, 1, 3, 0, 16⟩) (codeS fun x => { four x with stack := List.replicate 32 (.ret 4112 15) }) 0x02 4224 = true := by
  decide
theorem test_ret : goes (.ret y0) (codeS fun x => { four x with em := 3, stack := [.ret 4224 15] }) (fun t =>
    (t.grp 0).pc == 4224 && (t.grp 0).em == 15 && (t.grp 0).stack == []) = true := by decide
theorem test_ret_on_empty_stack : trapsTo (.ret y0) (codeS four) 0x02 0 = true := by decide
theorem test_jmpi : goes (.jmpi ⟨0, 1, 0, false, 0x3FFFFFFF⟩) (codeS fun x => { x with sregs := [(1, 4232)] }) (fun t => (t.grp 0).pc == 4224) = true := by decide
theorem test_loop_counts : goes (.loop ⟨5, 5, 0, false, 16⟩) (codeS fun x => { x with sregs := [(5, 2)] }) (fun t =>
    (t.grp 0).pc == 4224 && readS t 0 5 == 1) = true := by decide
theorem test_loop_ends : goes (.loop ⟨5, 5, 0, false, 16⟩) (codeS fun x => { x with sregs := [(5, 1)] }) (fun t =>
    (t.grp 0).pc == 4112 && readS t 0 5 == 0) = true := by decide
theorem test_exit_some_lanes : goes (.exit { y0 with ps := 1 }) (codeS four) (fun t => (t.grp 0).live == 12 && (t.grp 0).em == 12) = true := by decide
theorem test_exit_all_lanes : goes (.exit y0) (codeS four) (fun t =>
    (t.grp 0).exiting && t.agenda == [.event (.groupExit 0 0)]) = true := by decide
theorem test_yield : goes (.yield y0) base (fun t => (t.grp 0).yielded == some (32, [])) = true := by decide
theorem test_emov_get : goes (.emovGet { y0 with s := 3 }) (grpS four) (fun t => readS t 0 3 == 15) = true := by decide
theorem test_emov_set_within_live : goes (.emovSet { y0 with s := 3, imm := 1 }) (grpS fun x => { four x with sregs := [(3, 0xF8)] }) (fun t => (t.grp 0).em == 8) = true := by
  decide
theorem test_emov_pred : goes (.emovPred { y0 with pn := true, ps := 1, imm := 2 }) (grpS four) (fun t => (t.grp 0).em == 12) = true := by decide
theorem test_emov_live : goes (.emovLive { y0 with s := 3, imm := 3 }) (grpS fun x => { four x with em := 1 }) (fun t => readS t 0 3 == 15) = true := by decide
theorem test_mpt_without_request : goes (.mpt y0) base (fun t => (t.grp 0).pc == 4112) = true := by decide

/-! ### Traps (13 R353 to R361) -/

theorem test_trap_saves : goes (.trap { y0 with imm := 5 }) (handled (grpS fun x => { four x with em := 7 })) (fun t =>
    let x := (t.grp 0).trap
    x.tcause == 0x0F && x.tpc == 4104 && x.thdr == 4096 && x.taddr == 5 && x.tlmask == 7 && x.tem == 7 && (t.grp 0).em == 15) = true := by decide
theorem test_trap_without_handler : aborts (.trap { y0 with imm := 5 }) (grpS four) = true := by decide
theorem test_trap_no_active_lane : goes (.trap { y0 with ps := 2, imm := 5 }) (grpS four) (fun t => (t.grp 0).pc == 4112) = true := by decide
theorem test_brk : trapsTo (.brk y0) (grpS four) 0x10 0 = true := by decide
theorem test_tret_in_program_mode : trapsTo (.tret y0) (grpS four) 0x03 0 = true := by decide
/-- 13 R357: at a header, and at the slot of a clause. -/
theorem test_tret_to_header : goes (.tret y0) (codeS fun x => { four x with em := 1, trap := { hmode := true, tpc := 4224, thdr := 4224, tem := 6 } }) (fun t =>
    (t.grp 0).pc == 4224 && (t.grp 0).em == 6 && !(t.grp 0).trap.hmode && (t.grp 0).clause == []) = true := by decide
theorem test_tret_to_slot : goes (.tret y0) (codeS fun x => { four x with trap := { hmode := true, tpc := 4232, thdr := 4224, tem := 6 } }) (fun t =>
    (t.grp 0).pc == 4232 && (t.grp 0).hdr == 4224 && (t.grp 0).clause == []) = true := by decide

/-! ### Memory access (08 R196 to R220) -/

/-- Lane 0 active, t1 maps 65536 on to 0x500000 on, 4096 bytes, with FEK. -/
def memS (vs : List (Nat × Word)) : State :=
  (laneS vs).modGrp 0 fun x => { x with
    tregs := tset x.tregs 1 { val := true, vbase := 65536, pbase := 0x500000, limit := 4096, wr := true, fek := true } }

/-- The next state after an instruction and then the reply of the group's oldest outstanding work. -/
def replied (i : Instr) (s : State) (reply : Instr) (p : State → Bool) : Bool := goes i s fun t => goes reply t p

def ldW (t ss : BitVec 3) (fe : BitVec 2) : FmtM := ⟨false, 0, 4, 240, t, 2, fe, 2, ss.setWidth 2, 0, 0, false, 16⟩
def loads : Instr := .loadDataReturn 0 0 0
def acks : Instr := .storeAck 0 0 0

theorem test_ld_zero_extends : replied (.ld { ldW 0 0 0 with sz := 0 }) (storeWrite (memS []) 0 16 4 0x8899AABB) loads
    (fun t => readV t 0 [] 4 0 == 0xBB) = true := by decide
theorem test_ld_global : replied (.ld (ldW 1 1 0)) (poke (memS []) 0x500010 4 0x12345678) loads (fun t => readV t 0 [] 4 0 == 0x12345678) = true := by decide
theorem test_ld_misaligned : trapsTo (.ld { ldW 0 0 0 with imm := 18 }) (memS []) 0x05 18 = true := by decide
theorem test_ld_scaled_offset_beyond_limit : trapsTo (.ld { ldW 0 0 0 with a := 6, sc := 3 }) (memS [(6, 1790)]) 0x06 14336 = true := by decide
theorem test_ld_take_empties : replied (.ld (ldW 1 1 2)) (poke (memS []) 0x500010 4 7) loads
    (fun t => readV t 0 [] 4 0 == 7 && !isFull t (.mem 0x500010)) = true := by decide
theorem test_ld_wait_parks_on_empty : goes (.ld (ldW 0 0 1)) (setFE (memS []) (.store 0 16) false)
    (fun t => (t.grp 0).st == .parked && t.headland.map (fun w => (w.obj, w.who, w.fe)) == [(.store 0 16, .group 0 0, 1)]) = true := by decide
theorem test_st_low_bytes : goes (.st { ldW 0 0 0 with sz := 1 }) (memS [(4, 0x8899AABB)])
    (fun t => storeRead t 0 16 4 == 0xAABB && (t.grp 0).pend.map (·.kind) == [.store]) = true := by decide
theorem test_st_fill_wakes_taker : goes (.st (ldW 0 0 3)) { setFE (memS [(4, 5)]) (.store 0 16) false with headland := [⟨.store 0 16, .group 1 0, 2, 1⟩] }
    (fun t => isFull t (.store 0 16) && t.headland == [] && storeRead t 0 16 4 == 5) = true := by decide
/-- The kernel's record 0: log16 in memory from 65536 on, log32 in registers (11 R293, R294, R297). -/
def recordS (vs : List (Nat × Word)) : State :=
  (memS vs).modLaunch 0 fun x => { x with records := [[65536, 0x620000001000, 0, 0, 0]] }
theorem test_ldc_widens : replied (.ldc (ldW 1 1 0)) (poke (recordS []) 0x500010 4 0x99990200) loads
    (fun t => readV t 0 [] 4 0 == 0x00400000) = true := by decide
theorem test_ldc_record_beyond_count : trapsTo (.ldc { ldW 1 1 0 with br := 1 }) (recordS []) 0x06 65552 = true := by decide
theorem test_stc_narrows : goes (.stc (ldW 1 1 0)) (recordS [(4, 0x00400000)])
    (fun t => (homeRead t 0 0x500010 4 0).2 == 0x0200) = true := by decide
theorem test_fest_empty : goes (.festEmpty { ldW 1 1 2 with d := 0 }) (memS []) (fun t => !isFull t (.mem 0x500010)) = true := by decide
theorem test_fest_full : goes (.festFull { ldW 0 0 3 with d := 0 }) (setFE (memS []) (.store 0 16) false) (fun t => isFull t (.store 0 16)) = true := by decide
theorem test_feq_asks : replied (.feq { ldW 0 0 0 with d := 3 }) (setFE (memS []) (.store 0 16) false) loads
    (fun t => (predOf (t.grp 0) 3).getLsbD 0 == false) = true := by decide
theorem test_pf_completes : goes (.pf { ldW 1 1 0 with d := 0, sz := 0 }) (memS []) (fun t => (t.grp 0).retc == 1) = true := by decide
theorem test_dsc_completes : goes (.dsc { ldW 1 1 0 with d := 0, sz := 0, as := 0 }) (memS []) (fun t => (t.grp 0).seq == 1) = true := by decide
theorem test_wbk_completes : goes (.wbk { ldW 1 1 0 with d := 0, sz := 0 }) (memS []) (fun t => (t.grp 0).seq == 1) = true := by decide
theorem test_linv_completes : goes (.linv { ldW 1 1 0 with d := 0, sz := 0, as := 0 }) (memS []) (fun t => (t.grp 0).retc == 1) = true := by decide

/-! ### Atomics (09 R238 to R245) -/

def atomA (ty : Ty) (c : BitVec 8) : FmtA := ⟨false, 0, 4, 240, 6, c, 0, 0, 0, false, ty⟩

/-- An atomic on the store word at 0, which holds v, with operand b and comparand c: the word and the returned value. -/
def atomic (i : Instr) (v : Nat) (b c : Word) (word : Nat) (back : Word) : Bool :=
  replied i (storeWrite (memS [(6, b), (7, c)]) 0 0 4 v) (.atomicReturn 0 0 0) fun t =>
    storeRead t 0 0 4 == word && readV t 0 [] 4 0 == back

theorem test_aadd_wraps : atomic (.aadd (atomA .i32 0)) 0xFFFFFFFF 2 0 1 0xFFFFFFFF = true := by decide
theorem test_amin_signed : atomic (.amin (atomA .i32 0)) 1 0xFFFFFFFF 0 0xFFFFFFFF 1 = true := by decide
theorem test_amax_unsigned : atomic (.amax (atomA .n32 0)) 1 0xFFFFFFFF 0 0xFFFFFFFF 1 = true := by decide
theorem test_aand : atomic (.aand (atomA .n32 0)) 12 10 0 8 12 = true := by decide
theorem test_aor : atomic (.aor (atomA .n32 0)) 12 10 0 14 12 = true := by decide
theorem test_axor : atomic (.axor (atomA .n32 0)) 12 10 0 6 12 = true := by decide
theorem test_axchg : atomic (.axchg (atomA .n32 0)) 12 10 0 10 12 = true := by decide
theorem test_acas_equal : atomic (.acas (atomA .i32 7)) 12 10 12 10 12 = true := by decide
theorem test_acas_unequal : atomic (.acas (atomA .i32 7)) 12 10 13 12 12 = true := by decide
theorem test_adecp_at_zero : atomic (.adecp { atomA .i32 0 with b := 0 }) 0 0 0 0 0 = true := by decide
theorem test_adecp_positive : atomic (.adecp { atomA .i32 0 with b := 0 }) 3 0 0 2 3 = true := by decide
theorem test_afmax_of_magnitudes : atomic (.afmax (atomA .l32 1)) 0x00400000 0x80800000 0 0x00800000 0x00400000 = true := by decide
theorem test_ladda_doubles : atomic (.ladda (atomA .l32 0)) 0 0 0 0x00400000 0 = true := by decide
/-- 09 R241: lanes in home-lane order, each finding what the one before left. -/
theorem test_aadd_lane_order : goes (.aadd (atomA .i32 0))
    (grpS fun x => { x with em := 3, live := 3, window := [⟨0, false, [⟨6, 0, 5⟩, ⟨6, 1, 7⟩]⟩] })
    (fun t => storeRead t 0 0 4 == 12 && (t.grp 0).pend.map (·.vregs) == [[⟨4, 0, 0⟩, ⟨4, 1, 5⟩]]) = true := by decide

/-! ### Fences, barriers, monitors and tasks (10 R265 to R270, 12 R324 to R338) -/

/-- A team with 64 bytes of scratchpad; s4 names the object at 16, s3 holds a. -/
def barS (a : DWord) (b : BarObj) : State :=
  barWrite ((grpS fun x => { x with sregs := [(3, a), (4, 16)] }).modTeam 0 fun t => { t with scr := 64 }) 0 16 b

def objAt (t : State) (b : BarObj) : Bool := barRead t 0 16 == b
def answer (t : State) (d : Nat) (v : DWord) : Bool := goes (.atomicReturn 0 0 0) t fun u => readS u 0 d == v
def answerP (t : State) (d : Nat) (b : Bool) : Bool :=
  goes (.atomicReturn 0 0 0) t fun u => predOf (u.grp 0) d == if b then 0xFFFF else 0
def yB (d a b : BitVec 8) (imm : BitVec 13) : FmtY := ⟨false, 0, d, a, b, 0, 4, imm⟩

theorem test_fence_waits_for_stores : goes (.fence { y0 with imm := 9 }) (grpS fun x => { x with seq := 1, pend := [{ kind := .store }] })
    (fun t => (t.grp 0).pend.map (·.kind) == [.store, .fence]) = true := by decide
theorem test_fence_sc_takes_a_ticket : goes (.fenceSc { y0 with imm := 0x1A }) base (fun t => t.tickets == 1 && (t.grp 0).retc == 1) = true := by decide
theorem test_bara_init : goes (.baraInit (yB 0 0 0 10)) (barS 0 ⟨0, 0, 0, 0, 0, 0, false⟩) (fun t => objAt t ⟨0, 3, 0, 0, 0, 0, true⟩) = true := by decide
theorem test_bara_init_other_count : trapsTo (.baraInit (yB 0 0 0 10)) (barS 0 ⟨0, 2, 0, 0, 0, 0, true⟩) 0x06 16 = true := by decide
theorem test_bara_free : goes (.baraFree (yB 0 0 0 3)) (barS 0 ⟨7, 2, 1, 0, 0, 0, true⟩) (fun t => objAt t ⟨0, 0, 0, 0, 0, 0, false⟩) = true := by decide
theorem test_bara_arr_counts : goes (.baraArr (yB 5 0 0 0)) (barS 0 ⟨7, 3, 1, 0, 0, 1, true⟩)
    (fun t => objAt t ⟨7, 3, 2, 0, 0, 1, true⟩ && answer t 5 7) = true := by decide
theorem test_bara_arr_completes : goes (.baraArr (yB 5 0 0 0)) (barS 0 ⟨65535, 2, 1, 0, 0, 0, true⟩) (fun t => objAt t ⟨0, 2, 0, 0, 0, 0, true⟩) = true := by
  decide
theorem test_bara_arr_refused_while_observed : goes (.baraArr (yB 5 0 0 0)) (barS 0 ⟨7, 2, 0, 1, 0, 0, true⟩)
    (fun t => objAt t ⟨7, 2, 0, 1, 1, 0, true⟩ && (t.grp 0).st == .parked) = true := by decide
theorem test_bara_drop_completes : goes (.baraDrop (yB 5 0 0 1)) (barS 0 ⟨7, 3, 2, 0, 0, 0, true⟩) (fun t => objAt t ⟨8, 2, 0, 0, 0, 0, true⟩) = true := by
  decide
theorem test_barw_passes : goes (.barw (yB 0 3 0 0)) (barS 6 ⟨7, 2, 0, 0, 0, 0, true⟩) (fun t => (t.grp 0).retc == 1) = true := by decide
theorem test_barw_parks : goes (.barw (yB 0 3 0 0)) (barS 7 ⟨7, 2, 1, 0, 0, 0, true⟩)
    (fun t => objAt t ⟨7, 2, 1, 0, 0, 1, true⟩ && (t.grp 0).st == .parked) = true := by decide
theorem test_bart_arr_refused : goes (.bartArr (yB 5 0 2 0)) (barS 0 ⟨7, 2, 0, 1, 0, 0, true⟩)
    (fun t => objAt t ⟨7, 2, 0, 1, 0, 0, true⟩ && answerP t 2 false) = true := by decide
theorem test_bart_test : goes (.bartTest (yB 0 3 2 1)) (barS 6 ⟨7, 2, 0, 0, 0, 0, true⟩) (fun t => answerP t 2 true) = true := by decide
theorem test_bar_misaligned : trapsTo (.barw (yB 0 3 0 0)) ((barS 6 ⟨7, 2, 0, 0, 0, 0, true⟩).modGrp 0 fun x => { x with sregs := [(4, 8)] }) 0x05 8 = true := by decide
theorem test_sst_clobbers_object : trapsTo (.sst ⟨0, 4, 3, false, 8⟩) (barS 0 ⟨7, 2, 0, 0, 0, 0, true⟩) 0x09 24 = true := by decide

/-- A context with grid barriers; counter 1 as given; s3 holds a. -/
def gridS (a : DWord) (q : GCtr) : State :=
  let s := grpS fun x => { x with sregs := [(3, a)] }
  s.setCtx 0 { s.ctx 0 with bar := true, gctrs := [(1, q)], tvec := 8192 }

/-- A `gbar` and then the command processor's answer. -/
def asked (i : Instr) (s : State) (p : State → Bool) : Bool := goes i s fun t => goes .gridBarrierRequest t p
def ctr (t : State) (q : GCtr) : Bool := tget (t.ctx 0).gctrs {} 1 == q

theorem test_gbar_init : asked (.gbarInit { y0 with idx := 1, s := 3, imm := 3 }) (gridS 5 { ph := 9, arr := 2 }) (fun t => ctr t { exp := 5 }) = true := by decide
theorem test_gbar_arr_last : asked (.gbarArr { y0 with d := 5, idx := 1 }) (gridS 0 { ph := 9, exp := 2, arr := 1 })
    (fun t => ctr t { ph := 10, exp := 2 } && answer t 5 9) = true := by decide
theorem test_gbar_ntf_owes_a_message : asked (.gbarNtf { y0 with d := 5, idx := 1, imm := 2 }) (gridS 0 { ph := 9, exp := 2 })
    (fun t => ctr t { ph := 9, exp := 2, arr := 1, owed := [0] }) = true := by decide
theorem test_gbar_wait_parks : asked (.gbarWait { y0 with a := 3, idx := 1, imm := 1 }) (gridS 9 { ph := 9, exp := 2 })
    (fun t => ctr t { ph := 9, exp := 2, waiters := [0] } && (t.grp 0).st == .parked) = true := by decide
theorem test_gbar_without_bar : trapsTo (.gbarArr { y0 with d := 5, idx := 1 }) base 0x06 1 = true := by decide
theorem test_gbar_init_zero : asked (.gbarInit { y0 with idx := 1, s := 3, imm := 3 }) (gridS 0 {}) (fun t => (t.grp 0).trap.tcause == 6) = true := by decide

/-- s4 names the window word at 32, which holds v; s3 holds x. -/
def watchS (v : Nat) (x : DWord) : State := storeWrite (grpS fun y => { y with sregs := [(3, x), (4, 32)] }) 0 32 4 v
def yW (d a : BitVec 8) (imm : BitVec 13) : FmtY := ⟨false, 0, d, a, 0, 0, 4, imm⟩
def armedS : State := { watchS 7 7 with monitors := [⟨1, 0, 0, .store 0 32, 7, 2, false, 0⟩, ⟨1, 1, 0, .store 0 32, 7, 2, false, 0⟩] }

theorem test_waitv_arms : goes (.waitv (yW 2 3 2)) (watchS 7 7) (fun t => t.monitors == [⟨0, 0, 0, .store 0 32, 7, 2, false, 0⟩] && (t.grp 0).st == .parked) = true := by
  decide
theorem test_waitv_other_value : goes (.waitv (yW 2 3 2)) (watchS 8 7) (fun t => t.monitors == [] && answerP t 2 false) = true := by decide
theorem test_waitv_at_quota : goes (.waitv (yW 2 3 2)) (let s := watchS 7 7; s.setCtx 0 { s.ctx 0 with monquota := 0 }) (fun t => answerP t 2 true) = true := by decide
theorem test_wake_one_fires_oldest : goes (.wakeOne (yW 5 0 2)) armedS (fun t => t.monitors.map (·.fired) == [true, false] && answer t 5 1) = true := by decide
theorem test_wake_all : goes (.wakeAll (yW 5 0 18)) armedS (fun t => t.monitors.map (·.fired) == [true, true] && answer t 5 2) = true := by decide
theorem test_store_fires_monitor : goes (.st { ldW 0 0 0 with imm := 32 })
    ({ memS [(4, 9)] with monitors := [⟨1, 0, 0, .store 0 32, 7, 2, false, 0⟩] }) (fun t => t.monitors.map (·.fired) == [true]) = true := by decide
theorem test_monitor_fire : goes (.monitorFire 0) ({ grpS (fun x => { x with st := .parked, preds := [(2, 0xFFFF)], park := some { cause := .monitor, mask := 1, pc := 4104 } }) with
    monitors := [⟨0, 0, 0, .store 0 32, 7, 2, true, 0⟩] }) (fun t => t.monitors == [] && predOf (t.grp 0) 2 == 0 && (t.grp 0).park.any (·.woken)) = true := by decide
theorem test_tdec_posts : goes (.tdec { y0 with s := 4, imm := 4 }) (grpS fun x => { x with sregs := [(4, 128)] })
    (fun t => t.decs == [{ ctx := 0, rec_ := 128, n := 5, src := some 0, grp := some (0, 0) }]) = true := by decide
theorem test_tdec_misaligned : trapsTo (.tdec { y0 with s := 4 }) (grpS fun x => { x with sregs := [(4, 32)] }) 0x05 32 = true := by decide
theorem test_tspn_posts : goes (.tspn { y0 with s := 4 }) (grpS fun x => { x with sregs := [(4, 128)] })
    (fun t => t.decs.map (·.spawn) == [true] && t.agenda == [.event .taskDecrement]) = true := by decide
def gangS : State := base.modLaunch 0 fun x => { x with dw := [2] }
theorem test_tend_clu_completes_alone : goes (.tendClu { y0 with d := 3 }) gangS (fun t => tget (t.launch 0).phaseClu 0 0 == 1 && (t.team 0).wide == none) = true := by decide
theorem test_tend_dev_parks : goes (.tendDev { y0 with d := 3, imm := 1 }) (gangS.modTeam 0 fun t => { t with slots := [0, 1] } )
    (fun t => (t.grp 0).st == .parked) = true := by decide
theorem test_tend_outside_gang : trapsTo (.tendDev { y0 with d := 3, imm := 1 }) base 0x06 0 = true := by decide

/-! ### The matrix array (07 R168 to R192) -/

def xF (d : BitVec 8) (fmt : BitVec 4) (s : BitVec 7) (fn : BitVec 8) : FmtX := ⟨false, 0, d, 0, 0, fmt, s, 0, fn⟩

/-- The accumulator of D + n in lane 0, once the chain that the clause's end closes is written back (07 R173). -/
def wroteAcc (t : State) (n : Nat) (v : Word) : Bool := goes (.matrixWriteBack 0) t fun u => readV u 0 [] (64 + n) 0 == v

theorem test_mclr_sets_zero : goes (.mclr (xF 64 0 0 0)) (laneS []) (fun t => wroteAcc t 63 0x40000000) = true := by decide
theorem test_mscl_by_lane : goes (.mscl { xF 64 0 0 1 with a := 2 }) (laneS [(2, 0x00400000)]) (fun t => wroteAcc t 5 0x00400000) = true := by decide
set_option maxRecDepth 200000 in
theorem test_mldb_loading : goes (.mldb (xF 0 0 4 0)) (grpS fun x => { x with sregs := [(4, 16)] }) (fun t => tileState t 0 0 == .loading) = true := by decide
theorem test_mldb_complete : goes (.mldbComplete 0 0 0)
    ((grpS fun x => { x with pend := [{ kind := .mldb, ready := false, aux := 0, aux2 := 1 }] }).modCore 0 fun k => { k with tileSt := [(0, .loading)] })
    (fun t => tileState t 0 0 == .ready && (t.grp 0).pend == [] && (t.grp 0).retc == 1) = true := by decide
theorem test_mldb_misaligned : trapsTo (.mldb (xF 0 0 4 0)) (grpS fun x => { x with sregs := [(4, 8)] }) 0x05 8 = true := by decide
theorem test_mstat_flags : goes (.mstatFlags (xF 0 0 3 0)) (grpS fun x => { x with mxst := 5 }) (fun t => goes (.matrixWriteBack 0) t fun u => readS u 0 3 == 5) = true := by
  decide
theorem test_mstat_clr : goes (.mstatClr (xF 0 0 3 1)) (grpS fun x => { x with mxst := 5 }) (fun t => (t.grp 0).mxst == 0) = true := by decide
theorem test_mstat_tile_ready : goes (.mstatTile (xF 0 0 3 2)) base (fun t => goes (.matrixWriteBack 0) t fun u => readS u 0 3 == 1) = true := by decide
theorem test_mstat_eu : goes (.mstatEu (xF 0 0 3 3)) (grpS fun x => { x with charge := 99 }) (fun t => goes (.matrixWriteBack 0) t fun u => readS u 0 3 == 99) = true := by
  decide
/-- Every code is 0, the value 1: the sum of 16 products is 16, L = 4 × 2^22 (07 R179, R180). -/
theorem test_mmls_sixteen_ones : goes (.mmls (xF 64 2 127 0)) (laneS []) (fun t =>
    (t.core 0).latch.any fun l => l.vals.contains (0, 63, 0x01000000)) = true := by decide
/-- With A all zeros nothing is added; four busy cycles of 64 units and a row without density are charged (07 R184, R185). -/
theorem test_mmla_of_zeros : goes (.mmla (xF 64 2 127 0)) (laneS ((List.range 8).map fun r => (r, 0x40004000)))
    (fun t => wroteAcc t 63 0 && (t.grp 0).charge == 256) = true := by decide
theorem test_mmla_waits_for_tile : goes (.mmla (xF 64 2 127 0)) ((laneS []).modCore 0 fun k => { k with tileSt := [(0, .loading)] }) (fun t => (t.grp 0).st == .held) = true := by
  decide

/-! ### The copy unit (11 R272 to R305) -/

/-- A block between two inline ends of the window, 64 to 128 (11 R275): FEM 3, raw elements of 4 bytes; nrow, ncol, strides of both ends. -/
def block (xf senc denc nrow ncol stride : Nat) : List DWord :=
  [BitVec.ofNat 64 (xf * 2 ^ 61 + 2 ^ 60 + 2 ^ 59 + 2 ^ 57 + 2 ^ 55 + 3 * 2 ^ 53 + senc * 2 ^ 29 + denc * 2 ^ 24 + 2 ^ 23), 64, 128,
    BitVec.ofNat 64 (nrow * 2 ^ 48 + ncol * 2 ^ 28), BitVec.ofNat 64 (stride * 2 ^ 32 + stride), 0, 0, 0, 0, 0, 0, 0, 0, 0, 0, 0]

def cmd (b : List DWord) : Cmd :=
  { q := 1, ctx := 0, launch := 0, team := 0, slot := 0, seq := 0, addr := none, block := b, started := true, region := some (0, 0) }

/-- A running command of queue 1 on core 0. -/
def copyS (c : Cmd) : State := (paged base).modCore 0 fun k => { k with cmds := [c] }

def ended (t : State) (st : Nat) : Bool := (t.core 0).cmds.map (fun c => (c.st, c.ending)) == [(st, true)]
def cF (sa : BitVec 7) (cnt : BitVec 8) (imm : BitVec 32) : FmtC := ⟨sa, 1, cnt, imm⟩
def s6 (v : DWord) : State := paged (grpS fun x => { x with sregs := [(6, v)] })

theorem test_cpq_takes_entries : goes (.cpq (cF 6 2 0)) (s6 512) (fun t =>
    (t.core 0).cmds.map (·.addr) == [some 512, some 640] && (t.team 0).cmdsOut == 2 && t.agenda == [.event (.commandAccept 0)]) = true := by decide
theorem test_cpq_misaligned : trapsTo (.cpq (cF 6 1 0)) (s6 64) 0x05 64 = true := by decide
theorem test_cpi_keeps_k : goes (.cpi (cF 6 0 7)) (s6 512) (fun t => (t.core 0).cmds.map (·.k) == [7]) = true := by decide
theorem test_cpl_levels : goes (.cpl (cF 6 0 0)) (copyS (cmd [])) (fun t => readS t 0 6 == 47 + 256 + 65536) = true := by decide
theorem test_cps_reads_and_clears : goes (.cps (cF 6 1 0)) (grpS fun x => { x with cqst := [(1, 5)] })
    (fun t => readS t 0 6 == 5 && tget (t.grp 0).cqst 0 1 == 0) = true := by decide
theorem test_cpc_by_tag : goes (.cpc { cF 0 0 5 with qn := 1 }) (copyS (cmd [5])) (fun t => (t.core 0).cmds.map (·.cancel) == [true]) = true := by decide
theorem test_cpf_when_idle : goes (.cpf (cF 6 0 0)) (grpS fun x => { x with cpFail := [(1, 3)] }) (fun t => answer t 6 3) = true := by decide
theorem test_cpf_waits : goes (.cpf (cF 6 0 0)) (copyS (cmd [])) (fun t => (t.grp 0).pend.map (·.ready) == [false]) = true := by decide
theorem test_command_accept : goes (.commandAccept 0) (poke (copyS { cmd [] with started := false, addr := some 512, region := none }) 0x400200 8 0x3AE0000000800000)
    (fun t => (t.core 0).cmds.map (fun c => (c.started, c.st, c.fc)) == [(true, 4, 3)]) = true := by decide
theorem test_pushed_command : goes (.pushedCommand 0) (copyS { cmd (block 0 0 0 1 1 0) with started := false, region := none })
    (fun t => (t.core 0).cmds.map (·.started) == [true] && t.agenda == [.event (.copy 0 1)]) = true := by decide
theorem test_copy : goes (.copy 0 1) (storeWrite (copyS (cmd (block 0 0 0 1 2 0))) 0 64 8 0x1122334455667788)
    (fun t => storeRead t 0 128 8 == 0x1122334455667788 && ended t 3) = true := by decide
theorem test_copy_beyond_window : goes (.copy 0 1) (copyS (cmd ((block 0 0 0 1 1 0).set 1 14336))) (fun t =>
    (t.core 0).cmds.map (fun c => (c.st, c.fc, c.faddr)) == [(4, 1, 14336)]) = true := by decide
theorem test_convert_log16_to_log32 : goes (.convert 0 1) (storeWrite (copyS (cmd (block 1 2 3 1 1 0))) 0 64 2 0x0200)
    (fun t => storeRead t 0 128 4 == 0x00400000 && ended t 3) = true := by decide
/-- 11 R281 with 32 ones: E1 = −7, E0 = −15, every element SEL 1 with M = 56. -/
theorem test_quantise_ones : goes (.quantise 0 1) (copyS (cmd (block 2 2 4 1 32 0)))
    (fun t => storeRead t 0 128 4 == 0xF1F90000 && storeRead t 0 132 1 == 0x78 && storeRead t 0 163 1 == 0x78 && ended t 3) = true := by decide
theorem test_transpose : goes (.tileTranspose 0 1) (storeWrite (copyS (cmd (block 3 0 0 2 2 8))) 0 68 8 0x0000000300000002)
    (fun t => storeRead t 0 132 4 == 3 && storeRead t 0 136 4 == 2 && ended t 3) = true := by decide
/-- The index list at address 0 names row 1. -/
theorem test_gather : goes (.gather 0 1) (poke (storeWrite (copyS (cmd (block 4 3 3 1 1 8))) 0 72 4 7) 0x400000 4 1)
    (fun t => storeRead t 0 128 4 == 7 && ended t 3) = true := by decide
theorem test_scatter : goes (.scatter 0 1) (poke (storeWrite (copyS (cmd (block 5 3 3 1 1 8))) 0 64 4 7) 0x400000 4 1)
    (fun t => storeRead t 0 136 4 == 7 && ended t 3) = true := by decide
theorem test_fold_max : goes (.foldMax 0 1)
    (storeWrite (copyS (cmd ((block 6 2 0 1 2 0).set 0 0xD200000040000000))) 0 64 4 0x60008200)
    (fun t => (homeRead t 0 0x400000 4 0).2 == 0x00400000 && ended t 3) = true := by decide
theorem test_command_end : goes (.commandEnd 0 1) ((copyS { cmd (block 0 0 0 1 1 0) with ending := true, st := 3, flg := 2 }).modTeam 0 fun t => { t with cmdsOut := 1 })
    (fun t => (t.core 0).cmds == [] && tget (t.grp 0).cqst 0 1 == 2 && (t.team 0).cmdsOut == 0) = true := by decide
theorem test_completion_fill : goes (.engineCompletionFill 0 1)
    (setFE (copyS { cmd [0x200000 + 0x100000, 0, 0, 0, 0, 0, 32, 0x8000000500000000] with ending := true, st := 4, fillAt := some (.store 0 32), stage := 3 }) (.store 0 32) false)
    (fun t => isFull t (.store 0 32) && storeRead t 0 32 4 == 5) = true := by decide
theorem test_chain_next_block : goes (.chainNextBlock 0 1)
    (poke (copyS { cmd [0, 0, 0, 0, 0, 0, 0, 0, 0, 0, 0, 512] with stage := 5, ending := true, st := 3 }) 0x400200 8 0x80000)
    (fun t => (t.core 0).cmds.map (fun c => (c.addr, c.links, c.fc)) == [(some 512, 2, 3)]) = true := by decide

/-! ### System instructions (03 R83, 13 R341, R342, R362, R363, 15 R396, R401, 16 R413, R414) -/

def yS (d : BitVec 8) (idx : BitVec 8) (s : BitVec 7) (imm : BitVec 13) : FmtY := ⟨false, 0, d, 0, 0, idx, s, imm⟩

theorem test_tlr_loads : goes (.tlr (yS 5 1 4 1)) (paged (grpS fun x => { x with sregs := [(4, 0x10000)] })) (fun t =>
    let r := tget (t.grp 0).tregs {} 1
    r.val && r.vbase == 0x10000 && r.pbase == 0x410000 && r.wr && readS t 0 5 == BitVec.ofNat 64 r.limit && r.limit == 0x1F0000) = true := by decide
theorem test_tlr_absent_page_parks : goes (.tlr (yS 5 1 4 0)) (paged (grpS fun x => { x with sregs := [(4, 0x200000)] }))
    (fun t => (t.grp 0).st == .parked && t.faults.map (·.page) == [32]) = true := by decide
theorem test_tlr_beyond_address_space : trapsTo (.tlr (yS 5 1 4 0)) (grpS fun x => { x with sregs := [(4, 0x200000000000000)] }) 0x06 0x200000000000000 = true := by
  decide
theorem test_tlc : goes (.tlc (yS 0 1 0 0)) (memS []) (fun t => !(tget (t.grp 0).tregs {} 1).val) = true := by decide
theorem test_srd_feretry : goes (.srd (yS 0 4 3 0)) base (fun t => readS t 0 3 == 1024) = true := by decide
theorem test_srd_cyc_in_det_launch : goes (.srd (yS 0 0x21 3 0)) ((grpS fun x => { x with retc := 7 }).modLaunch 0 fun x => { x with det := true })
    (fun t => readS t 0 3 == 7) = true := by decide
theorem test_swr_lstat : goes (.swr (yS 0 8 3 0)) (grpS fun x => { x with sregs := [(3, 0xFA)] }) (fun t => (t.grp 0).lstat == 0xA) = true := by decide
theorem test_swr_tpc_needs_handler_mode : trapsTo (.swr (yS 0 0x11 3 0)) base 0x03 0 = true := by decide
theorem test_swr_tpc_in_handler_mode : goes (.swr (yS 0 0x11 3 0)) (grpS fun x => { x with sregs := [(3, 0xFFFFFFFFFFFFFFFF)], trap := { hmode := true } })
    (fun t => (t.grp 0).trap.tpc == 0x1FFFFFFFFFFFFFF) = true := by decide
theorem test_feat_word_2 : goes (.feat (yS 0 2 3 0)) base (fun t => readS t 0 3 == 0x00000001007F007F) = true := by decide
theorem test_feat_word_3 : goes (.feat (yS 0 3 3 0)) base (fun t => readS t 0 3 == 0x5C4246323828 * 65536 + 0x2A1E) = true := by decide
theorem test_msg_writes_record : goes (.msg { yS 5 0 0 7 with a := 6 }) ((grpS fun x => { x with sregs := [(6, 0x99)] }).setCtx 0 { base.ctx 0 with eqbase := 0x800000 })
    (fun t => (t.ctx 0).eqtail == 1 && (t.ctx 0).eqseq == 2 && answer t 5 1) = true := by decide
theorem test_rdc_cycles : goes (.rdc (yS 0 0 3 0)) (base.modCore 0 fun k => { k with cyc := 41 }) (fun t => readS t 0 3 == 41) = true := by decide
theorem test_lease_granted : goes (.lease (yS 5 0 4 0)) (grpS fun x => { x with sregs := [(4, 9)] }) (fun t => answer t 5 9 && leaseLeft t 0 0 == 9) = true := by decide
theorem test_lease_cut_to_limit : goes (.lease (yS 5 0 4 0)) (grpS fun x => { x with sregs := [(4, 99)] }) (fun t => answer t 5 (0x10000 + 16)) = true := by decide
theorem test_lease_of_zero : goes (.lease (yS 5 0 4 0)) base (fun t => answer t 5 0x70000) = true := by decide
theorem test_lrel : goes (.lrel (yS 5 0 0 0)) (base.modCluster 0 fun k => { k with leases := [⟨0, 4, true⟩] }) (fun t => answer t 5 4 && leaseLeft t 0 0 == 0) = true := by decide
theorem test_slp_iv_parks : goes (.slpIv (yS 0 0 4 0)) (grpS fun x => { x with sregs := [(4, 300)] }) (fun t =>
    (t.grp 0).park.map (·.cause) == some (.sleep 255 false)) = true := by decide
theorem test_slp_ntc_of_zero : goes (.slpNtc (yS 0 0 4 1)) base (fun t => (t.grp 0).pc == 4112) = true := by decide
theorem test_sleep_wake : goes (.sleepWake 0 0) (grpS fun x => { x with st := .parked, park := some { cause := .sleep 0 false, mask := 1, pc := 4104 } })
    (fun t => (t.grp 0).park.any (·.woken)) = true := by decide

/-! ### Events of groups and teams (01 R20, R25, 03 R68 to R92, 08 R206) -/

def parkedS (r : ParkRec) : State := grpS fun x => { x with st := .parked, park := some r }

theorem test_store_ack : goes (.storeAck 0 0 0) (grpS fun x => { x with pend := [{ kind := .store }] }) (fun t => (t.grp 0).pend == [] && (t.grp 0).retc == 1) = true := by decide
theorem test_queue_pop_delivery : goes (.queuePopDelivery 0 0 0) (grpS fun x => { x with pend := [{ kind := .pop, vregs := [⟨5, 0, 9⟩] }] })
    (fun t => readV t 0 [] 5 0 == 9) = true := by decide
theorem test_pop_takes_head : goes (.mov (v32 5 228 0 0 .b32 0)) ((laneS []).modGrp 0 fun x => { x with q := { q4 := [[7], [8]] } })
    (fun t => (t.grp 0).q.q4 == [[8]] && goes (.queuePopDelivery 0 0 0) t fun u => readV u 0 [] 5 0 == 7) = true := by decide
theorem test_push_to_q15 : goes (.mov (v32 239 6 0 0 .b32 0)) (laneS [(6, 9)]) (fun t => (t.grp 0).q.q15out.map (·.take 2) == [[9, 0]]) = true := by decide
theorem test_group_exit_frees_and_retires : goes (.groupExit 0 0) (grpS fun x => { x with exiting := true, live := 0 })
    (fun t => t.grp 0 == {} && t.agenda == [.event (.teamRetire 0)]) = true := by decide
theorem test_group_exit_waits : goes (.groupExit 0 0) (grpS fun x => { x with exiting := true, pend := [{ kind := .store }] }) (fun t => (t.grp 0).exiting) = true := by
  decide
theorem test_group_select_one : goes (.groupSelect 0) (base.modCore 0 fun k => { k with cyc := 5 })
    (fun t => (t.core 0).cyc == 6 && (t.core 0).grants == (1, 2, 1)) = true := by decide
theorem test_group_select_disabled : goes (.groupSelect 15) base (fun t => t == base) = true := by decide
theorem test_rail_stop_end : goes (.railStopEnd 0) (base.modCore 0 fun k => { k with railStop := some true }) (fun t => (t.core 0).railStop == none) = true := by decide
theorem test_continuation_admit : goes (.continuationAdmit 0)
    ((parkedS { cause := .feStore 0 16 1, mask := 1, pc := 4104, woken := true }).modCluster 0 fun k => { k with furrow := [⟨2, .cont 0 0, 0⟩] })
    (fun t => (t.grp 0).st == .eligible && (t.grp 0).redo.isSome && (t.cluster 0).furrow == []) = true := by decide
theorem test_fe_budget_traps : goes (.feBudget 0 0)
    (handled (let s := parkedS { cause := .feStore 0 16 1, mask := 1, pc := 4104, futile := 1024, lead := 16 }; { s with headland := [⟨.store 0 16, .group 0 0, 1, 1⟩] }))
    (fun t => (t.grp 0).trap.tcause == 7 && (t.grp 0).trap.taddr == 16 && t.headland == []) = true := by decide
theorem test_fe_budget_below_limit : goes (.feBudget 0 0) (handled (parkedS { cause := .feStore 0 16 1, mask := 1, pc := 4104, futile := 1023 }))
    (fun t => (t.grp 0).st == .parked) = true := by decide
theorem test_regroup_rendezvous : goes (.regroupRendezvous 0) (grpS fun x => { x with
      st := .parked, em := 3, live := 3, target := [(0, 4224), (1, 4112)], park := some { cause := .regroup, mask := 3, pc := 4104 } })
    (fun t => (t.grp 0).pc == 4112 && (t.grp 0).live == 2 && (t.grp 0).origin == [(1, 0)] && (t.team 0).rgThreads.length == 1) = true := by decide
theorem test_regroup_rejoin : goes (.regroupRejoin 0)
    ((grpS fun x => { x with st := .parked, live := 1, origin := [(0, 0)], park := some { cause := .rejoin, mask := 1, pc := 4104 } }).modTeam 0 fun t =>
      { t with rgOrigins := [(0, { base.grp 0 with sregs := [(3, 8)] })], rgJoin := 4160 })
    (fun t => (t.grp 0).pc == 4176 && (t.grp 0).live == 1 && readS t 0 3 == 8 && (t.team 0).rgOrigins == []) = true := by decide
theorem test_page_fault_report_joins : goes .pageFaultReport
    { base with faults := [⟨0, 3, 4, 1, 0, 0, false, 0, [], 0⟩], faultWait := [⟨0, 3, 8, 0, 0, 0, false, 0, [.group 0 0], 0⟩] }
    (fun t => t.faults == [⟨0, 3, 12, 1, 0, 0, false, 0, [.group 0 0], 0⟩] && t.faultWait == []) = true := by decide

/-! ### Tasks and launches (12 R307 to R323) -/

/-- DW0 to DW7 of a launch record (12 R307): one team of one group of 16 lanes without registers, its entry 8192, its completion
record at 0; COUNT, ST and DW0 and DW5 as given. -/
def record (count st dw0 dw5 : Nat) : List DWord :=
  [BitVec.ofNat 64 (count * 2 ^ 32 + dw0), 8192, 0, 0, 0, BitVec.ofNat 64 dw5, 0, BitVec.ofNat 64 (st * 2 ^ 60)]

/-- Launch 3, armed, its record at 2048 with the count given; a decrement by 2 is due. -/
def armedLaunchS (count : Nat) : State :=
  let s := poke (poke (paged base) 0x400804 4 count) 0x40083F 1 0x10
  { s.setLaunch 3 { rec_ := 2048, dw := record count 1 0 0, st := 1 } with decs := [{ ctx := 0, rec_ := 2048, n := 2 }] }

/-- Launch 3, admitted, with its team 1 in front of cluster 0's furrow. -/
def queuedS (dw0 : Nat) : State :=
  let s := (paged base).setTeam 1 { st := .queued, launch := 3 }
  (s.setLaunch 3 { rec_ := 2048, dw := record 0 3 dw0 0, st := 3, gangWait := dw0 == 2 }).modCluster 0 fun k => { k with furrow := [⟨0, .team 1, 0⟩] }

theorem test_task_decrement_counts_down : goes .taskDecrement (armedLaunchS 5) (fun t =>
    peek t 0x400804 4 == 3 && (t.launch 3).st == 1 && t.decs == []) = true := by decide
theorem test_task_decrement_to_zero : goes .taskDecrement (armedLaunchS 2) (fun t =>
    peek t 0x400804 4 == 0 && peek t 0x40083F 1 == 0x20 && (t.launch 3).st == 2 && t.launchQ == [(0, 3, 0)]) = true := by decide
theorem test_launch_admit : goes .launchAdmit { (paged base).setLaunch 3 { rec_ := 2048, dw := record 0 2 0 0, st := 2 } with launchQ := [(0, 3, 0)] }
    (fun t => (t.launch 3).st == 3 && (t.team 1).st == .queued && (t.team 1).launch == 3 && t.nextTeam == 2 && peek t 0x40083F 1 == 0x30) = true := by decide
theorem test_team_place : goes (.teamPlace 0) (queuedS 0) (fun t =>
    (t.team 1).st == .resident && (t.team 1).slots == [1] && (t.grp 1).pc == 8192 && (t.grp 1).em == 0xFFFF && readS t 1 0 == 2048) = true := by decide
theorem test_gang_place : goes .gangPlace (queuedS 2) (fun t => (t.team 1).st == .resident && !(t.launch 3).gangWait) = true := by decide
theorem test_phase_admit : goes (.phaseAdmit 0)
    ((parkedS { cause := .wide true, mask := 1, pc := 4104, woken := true }).modCluster 0 fun k => { k with furrow := [⟨0, .phase 0 0, 0⟩] })
    (fun t => (t.grp 0).pc == 4112 && (t.grp 0).st == .eligible && (t.team 0).reserved) = true := by decide
theorem test_furrow_ageing : goes (.furrowAgeing 0) (base.modCluster 0 fun k => { k with furrow := [⟨1, .team 1, 64⟩, ⟨1, .team 2, 63⟩] })
    (fun t => (t.cluster 0).furrow == [⟨1, .team 2, 63⟩, ⟨2, .team 1, 0⟩]) = true := by decide
theorem test_team_retire : goes (.teamRetire 0) (base.modGrp 0 fun _ => {}) (fun t =>
    (t.team 0).st == .retired && (t.launch 0).nret == 1 && t.agenda.contains (.event (.launchEnd 0))) = true := by decide
/-- The producer's DONE bit is byte 64 of the link at 2048; its consumer, team 2, waits for it alone. -/
theorem test_producer_finish : goes (.producerTeamFinish 1)
    ((((((paged base).setTeam 1 { st := .retired, launch := 3 }).setTeam 2 { st := .waiting, launch := 4, needs := [0] }).setLaunch 3
      { dw := record 0 3 0 (2048 + 2 ^ 58) }).setLaunch 4 { dw := record 0 3 0 (2048 + 2 ^ 59) }))
    (fun t => (t.team 1).finished && peek t 0x400840 1 == 1 && (t.team 2).st == .queued) = true := by decide
/-- The completion record at 0: CST = 1 in its top bits (12 R312). -/
theorem test_launch_end : goes (.launchEnd 3) ((paged base).setLaunch 3 { rec_ := 2048, dw := record 0 3 0 0, st := 3, nret := 1 })
    (fun t => (t.launch 3).ended && peek t 0x400000 4 == 0x10000000 && peek t 0x400004 4 == 1) = true := by decide
theorem test_producer_finish_waits_for_commands : goes (.producerTeamFinish 0) (base.modTeam 0 fun t => { t with st := .retired, cmdsOut := 1 })
    (fun t => !(t.team 0).finished) = true := by decide
theorem test_arrive : goes (.arrive 0 0x0600000000000800) (base.setCtx 0 { base.ctx 0 with en := true })
    (fun t => t.decs == [{ ctx := 0, rec_ := 2048, n := 4, host := true }] && (t.ctx 0).arrivals == 1) = true := by decide

/-! ### Contexts (13 R346, R351, R364 to R367, 16 R406) -/

def enS : State := base.setCtx 0 { base.ctx 0 with en := true, bound := true }

theorem test_preempt : goes (.cctlPreempt 0) enS (fun t => (t.ctx 0).state == 1 && (t.grp 0).stopReq) = true := by decide
theorem test_group_save_needs_quiet : goes (.groupSave 0 0) ((enS.setCtx 0 { enS.ctx 0 with state := 1 }).modGrp 0 fun x => { x with pend := [{ kind := .load }] })
    (fun t => (t.grp 0).st == .eligible) = true := by decide
theorem test_restore_of_nothing : goes (.cctlRestore 1) (base.setCtx 1 { base.ctx 1 with en := true, state := 2 }) (fun t =>
    (t.ctx 1).state == 0 && (t.fn 0).pba == 4) = true := by decide
theorem test_kill : goes (.cctlKill 0) enS (fun t => t.grp 0 == {} && (t.launch 0).killed && (t.ctx 0).state == 0) = true := by decide
theorem test_create : goes (.ctxcfgCreate 2 3) (base.setCtx 2 { base.ctx 2 with bound := true, mastat := 5, fqtail := 9 }) (fun t =>
    (t.ctx 2).en && (t.ctx 2).bar && (t.ctx 2).mastat == 0 && (t.ctx 2).fqtail == 0) = true := by decide
theorem test_delete : goes (.ctxcfgDelete 0) enS (fun t => !(t.ctx 0).en && t.grp 0 == {}) = true := by decide
def faultS : State :=
  { parkedS { cause := .pages 0 [3], mask := 1, pc := 4104 } with faults := [⟨0, 3, 4, 7, 0, 0, false, 0, [.group 0 0], 0⟩] }
theorem test_fresolve : goes (.fresolveResolved 0 7) faultS (fun t =>
    t.faults == [] && (t.grp 0).park.map (fun r => (r.cause, r.woken, r.badPages)) == some (.pages 0 [], true, [])) = true := by decide
theorem test_fresolve_unresolvable : goes (.fresolveUnresolvable 0 7) faultS (fun t => (t.grp 0).park.map (·.badPages) == some [3]) = true := by decide
theorem test_shoot_cuts_register : goes (.shoot 0 0x10000) (memS []) (fun t =>
    (tget (t.grp 0).tregs {} 1).limit == 0 && (tget (t.grp 0).tregs {} 0).limit == 14336 && (t.ctx 0).shoots == [0x10000]) = true := by decide
theorem test_shoot_drops_seventeenth : goes (.shoot 0 0) (base.setCtx 0 { base.ctx 0 with shoots := List.replicate 16 0 }) (fun t => (t.ctx 0).shootDrop) = true := by decide
theorem test_shootdown_complete : goes (.shootdownComplete 0) (base.setCtx 0 { base.ctx 0 with shoots := [0] }) (fun t => (t.ctx 0).shoots == [] && (t.ctx 0).shootDone) = true := by
  decide
theorem test_shoot_read_clears : goes (.shootRead (0, 0)) (base.setCtx 0 { base.ctx 0 with shoots := [0], shootDone := true }) (fun t => t.hostReply == 257 && !(t.ctx 0).shootDone) = true := by
  decide
/-- 16 R402: a function that does not hold the context reads zero and clears nothing. -/
theorem test_shoot_read_foreign : goes (.shootRead (1, 0)) (base.setCtx 0 { base.ctx 0 with shootDone := true }) (fun t => t.hostReply == 0 && (t.ctx 0).shootDone) = true := by
  decide

/-! ### The host (12 R314, 16 R402 to R423) -/

theorem test_msgin_enters_q15 : goes (.msgin 0) (base.setCtx 0 { base.ctx 0 with msgd0 := 0x200000001, msgd1 := 0x400000003 })
    (fun t => (t.grp 0).q.q15in == [[1, 2, 3, 4]]) = true := by decide
theorem test_q15_outgoing : goes (.q15Outgoing 0 0) (grpS fun x => { x with q := { q15out := [[1, 2, 3, 4]] } }) (fun t => (t.grp 0).q.q15out == [] && (t.ctx 0).eqtail == 1) = true := by
  decide
theorem test_gbar_counter_write : goes (.gbarCounterWrite 0 1 0x0009000005000002) base (fun t => ctr t { ph := 9, exp := 5, arr := 2 }) = true := by decide
theorem test_xlgo : goes (.xlgo 1) base (fun t => (t.fn 1).req.isSome && t.agenda == [.event (.translationComplete 1)]) = true := by decide
theorem test_translation_of_foreign_context : goes (.translationComplete 1) { base with fns := [(1, { req := some ⟨0, 0, 0, 0, 0⟩, vmask := 0 })] } (fun t =>
    (t.fn 1).status == 3 && (t.fn 1).req.isNone && t.outbox == [.msix 1 2]) = true := by decide
theorem test_provgo : goes .provgo base (fun t => t.dev.provst == 1 && t.agenda == [.event .provisioningWritten]) = true := by decide
theorem test_provisioning_written : goes .provisioningWritten (base.modDev fun d => { d with provst := 1 }) (fun t => t.dev.provst == 2) = true := by decide
theorem test_lost_count_clear : goes (.lostCountClear 0 true) (base.setCtx 0 { base.ctx 0 with eqlost := 5, fqlost := 6 }) (fun t => (t.ctx 0).eqlost == 0 && (t.ctx 0).fqlost == 6) = true := by
  decide
theorem test_register_write_feretry : goes (.registerWrite 0 0x10018 0x12345678 none) (base.setCtx 0 { base.ctx 0 with bound := true }) (fun t => (t.ctx 0).feretry == 0x5678) = true := by
  decide
theorem test_register_write_foreign : goes (.registerWrite 1 0x10018 5 none) (base.setCtx 0 { base.ctx 0 with bound := true }) (fun t => (t.ctx 0).feretry == 1024) = true := by decide
theorem test_get_measurements : goes (.getMeasurements 7) base (fun t => t.outbox.length == 1) = true := by decide
theorem test_device_reset : goes .deviceReset (base.setCtx 0 { base.ctx 0 with en := true }) (fun t => t.ctxs == [] && t.dev.provst == 0) = true := by decide
theorem test_host_window_read : goes (.hostMemoryWindowAccess 0 0 512 4 none) (poke ((paged base).setCtx 0 { (paged base).ctx 0 with bound := true }) 0x400200 4 0x11223344)
    (fun t => t.hostReply == 0x11223344) = true := by decide
theorem test_queue_tail_read : goes (.queueTailRead 0 0 false) (base.setCtx 0 { base.ctx 0 with bound := true, fqtail := 3, fqPend := true }) (fun t => t.hostReply == 3 && !(t.ctx 0).fqPend) = true := by
  decide

/-- In recovery only the provisioning registers answer function 0 (16 R407). -/
theorem test_window_read_recovery :
    let s := { base.setCtx 0 { base.ctx 0 with fqhead := 7 } with dev := { base.dev with recovery := true, provst := 2 } }
    windowRead s 0 0x103010 = 2 ∧ windowRead s 0 (ctxOff 0 0x058) = 0 := by decide
/-- Function 1 reads the context bound to it, not another (16 R405, R406). -/
theorem test_window_read_bound :
    let s := base.setCtx 3 { base.ctx 3 with bound := true, fn := 1, fqsize := 2, fqbase := 0x1000 }
    windowRead s 1 (ctxOff 3 0x050) = 0x2000000000001000 ∧ windowRead s 2 (ctxOff 3 0x050) = 0 := by decide

/-- One native section for Aurok 4 at byte 96, 16 bytes (16 R416). -/
def codeObj (ver : Nat) : List Byte :=
  [0x4F4B5541 + ver * 2 ^ 32, 1, 0, 0, 0, 0, 0, 0, 0x401, 96, 16, 5].flatMap (bytesOfWord 8)
theorem test_code_sections : codeSections (codeObj 1) = some [⟨.native, 4, 96, 16, 5⟩] ∧ codeSections (codeObj 2) = none := by decide
/-- A variant of another generation never runs: the portable form is translated (16 R417). -/
theorem test_load_choice :
    loadChoice 4 [⟨.native, 3, 0, 0, 0⟩, ⟨.berdy, 0, 0, 0, 0⟩] = .translate ⟨.berdy, 0, 0, 0, 0⟩ ∧
    loadChoice 4 [⟨.native, 3, 0, 0, 0⟩] = .refused 3 := by decide

/-! ### Peers, links and energy (08 R210, 09 R235, R236, R244, 15 R385 to R399, 16 R410, R411) -/

theorem test_peer_read : goes (.peerMemoryRead 2 0x1000 2) (poke base 0x1000 2 0xBBAA) (fun t => t.outbox == [.reply 2 [0xAA, 0xBB]]) = true := by decide
theorem test_peer_write : goes (.peerPostedWrite 2 0x1000 [0xAA]) base (fun t => peek t 0x1000 1 == 0xAA && tget t.recvd 0 2 == 1) = true := by decide
theorem test_peer_atomicop : goes (.peerAtomicop 2 0x1000 false .fetchAdd (5, 0) [(7, 0)]) (poke base 0x1000 4 0xFFFFFFFF) (fun t =>
    peek t 0x1000 4 == 11 && t.outbox == [.reply 2 [0xFF, 0xFF, 0xFF, 0xFF, 4, 0, 0, 0]]) = true := by decide
theorem test_peer_fe_read_leaves_proxy : goes (.peerFeAccess 2 3 4 0x1000 (.read 1 4)) { base with empties := [0x1000] }
    (fun t => t.headland == [⟨.mem 0x1000, .peer 2 3 4, 1, 0⟩]) = true := by decide
theorem test_peer_fe_take : goes (.peerFeAccess 2 3 4 0x1000 (.read 2 4)) (poke base 0x1000 4 9) (fun t => t.empties == [0x1000] && t.outbox == [.reply 2 [9, 0, 0, 0]]) = true := by decide
theorem test_peer_compressed_zero_line : goes (.peerCompressedLine 2 0x1000 1 []) (poke base 0x1000 4 9) (fun t => peek t 0x1000 4 == 0 && tget t.recvd 0 2 == 1) = true := by decide
theorem test_peer_proxy_wake : goes (.peerProxyWake 0 0) (parkedS { cause := .fePeer 2 0x1000 1, mask := 1, pc := 4104, proxy := some (0, 0) }) (fun t => (t.grp 0).park.any (·.woken)) = true := by decide
theorem test_peer_store_ack : goes (.peerStoreAck 2 1) { (base.setLaunch 3 { peerOut := 2 }) with items := [(2, [{ launch := 3, team := 0 }, { launch := 3, team := 0 }])] }
    (fun t => (t.launch 3).peerOut == 1 && (tget t.items [] 2).length == 1) = true := by decide
theorem test_peer_drain_request : goes (.peerDrainRequest 2) { base with recvd := [(2, 5)] } (fun t => t.outbox == [.ack 2 5] && tget t.recvd 0 2 == 0) = true := by decide
theorem test_peer_ack_timeout : goes (.peerAckTimeout 0 1) (copyS { cmd [] with ending := true, peerOut := 1 }) (fun t => (t.core 0).cmds.map (·.fc) == [7]) = true := by decide
theorem test_drain_send : goes (.drainSend 0) { base with items := [(2, [{ launch := 0, team := 0 }]), (3, [{ launch := 1, team := 0 }])] } (fun t => t.outbox == [.drain 2]) = true := by decide
theorem test_control_interval_samples : goes (.controlIntervalStart 0 false [(0, 95)]) base (fun t => (t.core 0).temp == 95 && (t.core 0).trp) = true := by decide
theorem test_control_interval_starts : goes (.controlIntervalStart 0 true []) (base.modCluster 0 fun k => { k with nextAllot := 77, interval := 4 })
    (fun t => (t.cluster 0).allot == 77 && (t.cluster 0).interval == 5) = true := by decide
theorem test_package_interval : goes (.packageIntervalEnd 0 0) base (fun t => t.dev.mShare == 120000 && t.dev.cShare == 780000 && t.dev.pkgInterval == 1) = true := by decide
theorem test_lease_expires : goes (.leaseExpire 0 0) (base.modCluster 0 fun k => { k with leases := [⟨0, 0, true⟩] }) (fun t => leaseOf t 0 0 == none) = true := by decide
theorem test_team_throttle_below_limit : goes (.teamThrottle 0) base (fun t => !(t.team 0).throttled) = true := by decide
theorem test_team_migrate_not_asked : goes (.teamMigrate 0) base (fun t => t == base) = true := by decide
theorem test_link_training : goes (.linkTraining 3 true) base (fun t => t.dev.trained == 8 && t.dev.up == 8 && t.dev.dcap == 8) = true := by decide
theorem test_port_down : goes (.portDown 3) (base.modDev fun d => { d with trained := 8, up := 8 }) (fun t => t.dev.trained == 8 && t.dev.up == 0) = true := by decide


/-! ### Witnesses of the statements' hypotheses

Each theorem meets, at one state and operands, the hypotheses of the statement it is named after, clause by clause, at values
where the clauses meet. The step tests above show completions of the same clauses. -/

theorem witness_DecodeEncode : (Instr.iadd (v32 5 6 7 0 .i32 0)).encFault = none ∧
    encode (.iadd (v32 5 6 7 0 .i32 0)) = some 0x20005060700FE000 := by decide

theorem witness_EncodeDecode : decodesAll [(0x20005060700FE000, .iadd (v32 5 6 7 0 .i32 0))] = true := by decide

/-- The opcodes at the edges of the gaps of the map: 0x0E and 0x10 are assigned, 0x0F, 0xCA, 0xEF are not, 0xF0 is a header's. -/
theorem witness_DecodedWords :
    (match decodeWord 0x0F00000000000000, decodeWord 0xCA00000000000000, decodeWord 0xEF00000000000000, decodeWord 0xF000000000000000 with
      | .error a, .error b, .error c, .error d => (a, b, c, d) == (.unassigned, .unassigned, .unassigned, .tagSpace)
      | _, _, _, _ => false) = true ∧
    isHeader 0xEFFFFFFFFFFFFFFF = false ∧ isHeader 0xF000000000000000 = true := by decide

/-- A group about to issue the word w. -/
def issueS (w : Nat) : State := State.reset.withFetchWord 64 w

theorem witness_StepRuns :
    let s := issueS 0x20005060700FE000
    let l := (clockCores s s.curCore).headD s.curCore
    let u := s.modCore l fun k => { k with turn := [] }
    s.agenda = [] ∧ (s.core l).turn = [0] ∧ (u.grp 0).running = true ∧ (u.grp 0).exiting = false ∧ (u.grp 0).st = .eligible ∧
    (u.grp 0).issueAt ≤ (u.core 0).cyc.toNat ∧ issueWord (u.grp 0) = some 0x20005060700FE000 ∧
    latchHazard u 0 (.iadd (v32 5 6 7 0 .i32 0)) = false ∧ held u 0 (.iadd (v32 5 6 7 0 .i32 0)) = false ∧
    grantsLeft (u.core 0) (portOf (.iadd (v32 5 6 7 0 .i32 0))) ≠ 0 := by decide
theorem witness_StepRuns_event : (base.post (.portDown 3)).agenda = .event (.portDown 3) :: [] := by decide

/-- Held for a source that is loaded, and for a port without a grant, in clauses whose words pass the checks. -/
theorem witness_IssueHoldsAndTraps :
    let s := (issueS 0x20005060700FE000).modGrp 0 fun x => { x with pend := [{ kind := .load, regs := [6], ready := false }] }
    let p := (issueS 0x1000414040000005).modCore 0 fun k => { k with grants := (0, 2, 1) }
    let passes (s : State) : Prop := slotFault (headerOf ((s.grp 0).clause.headD 0)) false (s.grp 0).gw 0 ((s.grp 0).clause.getD 1 0) = none
    issueWord (s.grp 0) = some 0x20005060700FE000 ∧ latchHazard s 0 (.iadd (v32 5 6 7 0 .i32 0)) = false ∧
    held s 0 (.iadd (v32 5 6 7 0 .i32 0)) = true ∧ (s.grp 0).running = true ∧ (s.grp 0).clause.length = 2 ∧ passes s ∧ passes p ∧
    grantsLeft (p.core 0) (portOf (.sadd ⟨2, 5, 0, true, 5⟩)) = 0 ∧ latchHazard p 0 (.sadd ⟨2, 5, 0, true, 5⟩) = false := by decide

theorem witness_StepKeepsMemories : ∃ t, (issueS 0x20005060700FE000).memWf = true ∧ (issueS 0x20005060700FE000).noMem = none ∧
    step (issueS 0x20005060700FE000) = .next t := by
  refine ⟨_, ?_, ?_, rfl⟩ <;> decide

/-- v191 from the window, v190 from the bank, with an older result of the same register behind it. -/
theorem witness_RegisterReads :
    let x := (grpS fun y => { y with window := [⟨2, true, [⟨191, 3, 7⟩]⟩, ⟨1, false, [⟨191, 3, 6⟩, ⟨0, 0, 1⟩]⟩] }).grp 0
    x.window = [] ++ ⟨2, true, [⟨191, 3, 7⟩]⟩ :: x.window.drop 1 ∧
    [(⟨191, 3, 7⟩ : VRes)].find? (fun q => q.reg == 191 && q.lane == 3) = some ⟨191, 3, 7⟩ ∧
    (∀ y ∈ x.window, ∀ q ∈ y.vals, ¬ (q.reg = 190 ∧ q.lane = 3)) := by decide

theorem witness_ScalarResults : base.cur = 0 ∧ (base.grp 0).gw ≤ 64 ∧ (⟨0x4F, 1, 2, false, 0⟩ : FmtS).sd.toNat % 8 ≠ 0 ∧
    (⟨3, 1, 0, true, 0x3FFFFFFF⟩ : FmtS).i = true ∧ (sf 1 2).i = false := by decide

/-- The last doubleword of the window, one past it, one misaligned, one held by a barrier, and one with a bad word. -/
theorem witness_ScalarStores :
    let s := scalarS [(1, 14328), (2, 14336), (5, 4), (6, 16)]
    let t := s.teamOf 0
    let limit := (tget (s.grp 0).tregs {} 0).limit
    let at_ (n : BitVec 7) : Nat := localAddr s ⟨3, n, 2, false, 0⟩
    at_ 5 % 8 ≠ 0 ∧ (at_ 2 % 8 = 0 ∧ limit < at_ 2 + 8) ∧ (at_ 1 % 8 = 0 ∧ at_ 1 + 8 ≤ limit) ∧
    (∀ b ∈ t.barriers, ¬ (b < at_ 1 + 8 ∧ at_ 1 < b + 16)) ∧ ¬ stopsHere (s.grp 0) ∧
    storeBad s (storeCore t 0 (at_ 1)) (t.frame + at_ 1) 8 = false ∧
    storeBad (s.modCore 0 fun k => { k with badStore := [t.frame + 16] }) (storeCore t 0 (at_ 6)) (t.frame + at_ 6) 8 = true ∧
    (∃ b ∈ ((s.modTeam 0 fun t => { t with barriers := [16] }).teamOf 0).barriers, b < at_ 6 + 8 ∧ at_ 6 < b + 16) := by decide

theorem witness_MaskInstructions : (base.grp 0).stopReq = false ∧ ((grpS fun x => { x with stopReq := true }).grp 0).stopReq = true := by decide

theorem witness_UniformBranch :
    let s := codeS four
    let x := s.grp 0
    headerAt s 0 (branchTarget x 16) = true ∧ headerAt s 0 (branchTarget x (-2)) = false ∧
    ((activeMask x 1 false).getLsbD 0 = true ∧ x.live.getLsbD 0 = true) ∧
    (activeMask x 2 false).getLsbD 0 = false ∧ (activeMask x 2 false) = 0 := by decide

theorem witness_JoinsAndRegroups :
    let s := codeS fun x => { four x with hdr := 4160, pc := 4168, em := 3, stack := [.diverge 4160 15 12 4112] }
    let r := codeS fun x => { four x with hdr := 4160, pc := 4168, stack := [.regroup 4160] }
    let b := codeS four
    let l := codeS fun x => { four x with hdr := 4160, pc := 4168, em := 3, stack := [.diverge 4160 15 12 4120] }
    (l.grp 0).stack = [.diverge (l.grp 0).hdr 15 12 4120] ∧ headerAt l 0 4120 = false ∧
    codeAt b 0 4120 = .other ∧ codeAt b 0 4112 = .header 0xF000000000000000 ∧ (headerOf 0xF000000000000000).jn = false ∧
    codeAt b 0 0x200000 = .absent ∧ codeAt (poke b 0x110000 8 0x0430000000400025) 0 4160 = .barred ∧
    (joinCheck (poke b 0x110000 8 0x0430000000400025) 0 4160 3).2 = false ∧
    (s.grp 0).stack = [.diverge (s.grp 0).hdr 15 12 4112] ∧ headerAt s 0 4112 = true ∧
    (r.grp 0).stack = [.regroup (r.grp 0).hdr] ∧ (r.grp 0).pend = [] ∧ releaseReady (r.grp 0) 1 2 = true ∧
    joinAt b 0 (branchTarget (b.grp 0) 8) = true ∧ joinAt b 0 (branchTarget (b.grp 0) 16) = false ∧
    (b.grp 0).em = (b.grp 0).live ∧ (b.grp 0).stack = [] ∧ headerAt b 0 (branchTarget (b.grp 0) 16) = true ∧
    headerAt b 0 (branchTarget (b.grp 0) (-2)) = false ∧ activeMask (b.grp 0) 1 false ≠ 0 ∧ activeMask (b.grp 0) 2 false = 0 ∧
    (s.grp 0).em ≠ (s.grp 0).live := by decide

/-- A stack of 31 entries and one of 32; lanes left, a divergence below with and without lanes pending, a return, a regroup. -/
theorem witness_CallsReturnsAndExits :
    let s := codeS fun x => { four x with stack := List.replicate 31 (.ret 4112 15) }
    let e (k : StackEntry) : Group := (codeS fun x => { four x with em := 3, stack := [k] }).grp 0
    let t := activeMask (e (.ret 4112 15)) 1 false
    (s.grp 0).stack.length = 31 ∧ activeMask (s.grp 0) 1 false ≠ 0 ∧ headerAt s 0 4224 = true ∧ headerAt s 0 4080 = false ∧
    ((e (.ret 4112 15)).live &&& ~~~t ≠ 0 ∧ (e (.ret 4112 15)).em &&& ~~~t = 0) ∧
    (e (.diverge 4160 15 12 4112)).stack.map (dropLanes t) = [.diverge 4160 12 12 4112] ∧
    (e (.diverge 4160 15 0 4112)).stack.map (dropLanes t) = [.diverge 4160 12 0 4112] ∧
    (e (.regroup 4160)).stack.map (dropLanes t) = [.regroup 4160] ∧ headerAt s 0 4112 = true ∧
    ((codeS four).grp 0).live &&& ~~~(activeMask ((codeS four).grp 0) 0 false) = 0 := by decide

/-- A count of 2 goes on, of 1 ends; the taken lanes, and none. -/
theorem witness_Branches :
    let s := codeS fun x => { four x with sregs := [(1, 4232), (5, 2), (6, 1)] }
    let x := s.grp 0
    headerAt s 0 ((((readS s 0 1).toNat : Int) + 8 * (-1)) % (2 : Int) ^ 57).toNat = true ∧ headerAt s 0 4232 = false ∧
    0 < (readS s 0 5 - 1).toInt ∧ ¬ 0 < (readS s 0 6 - 1).toInt ∧ headerAt s 0 (branchTarget x 16) = true ∧
    headerAt s 0 (branchTarget x 17) = false ∧ codeAt s 0 (branchTarget x 17) = .other ∧ (joinCheck s 0 (branchTarget x 8) 3).2 = true ∧
    joinAt s 0 (branchTarget x 8) = true ∧ joinAt s 0 (branchTarget x 16) = false ∧
    x.stack.length < 32 ∧ activeMask x 1 false ≠ 0 ∧ activeMask x 2 false = 0 := by decide

/-- Program and handler mode; TPC at a header, in a clause, beyond it; a handler and none. -/
theorem witness_TrapsTaken :
    let h (c tpc : DWord) : State := codeS fun x => { four x with trap := { hmode := true, tcause := c, tpc := tpc, thdr := 4224 } }
    let a := h 1 4224
    (a.grp 0).trap.hmode = true ∧ (a.grp 0).trap.tcause ≠ 0x0E ∧ ((h 0x0E 0).grp 0).trap.tcause = 0x0E ∧
    codeAt a 0 4224 = .header 0xF000000000000000 ∧ a.noMem = none ∧ stopsHere (a.grp 0) = false ∧
    codeAt a 0 4232 = .other ∧ (headerOf 0xF000000000000000).n = 1 ∧ 4232 ≤ 4224 + 8 * 1 ∧
    codeAt a 0 4240 = .other ∧ ¬ 4240 ≤ 4224 + 8 * 1 ∧
    (a.launch 0).aborted = false ∧ (a.launch 0).ended = false ∧ (a.ctx (a.ctxOf 0)).tvec ≠ 0 ∧
    (base.ctx (base.ctxOf 0)).tvec = 0 ∧ (base.grp 0).trap.hmode = false ∧
    activeMask (a.grp 0) 1 false ≠ 0 ∧ activeMask (a.grp 0) 2 false = 0 := by decide

/-- The instruction is one of format V that nothing stops here, without and with a queue among its operands. -/
def opens (i : Instr) : Bool :=
  match vForm i with
  | some (f, u) => (vGate (laneS []) f u).isNone && (vQueue f u).isNone
  | none => false
def vi (d a : BitVec 8) (ty : Ty) : FmtVI := ⟨false, 0, d, a, 3, false, ty, 0⟩

/-- 02 R51: a run that ends at the count and one that passes it; an empty queue; a full q15; a bad operand word. -/
theorem witness_VectorStops :
    let f := v32 5 6 7 0 .i32 0
    let q : FmtV := { f with a := 228 }
    let o : FmtV := { f with d := 239 }
    let u := Wf.binUse .i32
    let s := laneS []
    let n := grpS fun x => { x with nregs := 8 }
    let full := grpS fun x => { x with q := { q15out := List.replicate 4 [] } }
    let bad := base.modCore 0 fun k => { k with badStore := [regOff (base.teamOf 0) (base.grp 0) 6 0] }
    firstLimit (n.grp 0) (vRuns f u) = none ∧ firstLimit (n.grp 0) (vRuns { f with d := 8 } u) = some 8 ∧
    vForm (.iadd q) = some (q, u) ∧ vQueue q u = some 228 ∧ queueEmpty (s.grp 0) 228 = true ∧ (s.ctx (s.ctxOf 0)).state ≠ 1 ∧
    firstLimit (s.grp 0) (vRuns q u) = none ∧ s.noMem = none ∧
    firstLimit (full.grp 0) (vRuns o u) = none ∧ vQueue o u = none ∧ 4 ≤ (full.grp 0).q.q15out.length ∧
    (operandBad bad 0 (lanesOf (activeMask (bad.grp 0) 0 false) 16) (vSources f u)).isSome = true ∧
    ((s.setCtx 0 { s.ctx 0 with state := 1 }).ctx 0).state = 1 := by decide

/-- A destination that ends at v191, a predicate, a scalar, a team register, `vz`; the window below its length. -/
theorem witness_VectorResults :
    let s := laneS [(6, 1)]
    let f := v32 191 6 7 0 .i32 0
    vQueue f (Wf.binUse .i32) = none ∧ f.d.toNat + opWidth (Wf.binUse .i32).d = 192 ∧ (s.grp 0).window.length < 8 ∧
    vLanes s f = [0] ∧ (lanewise s f (Wf.binUse .i32) fun a b _ => a + b).vals = (vLanes s f).map (fun i => (i, 1)) ∧
    (Wf.use .predDst .r32 .r32 .unused .inB).d = .predDst ∧ (Wf.use .r32 .r32 .unused .unused .dest).s = .dest ∧
    (s.grp 0).gw ≤ 64 := by decide

theorem witness_QueueRegisters :
    let u := Wf.binUse .i32
    vQueue { v32 5 228 7 0 .i32 0 with s := 127 } u = some 228 ∧ vQueue (v32 5 6 239 0 .i32 0) u = some 239 ∧
    vQueue (v32 239 6 7 0 .i32 0) u = none ∧ vQueue (v32 224 6 7 0 .i32 0) u = none ∧ u.d = .r32 := by decide

/-- The gate is open for every format-V instruction of the arithmetic statements. -/
theorem witness_IntegerArithmetic : ([.iadd (v32 5 6 7 0 .i32 1), .isub (v32 4 6 8 0 .n64 0), .imul (v32 5 6 7 0 .n32 0), .imad (v32 5 6 7 8 .i32 0),
    .imulh (v32 4 6 8 0 .i64 0), .ineg (v32 5 6 0 0 .i32 0), .iabs (v32 5 6 0 0 .i32 0), .imin (v32 5 6 7 0 .i32 0),
    .imax (v32 5 6 7 0 .i32 0), .idiv (v32 5 6 7 0 .i32 1)] : List Instr).all opens = true := by decide
theorem witness_LogicShiftsAndFields : ([.and (v32 5 6 7 0 .b32 0), .or (v32 5 6 7 0 .b32 0), .xor (v32 5 6 7 0 .b32 0), .not (v32 5 6 0 0 .b32 0),
    .shl (v32 5 6 7 0 .n32 0), .shr (v32 5 6 7 0 .n32 0), .sar (v32 5 6 7 0 .i32 0), .rot (v32 5 6 7 0 .b32 0), .bfe (v32 5 6 7 0 .i32 0),
    .bfi (v32 5 6 7 8 .b32 0), .popc (v32 5 6 0 0 .b32 0), .clz (v32 5 6 0 0 .b32 0), .ctz (v32 5 6 0 0 .b32 0),
    .brev (v32 5 6 0 0 .b32 0)] : List Instr).all opens = true := by decide
theorem witness_ComparesAndMoves : ([.icmp (v32 1 6 7 0 .i32 2), .sel (v32 5 6 7 1 .b32 0), .plog (v32 1 2 3 0 .b32 8), .mov (v32 5 6 0 0 .b32 0),
    .movi (vi 5 0 .b32), .movh (vi 5 6 .b32), .lea (v32 4 6 8 0 .n64 2)] : List Instr).all opens = true := by decide
/-- A group of 16 lanes: a ballot of lane 0 alone, a vote that holds, a match of lane 0 with itself. -/
theorem witness_LaneCross : ([.shfl (v32 5 6 7 0 .b32 0), .bcast (v32 5 6 0 0 .b32 63), .vote (v32 4 1 0 0 .b32 3), .vote (v32 1 1 0 0 .b32 1),
    .matchV (v32 4 6 0 0 .b32 0)] : List Instr).all opens = true ∧ (laneS []).g.gw ∈ [16, 32, 64] ∧
    (∀ j, j < 64 → ((0 : Nat).testBit j = true ↔
      j ∈ vLanes (laneS []) (v32 4 1 0 0 .b32 3) ∧
        (vOperands (laneS []) (v32 4 1 0 0 .b32 3) (Wf.use .r64 .predSrc .unused .unused .dest) j).1 = 1)) := by decide
/-- The running values of an addition over lane 0 alone, and a group of 2 ^ 4 lanes. -/
theorem witness_ScanAndReduce : ([.scan (v32 5 6 0 0 .i32 8), .redux (v32 5 6 0 0 .i32 0)] : List Instr).all opens = true ∧
    (laneS []).g.gw = 2 ^ 4 ∧ vLanes (laneS []) (v32 5 6 0 0 .i32 8) = [0] ∧ crossId .i32 0 = 0 ∧
    (∀ op ∈ [0, 5], op ≤ 5) ∧ Ty.isLog .i64 = false := by decide
theorem witness_LogCodesAndOrder : ([.lmin (v32 5 6 7 0 .l32 0), .lmax (v32 5 6 7 0 .l16 1), .lcmp (v32 1 6 7 0 .l8 6), .lcls (v32 5 6 0 0 .l8 0),
    .lpk (v32 5 6 7 8 .l8 1), .lupk (v32 5 6 0 0 .l16 1)] : List Instr).all opens = true ∧ 2 ≤ LFmt.lbits .l8 ∧
    Log.decode .l8 0x3F ≠ .nan ∧ -(2 : Int) ^ (LFmt.lbits .l8 - 1) ≤ -32 ∧ (31 : Int) < 2 ^ (LFmt.lbits .l8 - 1) := by decide
theorem witness_LogMultiplicative : ([.lmul (v32 5 6 7 0 .l32 0), .ldiv (v32 5 6 7 0 .l16 1), .lrcp (v32 5 6 0 0 .l8 0), .lsqr (v32 5 6 0 0 .l32 0),
    .lsqrt (v32 5 6 0 0 .l32 0), .lneg (v32 5 6 0 0 .l32 0), .labs (v32 5 6 0 0 .l32 0), .lpow (vi 5 6 .l32), .lscl (v32 5 6 7 0 .l32 0)] : List Instr).all
    opens = true := by decide
/-- One pair of operands for each row of the table of 05 R131; equal magnitudes of either sign. -/
theorem witness_LogSums : ([.ladd (v32 5 6 7 0 .l32 0), .lsub (v32 5 6 7 0 .l8 0), .lmad (v32 5 6 7 8 .l16 0)] : List Instr).all opens = true ∧
    (LV.inf true = .inf true ∧ LV.inf false ≠ .nan) ∧ (0 : Int) ≤ 0 ∧ ¬ ((0 : Int) = 0 ∧ true ≠ true) ∧ LFmt.l16 = .l16 := by decide
theorem witness_LogConversions : ([.lcvt (v32 5 6 0 0 .l32 2), .lfi (v32 5 6 0 0 .l32 3), .lti (v32 4 6 0 0 .l32 2), .lxf (v32 5 6 0 0 .l16 31),
    .lfx (v32 5 6 0 0 .l32 63), .lexp2 (v32 5 6 0 0 .l32 0), .llg2 (v32 5 6 0 0 .l16 0)] : List Instr).all opens = true ∧
    (0 : Int) ≤ -3 + (3 : Nat) ∧ (-4 : Int) + (3 : Nat) < 0 := by decide

/-! Memory. -/

/-- The checks of `Clear`, as one question. -/
def clearNow (s : State) (q : AReq) : Bool :=
  s.noMem.isNone && (accessGate s q).isNone &&
    ((resolved s q).2.all fun l => match l.2 with
      | .ok _ pl => (placePieces pl q.bytes).all fun p => p.2.pr || p.2.hb || decide (p.2.pa + p.1 ≤ Config.hbmBytes)
      | .absent _ => q.drop
      | .misalign _ => false
      | .prot _ => false
      | .malformed _ => false) &&
    (accessTrap (resolved s q).1 s.cur q (resolved s q).2).isNone && !peerRelease (resolved s q).1 s.cur q (resolved s q).2 &&
    (firstWords s q).2.2.isNone && (firstWords s q).1.noMem.isNone &&
    ((firstWords s q).1.core (s.cur / 32)).tlb.all fun e => decide (e.entry < Config.hbmBytes)

theorem clear_of_now (s : State) (q : AReq) (h : clearNow s q = true) : Clear s q := by
  simp only [clearNow, Bool.and_eq_true, Option.isNone_iff_eq_none, List.all_eq_true, decide_eq_true_eq, Bool.not_eq_true'] at h
  obtain ⟨⟨⟨⟨⟨⟨⟨h1, h2⟩, h3⟩, h4⟩, h8⟩, h5⟩, h6⟩, h7⟩ := h
  refine ⟨h1, h2, fun l hl => ?_, h4, h8, h5, h6, h7⟩
  have h := h3 l hl
  revert h
  cases l.2 with
  | ok a pl =>
    intro h
    refine .inl ⟨a, pl, rfl, fun p hp => ?_⟩
    have := List.all_eq_true.mp h p hp
    simpa [or_assoc] using this
  | absent a => intro h; exact .inr ⟨h, a, rfl⟩
  | misalign a => intro h; cases h
  | prot a => intro h; cases h
  | malformed a => intro h; cases h

theorem witness_AccessesComplete_window : Clear (memS []) (memReq (memS []) (ldW 0 0 0) true false) := clear_of_now _ _ (by decide)
theorem witness_AccessesComplete_register : Clear (memS []) (memReq (memS []) { ldW 1 1 0 with imm := 4092 } true false) := clear_of_now _ _ (by decide)
/-- A lane at an absent page is dropped by a `wbk`, and stops a load. -/
theorem witness_AccessesComplete_dropped :
    let s := paged (memS [(6, 0x400000)])
    Clear s { lineReq s { ldW 1 1 0 with d := 0, sz := 0, a := 6 } false with drop := true } :=
  clear_of_now _ _ (by decide)
/-- Beyond the register's limit the page tables map the lane (13 R340). -/
theorem witness_AccessesComplete_paged :
    let s := paged (memS [(6, 4096)])
    Clear s (memReq s { ldW 1 1 0 with a := 6 } true false) :=
  clear_of_now _ _ (by decide)
theorem witness_AccessesComplete_others :
    let s := recordS []
    (clearNow s (convReq s (ldW 1 1 0) true) && clearNow s (convReq s (ldW 1 1 0) false) && clearNow s (festReq s (ldW 1 1 2) true) &&
      clearNow s (festReq s (ldW 0 0 3) false) && clearNow s (feqReq s (ldW 0 0 0)) && clearNow s (memReq s (ldW 0 0 3) false true)) = true ∧
    (performed s (convReq s (ldW 1 1 0) true) (ldcLane s (ldW 1 1 0))).fmt = [] ∧
    (performed s (memReq s (ldW 1 1 2) true false) (ldLane 0 (ldW 1 1 2))).wrong = [] := by decide

/-- The last word of the window is in it; one word on is beyond it; one byte on is misaligned; below the window. -/
theorem witness_WindowAccesses :
    let s := memS [(6, 14316), (7, 14320), (8, 14317)]
    let w (a : BitVec 8) : FmtM := { ldW 0 0 0 with a := a }
    let off (a : BitVec 8) : Int := laneOffset s 0 (w a) 0
    (accessGate s (memReq s (w 6) true false)).isNone = true ∧ laneList s (memReq s (w 6) true false) = [0] ∧
    off 6 + 4 = 14336 ∧ off 7 + 4 = 14340 ∧ off 8 % 4 ≠ 0 ∧ laneOffset s 0 { w 240 with imm := -4 } 0 = -4 ∧ (tget (s.grp 0).tregs {} 0).val = true ∧
    (tget (s.grp 0).tregs {} 0).limit = 14336 ∧ (s.grp 0).trap.wpc.getLsbD 0 = false ∧ (s.grp 0).trap.wpc.getLsbD 8 = false ∧
    (s.teamOf 0).barriers = [] ∧ storeBad s (storeCore (s.teamOf 0) 0 14332) ((s.teamOf 0).frame + 14332) 4 = false := by decide

/-- A full and an empty word; an entry of each kind on its list; a return to the word waited for, at the limit. -/
theorem witness_FullEmptyWords :
    let s := memS []
    let e := setFE s (.store 0 16) false
    (∀ o ∈ placeObjs (s.teamOf 0) 0 (.store 16) 4, isFull s o = true) ∧ (∀ o ∈ placeObjs (e.teamOf 0) 0 (.store 16) 4, isFull e o = false) ∧
    isFull e (.store 0 16) ≠ true ∧ (s.grp 0).redo = none ∧
    (let r : ParkRec := { cause := .feStore (storeCore (s.teamOf 0) 0 16) ((s.teamOf 0).frame + 16 / 4 * 4) 1, mask := 1, pc := 4104, futile := 1023 }
      let t := s.modGrp 0 fun x => { x with redo := some r }
      (t.grp 0).redo = some r ∧ (t.ctx (t.ctxOf 0)).feretry ≤ r.futile + 1 ∧ (t.ctx (t.ctxOf 0)).feretry ≠ 0) := by decide

/-- After reset every line is as HBM holds it; the last byte of a line, and of device memory; a line of one word. -/
theorem witness_CachesAndLines : Settled State.reset ∧ 255 % 256 + 1 ≤ 256 ∧ Config.hbmBytes - 1 < Config.hbmBytes ∧ l1Sets State.reset 0 ≠ 0 ∧
    63 % 64 + 1 ≤ 64 := by
  refine ⟨⟨fun c x h => ?_, by decide, fun l h => ?_⟩, by decide, by decide, by decide, by decide⟩
  · exact absurd h (by simp [State.core, State.idleCore, State.reset, tget])
  · exact absurd h (by simp [State.reset])

theorem witness_Atomics : clearNow (memS []) (atomReq (memS []) (atomA .i32 0) true false (.op .fetchAdd)) = true ∧
    (performed (memS []) (atomReq (memS []) (atomA .i32 0) true false (.op .fetchAdd))
      (atomLanes (memS []) (atomA .i32 0) true false (.op .fetchAdd) fun v b _ => ((v + b) % 2 ^ 32, 0))).wrong = [] ∧
    (atomForm (.acas (atomA .l16 7))).isSome = true := by decide

/-- A reply whose work stands, one without; v191 in the last lane. -/
theorem witness_ReplyDelivers :
    let p : Pend := { kind := .load, seq := 4, vregs := [⟨191, 15, 9⟩, ⟨191, 14, 8⟩] }
    let x := (grpS fun x => { x with pend := [p] }).grp 0
    x.pend.find? (fun p => p.seq == 4 && p.ready && [PKind.load].contains p.kind) = some p ∧
    x.pend.find? (fun p => p.seq == 5 && p.ready && [PKind.load].contains p.kind) = none ∧ p.fail = none ∧ p.cq = none ∧ x.gw ≤ 64 ∧
    (p.vregs.map fun v => (v.reg, v.lane)).Nodup ∧ (∀ v ∈ p.vregs, v.reg ≤ 191 ∧ v.lane < x.gw) := by decide

/-! Barriers, monitors, tasks. -/

/-- The last object of the scratchpad and one behind it; set up and free; a phase with members that have yet to see it. -/
theorem witness_TeamBarriers :
    let b : BarObj := ⟨65535, 2, 1, 0, 0, 0, true⟩
    let s := barS 6 b
    let o := barS 6 ⟨7, 2, 1, 1, 0, 0, true⟩
    s.noMem = none ∧ barAddr s (yB 5 3 2 0) % 16 = 0 ∧ barAddr s (yB 5 3 2 0) + 16 ≤ (s.team 0).scr ∧ (s.team 0).scr < 64 + 16 ∧
    barRead s 0 16 = b ∧ (barRead (barS 6 ⟨0, 0, 0, 0, 0, 0, false⟩) 0 16).sh = false ∧ releaseReady (s.grp 0) 1 2 = true ∧
    releaseReady { s.grp 0 with pend := [{ kind := .store }] } 1 2 = false ∧ (barRead o 0 16).obs = 1 ∧
    barBad s 0 16 = false ∧ barBad (s.modCore 0 fun k => { k with badStore := [16] }) 0 16 = true ∧
    (readS s 0 3).toNat % 2 ^ 16 = 6 ∧ (readS (barS 0x1FFFF b) 0 3).toNat % 2 ^ 16 = b.ph ∧ (s.grp 0).replay = false ∧
    (0 < b.exp ∧ b.exp ≤ b.arr + 1) ∧ ¬ ((3 : Nat) ≤ 1 + 1) := by decide

/-- Stores acknowledged and outstanding; team scope and device scope. -/
theorem witness_Fences : releaseReady (base.grp 0) 2 2 = true ∧ releaseReady { base.grp 0 with pend := [{ kind := .store }] } 2 2 = false ∧
    2 ≤ effAs (base.teamOf 0) 2 ∧ 2 ≤ effAs (base.teamOf 0) 3 ∧ ssGlobal 2 = true := by decide

/-- A request of each form: counts of 0, 1, 2 ^ 24 − 1 and 2 ^ 24; a last arrival and one before it; the phase and another. -/
theorem witness_GridBarriers :
    let s := gridS 9 { ph := 9, exp := 2, arr := 1 }
    let q (form : Nat) (v : DWord) : GReq := ⟨0, 0, 0, 1, form, v, 5, 0⟩
    isDet s 0 = false ∧ (s.ctx (s.ctxOf 0)).bar = true ∧ (base.ctx 0).bar = false ∧ releaseReady (s.grp 0) 3 3 = true ∧ s.greqs = [] ∧
    ({ s with greqs := [q 0 0] }).greqs = q 0 0 :: [] ∧ s.noMem = none ∧
    (tget (s.ctx 0).gctrs {} 1).exp ≤ (tget (s.ctx 0).gctrs {} 1).arr + 1 ∧ (tget (s.ctx 0).gctrs {} 2).exp = 0 ∧
    (tget (s.ctx 0).gctrs {} 1).waiters = [] ∧ (q 3 0xFFFFFF).val.toNat < 2 ^ 24 ∧ 2 ^ 24 ≤ (q 3 0x1000000).val.toNat ∧
    (tget (s.ctx 0).gctrs {} 1).ph.toNat = (q 1 0x10009).val.toNat % 2 ^ 16 ∧ (s.grp 0).replay = false ∧
    (tget ((gridS 9 { ph := 9, exp := 2, obs := 1 }).ctx 0).gctrs {} 1).obs ≠ 0 := by decide

/-- A gang launch; its only team; the last and the first address of a record, and the address space's end. -/
theorem witness_WideBarriersAndTasks :
    isDet gangS 0 = false ∧ ((gangS.launch 0).dw.getD 0 0).getLsbD 1 = true ∧ (gangS.ctx (gangS.teamOf 0).ctx).bar = false ∧
    (gangS.teamOf 0).wide ≠ some false ∧ wideTeams gangS 0 true 0 = [0] ∧ (wideTeams gangS 0 true 0).Nodup ∧
    releaseReady (gangS.grp 0) 3 3 = true ∧ isDet (base.modLaunch 0 fun x => { x with det := true }) 0 = true ∧
    ((2 ^ 57 - 64) % 64 = 0 ∧ 2 ^ 57 - 64 < 2 ^ 57) ∧ ((2 ^ 57) % 64 = 0 ∧ 2 ^ 57 ≤ 2 ^ 57) := by decide

/-- A word of the window below the quota and at it; another value; two armed entries; a fired one. -/
theorem witness_Monitors :
    (match uniformAddr (watchS 7 7) (yW 2 3 2) true with
      | (v, .word (.store 0 32) (.store 32)) => v.noMem.isNone && (v.monitors.filter fun m => m.core == 0).isEmpty &&
          BitVec.ofNat 32 (winRead v (v.teamOf 0) 0 32 4) == (7 : Word)
      | _ => false) = true ∧
    (match uniformAddr armedS (yW 5 0 2) false with
      | (v, .word (.store 0 32) _) => v.noMem.isNone && v.monitors.length == 2
      | _ => false) = true ∧
    min (base.ctx 0).monquota 64 = 16 ∧ releaseReady (armedS.grp 0) 0 2 = true := by decide

/-! Matrix. -/

/-- Panel and fragment inside and beyond the counts; the array idle; a slice of zeros in order; a tile that is loading. -/
theorem witness_MatrixProducts :
    let s := laneS []
    let m := mfmt 2
    firstLimit (s.grp 0) [(64, 64), (0, m.frag)] = none ∧ firstLimit { s.grp 0 with nregs := 127 } [(64, 64), (0, m.frag)] = some 127 ∧
    0 + m.tiles ≤ (tilesOn (s.teamOf 0) 0).length ∧ ¬ 128 + m.tiles ≤ (tilesOn (s.teamOf 0) 0).length ∧ (s.core 0).matBusy = 0 ∧
    tilesReady s (s.teamOf 0) 0 0 m.tiles = true ∧ q4Free (s.grp 0) = true ∧ columnBad m (columnSlice s 0 (s.teamOf 0) 0 m.tiles 63) = false ∧
    (s.core 0).latch = none ∧ (s.core 0).credit = none ∧
    operandBad s 0 (lanesOf (activeMask (s.grp 0) 0 false) 16) ((List.range m.frag).map (0 + ·)) = none ∧ accBad s 0 64 [0] = none ∧
    64 + 64 ≤ 192 ∧ (∀ y ∈ (s.grp 0).window, (y.vals.map fun v => (v.reg, v.lane)).Nodup ∧ ∀ v ∈ y.vals, v.lane < (s.grp 0).gw) ∧
    (s.modCore 0 fun k => { k with credit := some 0 }).core 0 ≠ s.core 0 ∧
    (List.replicate (2 ^ m.levels) (⟨.zero false, 0, false⟩ : MElem)).length = 2 ^ m.levels := by decide

/-- The last 4096 bytes of the window, and 16 bytes beyond; the last tile; a result of a closed chain. -/
theorem witness_MatrixOtherInstructions :
    let s := grpS fun x => { x with pend := [{ kind := .mldb, seq := 3, ready := false, aux2 := 1 }] }
    let limit := (tget (s.grp 0).tregs {} 0).limit
    (10240 % 16 = 0 ∧ 10240 + 4096 * 1 ≤ limit) ∧ ¬ 10256 + 4096 * 1 ≤ limit ∧ 127 + 1 ≤ (tilesOn (s.teamOf 0) 0).length ∧
    ¬ 128 + 1 ≤ (tilesOn (s.teamOf 0) 0).length ∧ (tilesOn (s.teamOf 0) 0).Nodup ∧ tilesReady s (s.teamOf 0) 0 127 1 = true ∧
    (s.grp 0).pend = [{ kind := .mldb, seq := 3, ready := false, aux2 := 1 }] ∧ isDet s 0 = false ∧
    firstLimit (s.grp 0) [(128, 64)] = none := by decide
theorem witness_MatrixOtherInstructions_writeBack :
    let p : Pend := { kind := .matrix, ready := false, aux := 64, vregs := [⟨64, 0, 1⟩, ⟨127, 15, 2⟩] }
    let s := (grpS fun x => { x with pend := [p] }).modCore 0 fun k => { k with latch := some { slot := 0, d := 64, vals := [], closed := true } }
    (s.core 0).latch = some { slot := 0, d := 64, vals := [], closed := true } ∧ (s.grp 0).pend = [p] ∧ p.aux = 64 ∧ (p.vregs.map fun v => (v.reg, v.lane)).Nodup ∧
    (∀ v ∈ p.vregs, v.reg ≤ 191 ∧ v.lane < (s.grp 0).gw) ∧
    (∀ h ∈ List.range 32, h ≠ 0 → ∀ q ∈ (s.grp h).pend, q.kind ≠ .matrix ∧ q.kind ≠ .mldb) := by decide

/-! Copies. -/

/-- The last block of the address space, and one behind it; entries free, and all 48 taken. -/
theorem witness_CopyInstructions :
    let full := (s6 512).modCore 0 fun k => { k with cmds := List.replicate 48 (cmd []) }
    ((2 ^ 57 - 128) % 128 = 0 ∧ 2 ^ 57 - 128 < 2 ^ 57) ∧ entriesFree (s6 512) 0 1 = true ∧ entriesFree full 0 1 = false ∧
    isDet (s6 512) 0 = false := by decide

/-- A submitted block and a pushed one; one that is legal and one that is not. -/
theorem witness_CopyCommands_accepted :
    let c : Cmd := { cmd [] with started := false, addr := some 512, region := none }
    let s := copyS c
    (match readBlock s 0 c 512 with
      | (v, .ok ws) => v.noMem.isNone && !ws.isEmpty
      | (_, .error _) => false) = true ∧
    (s.core 0).cmds = [c] ∧ c.q < 4 ∧ c.wait = none ∧ c.region = none ∧ c.stage = 1 ∧ c.cancel = false ∧ c.ctags = [] ∧
    (let p : Cmd := cmd (block 0 0 0 1 1 0)
     blockOk p (blkOf p.block) = true ∧ blockOk p (blkOf ((block 0 0 0 1 1 0).set 3 0x10000001)) = false) := by decide
theorem witness_CopyCommands_run :
    let c := cmd (block 0 0 0 1 2 0)
    let s := copyS c
    let b := blkOf c.block
    let r := runMove 0 b (srcEnd c b) (dstEnd c b) (b.nrow * b.ncol) (startScales 0 b (srcEnd c b) (dstEnd c b) { s := s, c := c })
    headCmd s 0 1 = some c ∧ c.started = true ∧ c.ending = false ∧ c.wait = none ∧ c.cancel = false ∧ tilesOpen s 0 c = true ∧
    (startScales 0 b (srcEnd c b) (dstEnd c b) { s := s, c := c }).stop.isNone = true ∧ r.stop.isNone = true ∧ r.pw.isEmpty = true ∧ r.c.q = 1 ∧ b.lnk = false ∧
    r.s.noMem = none ∧ b.xf = 0 := by decide
/-- The last element that fits the window. -/
theorem witness_CopyCommands_element :
    let c := cmd (block 0 0 0 1 2 0)
    let s := copyS c
    let b := blkOf c.block
    let x := srcEnd c b
    let d := dstEnd c b
    let t := s.team 0
    t.pair = false ∧ x.space = 1 ∧ d.space = 1 ∧ x.hi = none ∧ d.hi = none ∧ x.epr = 0 ∧ d.epr = 0 ∧ x.swz = 0 ∧ d.swz = 0 ∧ x.scm = 0 ∧ d.scm = 0 ∧
    d.fem = 3 ∧ 0 < x.e ∧ x.e ≤ 8 ∧ 0 < d.e ∧ x.base + 0 * x.stride + 1 * x.e + x.e ≤ t.size ∧ d.base + d.e ≤ t.size ∧
    storeBad s t.core (t.frame + (x.base + x.e) / 32 * 32) 64 = false ∧ t.barriers = [] := by decide
theorem witness_CopyCommands_ends :
    let e : Cmd := { cmd (block 0 0 0 1 1 0) with ending := true, st := 3 }
    let f : Cmd := { cmd [0x200000 + 0x100000, 0, 0, 0, 0, 0, 32, 0x8000000500000000] with ending := true, st := 4, fillAt := some (.store 0 32), stage := 3 }
    let n : Cmd := { cmd [0, 0, 0, 0, 0, 0, 0, 0, 0, 0, 0, 512] with stage := 5, ending := true, st := 3 }
    let s := setFE (copyS f) (.store 0 32) false
    (e.block ≠ [] ∧ e.cancel = false ∧ e.stage = 1 ∧ e.peerOut = 0 ∧ e.skip = false ∧ (blkOf e.block).cv = false ∧ (blkOf e.block).lnk = false) ∧
    (f.fillAt = some (.store 0 32) ∧ s.headland = [] ∧ f.ending = true ∧ f.stage = 3 ∧ f.wait = none ∧
      (∀ g, submitter s f = some g → (s.grp g).st ≠ .saved) ∧ n.cancel = false) ∧
    ((blkOf f.block).csp = true ∧ (blkOf f.block).lnk = false ∧ (blkOf f.block).cwa + 4 ≤ (s.team 0).size ∧
      isFull s (winObj (s.team 0) (cmdCore s f) (blkOf f.block).cwa) = false) ∧
    (match readBlock (copyS n) 0 n (blkOf n.block).next with
      | (v, .ok ws) => v.noMem.isNone && !ws.isEmpty
      | (_, .error _) => false) = true := by decide

/-! System, groups, launches, contexts. -/

/-- A page that maps with its permissions, one that is absent, the end of the address space. -/
theorem witness_TranslationRegisters :
    let s := paged base
    (match walk s 0 0x1FFFFF with
      | .leaf e _ b => (leafPhys e b 0x1FFFFF).r && (leafPhys e b 0x1FFFFF).w
      | _ => false) = true ∧
    walk s 0 0x200000 = .absent ∧ s.noMem = none ∧ (0x200000 : Nat) < 2 ^ 57 ∧
    (match walk (poke s 0x110000 8 0x0400000000400025) 0 0 with
      | .leaf e _ b => !(leafPhys e b 0).r
      | _ => false) = true := by decide

/-- Handler mode and program mode; the reserved policy 3 and 2. -/
theorem witness_SystemRegisters : isDet base 0 = false ∧ (base.grp 0).trap.hmode = false ∧ (3 : DWord).toNat % 4 = 3 ∧ (2 : DWord).toNat % 4 ≠ 3 ∧
    isDet (base.modLaunch 0 fun x => { x with det := true }) 0 = true ∧ (0x16 : Nat) ∉ [0x02, 0x08, 0x09, 0x18, 0x19, 0x1A] ∧
    ¬ ((base.grp 0).trap.hmode = true ∧ (0x10 : Nat) ≤ 0x16 ∧ (0x16 : Nat) ≤ 0x15) := by decide

/-- A cluster 70 degrees below its trip, and one at 90 under 95; policies 0, 1 and 2; a sleep due, one with an interval to go. -/
theorem witness_LeasesSleepAndMessages :
    ¬ (∃ j ∈ List.range 16, base.enabled j = true ∧ (base.core j).trip ≤ (base.core j).temp + 5) ∧
    ((base.modCore 3 fun k => { k with temp := 90 }).core 3).trip ≤ ((base.modCore 3 fun k => { k with temp := 90 }).core 3).temp + 5 ∧
    (base.cluster 0).pol ≠ 1 ∧ (base.cluster 0).pol ≠ 2 ∧ (base.ctx 0).leaseLim = 16 ∧
    ((List.range 22).filter fun j => countsHigh (base.cluster j)).length = 0 ∧ base.dev.hmax = 22 ∧ releaseReady (base.grp 0) 3 2 = true ∧
    ((parkedS { cause := .sleep 0 false, mask := 1, pc := 4104 }).grp 0).park = some { cause := .sleep 0 false, mask := 1, pc := 4104 } ∧
    (eventRecord base 0 0x10 0 5 0 0 0 0).1.noMem = none := by decide

/-- A group that drains with work, without, and as one of a batch; a continuation and a phase task alone on the furrow; a
re-park at the limit. -/
theorem witness_GroupsExitAndReturn :
    let s := (parkedS { cause := .sleep 0 false, mask := 1, pc := 4104 }).modCluster 0 fun k => { k with furrow := [⟨3, .cont 0 0, 0⟩] }
    let p := (parkedS { cause := .wide true, mask := 1, pc := 4104 }).modCluster 0 fun k => { k with furrow := [⟨3, .phase 0 0, 0⟩] }
    ((s.cluster 0).furrow.filter (contTask s) = [⟨3, .cont 0 0, 0⟩] ∧ (s.grp 0).st = .parked ∧ s.noMem = none) ∧
    ((p.cluster 0).furrow.filter (phaseTask p) = [⟨3, .phase 0 0, 0⟩] ∧
      energyFits p 0 (recEnergy (p.launchOf 0).dw) (recPcc (p.launchOf 0).dw) 0 = true) ∧
    (teamGroups (base.team 0)).filter (fun h => h != 0 && (base.grp h).st != .free && (base.grp h).team == 0) = [] ∧
    (let r : ParkRec := { cause := .feMem 0x500010 1, mask := 1, pc := 4104, futile := 1024 }
      let t := handled (parkedS r)
      (t.grp 0).park = some r ∧ (t.ctx (t.ctxOf 0)).feretry ≤ r.futile ∧ (t.grp 0).trap.hmode = false ∧ (t.ctx (t.ctxOf 0)).tvec ≠ 0) := by decide

theorem witness_RegroupRendezvousAndRejoin :
    let s := grpS fun x => { x with st := .parked, em := 3, live := 3, target := [(0, 4224), (1, 4112)], park := some { cause := .regroup, mask := 3, pc := 4104 } }
    let here := ((teamGroups (s.team 0)).filter fun g => (s.grp g).st != .free && (s.grp g).team == 0).filter
      fun g => parkedOn (s.grp g) .regroup && (s.grp g).st == .parked
    let ths := here.flatMap fun g => (s.grp g).target.map fun e => (e.2, g, e.1)
    let r := (grpS fun x => { x with st := .exited, live := 1, origin := [(0, 0)] }).modTeam 0 fun t => { t with rgOrigins := [(0, base.grp 0)] }
    ((s.team 0).st = .resident ∧ (s.team 0).rgOrigins = [] ∧ here = [0] ∧ (teamGroups (s.team 0)).Nodup ∧ (∀ h ∈ ths, h.2.2 < 64) ∧
      (batchJobs ths here.length).length ≤ here.length) ∧
    ((r.team 0).rgThreads = [] ∧ (∀ g ∈ (teamGroups (r.team 0)).filter fun g => !(r.grp g).origin.isEmpty, (r.grp g).st = .exited) ∧
      ((r.team 0).rgOrigins.map Prod.fst).Nodup) := by decide

theorem witness_CyclesAndRails :
    let idle := base.modGrp 0 fun x => { x with st := .parked, running := false }
    let one := base.modGrp 0 fun x => { x with running := false }
    let rail := base.modCore 0 fun k => { k with railStop := some true }
    (base.enabled 0 = true ∧ base.enabled 15 = false ∧ clockCores base 0 = [0] ∧ (base.core 0).railStop = none ∧ (base.core 0).ptr < 32) ∧
    (∀ e ∈ (idle.core 0).slots, e.1 < 32 ∧ e.2.st ≠ .eligible ∧ e.2.st ≠ .held) ∧
    (((one.core 0).slots.map Prod.fst) = [0] ∧ (one.grp 0).st = .eligible ∧ (one.grp 0).yielded = none ∧ (one.grp 0).tail = none ∧ (one.grp 0).clause ≠ [] ∧
      (one.grp 0).hdr ≠ 0 ∧ (one.team (one.grp 0).team).throttled = false ∧ (one.core 0).halfDuty = false ∧ (one.grp 0).stopReq = false) ∧
    ((rail.core ((clockCores rail 0).headD 0)).railStop = some true ∧ clockCores rail 0 = [0]) := by decide

/-- A count above the decrement and one equal to it; a launch to admit; one that is over and one that is not. -/
theorem witness_LaunchesArmedAndEnded :
    let s := armedLaunchS 5
    let r : CpReq := { ctx := 0, rec_ := 2048, n := 2 }
    (s.decs = [r] ∧ (∀ e ∈ s.launches, e.2.refused = false) ∧
      (match cpReach { s with decs := [] } 0 2048 64 true true [] with
        | (u, .ok p) =>
          let a := recordAt u 0 p
          fld (dwOf a.2 0) 32 32 == 5 && fld (dwOf a.2 2) 58 6 == 0 && fld (dwOf a.2 7) 60 4 == 1 && !killedRec a.1 r 1 && armedOf a.1 r == some 3
        | (_, .error _) => false) = true) ∧
    (let q := { (paged base).setLaunch 3 { rec_ := 2048, dw := record 0 2 0 0, st := 2 } with launchQ := [(3, 3, 0)] };
      nextLaunchOf q = some (3, 3, 0) ∧ recRole (q.launch 3).dw ≠ 2 ∧ partClusters q 0 ≠ [] ∧ (q.launch 3).ended = false) ∧
    nextLaunchOf base = none ∧
    (let e := (paged base).setLaunch 3 { rec_ := 2048, dw := record 0 3 0 0, st := 3, nret := 1 };
      launchOver e 3 = true ∧ (endSteps 3 4 e).noMem = none ∧ 4 ≤ ((endSteps 3 4 e).launch 3).endStage ∧ (e.launch 3).waitPage = none ∧
      launchOver (e.modLaunch 3 fun x => { x with nret := 0 }) 3 = false ∧
      (match cpReach e 0 (recCrec (e.launch 3).dw) 64 false true [] with | (_, .ok _) => true | (_, .error _) => false) = true) := by decide
/-- A list of one successor. -/
theorem witness_LaunchesArmedAndEnded_successors :
    let s := poke (poke ((paged base).setLaunch 3 { rec_ := 2048, dw := [0, 8192, 0, 0, 512, 0, 0, 0], st := 3 }) 0x400200 8 1) 0x400208 8 4096
    fld (dwOf (s.launch 3).dw 4) 0 57 = 512 ∧
    (match cpRead s 0 512 8 [] with
      | (h, .ok 1) => (match readSucc h 0 520 [] 1 with
        | (_, .ok ([4096], none)) => true
        | _ => false)
      | _ => false) = true := by decide

theorem witness_TeamsArePlacedAndRetire :
    let s := queuedS 0
    let g := queuedS 2
    (gangHolds s 0 = false ∧ (s.cluster 0).furrow.filter (teamTask s) = [⟨0, .team 1, 0⟩] ∧ unitFor s 1 = some 0 ∧
      fld (dwOf (s.launch 3).dw 6) 57 7 = 0 ∧ s.noMem = none) ∧
    (gangHolds g 0 = true ∧ (gangs g).map Prod.fst = [3] ∧ gangs g = [(3, g.launch 3)] ∧ gangPlan g 3 (g.launch 3) = some [(1, 0)] ∧
      (g.teams.map Prod.fst).Nodup ∧ gangs base = []) ∧
    ((base.team 0).st = .resident ∧
      (teamGroups ((base.modGrp 0 fun _ => {}).team 0)).filter (fun n => ((base.modGrp 0 fun _ => {}).grp n).st != .free) = [] ∧
      (writeDone (retiredTeam (base.modGrp 0 fun _ => {}) 0) 0).noMem = none) := by decide
theorem witness_TeamsArePlacedAndRetire_producer :
    let s := ((((paged base).setTeam 1 { st := .retired, launch := 3 }).setTeam 2 { st := .waiting, launch := 4, needs := [0] }).setLaunch 3
      { dw := record 0 3 0 (2048 + 2 ^ 58) }).setLaunch 4 { dw := record 0 3 0 (2048 + 2 ^ 59) }
    recRole (s.launch 3).dw = 1 ∧ recRole (s.launch 4).dw = 2 ∧ recLink (s.launch 3).dw = 2048 ∧ (s.teams.map Prod.fst).Nodup ∧
    (match cpReach s 0 (2048 + 64) 1 true true [] with
      | (u, .ok p) => (cpStore (cpLoad u 0 p 1).1 0 p 1 1).noMem.isNone
      | (_, .error _) => false) = true := by decide

/-- A context with groups to stop; one group to save while another is not; a restore without teams; a bound context to create. -/
theorem witness_ContextsSwitched :
    let two := ((enS.modTeam 0 fun t => { t with slots := [0, 1] }).modGrp 1 fun _ => { st := .parked, team := 0 }).setCtx 0 { enS.ctx 0 with state := 1 }
    let quiet := two.modGrp 0 fun x => { x with running := false }
    let none_ := base.setCtx 1 { base.ctx 1 with en := true, state := 2 }
    ((enS.ctx 0).en = true ∧ (enS.ctx 0).state = 0 ∧
      (∃ tm ∈ ctxTeams enS 0, ∃ g ∈ liveGroups enS tm, (enS.grp g).st ≠ .saved ∧ (enS.grp g).st ≠ .exited)) ∧
    ((quiet.ctx (quiet.ctxOf 0)).state = 1 ∧ groupQuiet quiet 0 = true ∧ (quiet.grp 0).st = .eligible ∧ quiet.noMem = none ∧
      (∃ tm ∈ ctxTeams quiet 0, ∃ h ∈ liveGroups quiet tm, h ≠ 0 ∧ (quiet.grp h).st ≠ .saved ∧ (quiet.grp h).st ≠ .exited)) ∧
    ((none_.ctx 1).state = 2 ∧ partsOk none_ 1 = true ∧ ctxTeams none_ 1 = [] ∧
      none_.teams.filter (fun e => e.2.ctx == 1 && savedCore 0 ≤ e.2.core) = [] ∧ (∀ k ∈ none_.cores, ∀ d ∈ k.2.cmds, d.ctx ≠ 1)) ∧
    (enS.noMem = none ∧ (enS.ctx (enS.ctxOf 0)).state ≠ 1 ∧ (∀ e ∈ enS.ctxs, e.2.state ≠ 1)) ∧
    (∀ e ∈ none_.launches, e.2.ctx = 1 → e.2.ended = true) ∧
    (base.ctx 2).en = false ∧ ((base.setCtx 2 { base.ctx 2 with bound := true }).ctx 2).bound = true := by decide
theorem witness_ContextsSwitched_team :
    let s := base.modTeam 0 fun t => { t with core := savedCore 0, st := .saved }
    (restoreUnit s 0).isSome = true ∧ (destOn s 0 1).isSome = true := by decide

/-- Fifteen requests and sixteen; a record with one waiter and one page; no record of the number. -/
theorem witness_ShootDownsAndResolutions :
    let s := base.setCtx 0 { base.ctx 0 with shoots := List.replicate 15 0 }
    base.dev.recovery = false ∧ (s.ctx 0).shoots.length < 16 ∧ 16 ≤ (List.replicate 16 (0 : DWord)).length ∧
    (∀ e ∈ s.launches, e.2.ctx = 0 → e.2.peerOut = 0) ∧ (s.ctx 0).shoots = 0 :: List.replicate 14 0 ∧
    faultS.faults.find? (fun f => f.ctx == 0 && f.seq == 7) = some ⟨0, 3, 4, 7, 0, 0, false, 0, [.group 0 0], 0⟩ ∧
    (faultS.grp (0 * 32 + 0)).park = some { cause := .pages 0 [3], mask := 1, pc := 4104 } ∧
    (∀ f ∈ faultS.faults, f.ctx ≠ 0 ∨ f.seq ≠ 8) := by decide

/-! The host, peers, energy. -/

/-- A context created; a q15 with three entries and four; a counter with a waiter and without; a window access at a line's end. -/
theorem witness_HostWindows :
    let s := (paged base).setCtx 0 { (paged base).ctx 0 with bound := true, en := true }
    base.dev.recovery = false ∧ (s.ctx 0).en = true ∧ msgGroup base 0 = some 0 ∧
    msgGroup (base.setCtx 0 { base.ctx 0 with msgtgt := 1 }) 0 = none ∧ (List.replicate 3 ([] : QEntry)).length < 4 ∧
    (tget (base.ctx 0).gctrs {} 1).waiters = [] ∧ (tget (base.ctx 0).gctrs {} 1).refused = [] ∧ holdsCtx base 1 0 = false ∧ holdsCtx base 0 0 = true ∧
    28 % 32 + 4 ≤ 32 ∧
    (match cpReach s 0 28 4 true false [] with
      | (u, .ok p) => (cpLoad u 0 p 4).1.noMem.isNone
      | (_, .error _) => false) = true := by decide
/-- A function that holds the context and one that does not; EN to 1, EN to 0; TRIP at 80, 105 and outside. -/
theorem witness_ControlWindowWrites : base.dev.recovery = false ∧ holdsCtx base 1 3 = false ∧ holdsCtx base 0 3 = true ∧ (31 : Nat) < 32 ∧ (63 : Nat) < 64 ∧
    (enS.ctx 0).en = true ∧ ((base.setCtx 2 { base.ctx 2 with bound := true }).ctx 2).en = false ∧
    (80 ≤ 80 % 256 ∧ 105 % 256 ≤ 105 ∧ 79 % 256 < 80 ∧ 105 < 106 % 256) ∧ (3 : Nat) % 4 = 3 ∧ base.noMem = none := by decide
/-- A request to a free and a busy function; a context of the function, with and without a quota, its form in no cache. -/
theorem witness_TranslatorAndBringUp :
    let q : XlReq := ⟨0, 0, 0, 0, 0⟩
    let s := { base.setCtx 0 { base.ctx 0 with bound := true, fn := 1 } with fns := [(1, { quota := 3, req := some q })] }
    base.dev.recovery = false ∧ (base.fn 1).req = none ∧ (s.fn 1).req = some q ∧ (s.ctx q.ctx).bound = true ∧
    (s.ctx q.ctx).fn = 1 ∧ (s.fn 1).quota ≠ 0 ∧ (base.ctx 0).bound = false ∧ s.xlcache = [] ∧ base.dev.provst ≠ 1 := by decide

/-- The last word of device memory; a full and an empty word; 62 and 63 items; a command that waits; a proxy; port 7. -/
theorem witness_PeersServed :
    let s := { base with empties := [0x1000] }
    let p : ParkRec := { cause := .fePeer 2 0x1000 1, mask := 1, pc := 4104, proxy := some (0, 0) }
    let c : Cmd := { cmd [] with ending := true, peerOut := 1 }
    s.noMem = none ∧ Config.hbmBytes - 4 + 4 ≤ Config.hbmBytes ∧ wordsAre s 0x1000 4 true = false ∧ wordsAre s 0x1004 4 true = true ∧
    tget ({ base with recvd := [(2, 62)] }).recvd 0 2 + 1 < 64 ∧ 64 ≤ tget ({ base with recvd := [(2, 63)] }).recvd 0 2 + 1 ∧
    ((copyS c).core 0).cmds.find? (fun c => c.q == 1 && c.ending && c.peerOut != 0) = some c ∧
    ((parkedS p).grp 0).park = some p ∧ proxyGroups (parkedS p) 0 0 = [0] ∧ proxyGroups (parkedS p) 0 1 = [] ∧ (7 : Nat) < 8 ∧
    (let f : Cmd := { c with stage := 4, addr := none }
     ((copyS f).core 0).cmds = [f] ∧ (blkOf f.block).lnk = false ∧
     (countEnd (savePoke (copyS f) 0 0) 0 { f with st := 4, fc := 7, peerOut := 0 }).noMem = none) := by decide

theorem witness_Intervals :
    let s := base.modTeam 0 fun t => { t with st := .retired }
    s.noMem = none ∧ (∀ e ∈ s.teams, e.2.st ≠ .resident) ∧ ([(0, 95)] : List (Nat × Nat)).find? (fun e => e.1 == 0) = some (0, 95) := by decide

/-- A team at its limit and one below; a lease at 0; a full q6; a team to move with and without a core that takes it. -/
theorem witness_ThrottlingAndMigration :
    let due := base.modTeam 0 fun t => { t with meter := 4096 * teamLimit base 0 }
    let past := base.modCluster 0 fun k => { k with leases := [⟨0, 0, true⟩] }
    let move := (base.modTeam 0 fun t => { t with migrate := true }).modGrp 0 fun x => { x with running := false }
    let was := base.modCluster 0 fun k => { k with throttled := true }
    ((was.cluster 0).throttled ≠ decide ((was.cluster 0).allot < reservedSum was 0) ∧ (recheckThrottle was 0).noMem = none ∧
      (base.cluster 0).throttled = decide ((base.cluster 0).allot < reservedSum base 0)) ∧
    ((due.team 0).st = .resident ∧ (due.team 0).throttled = false ∧ teamLimit due 0 * 4096 ≤ (due.team 0).meter ∧
      (notice (due.setTeam 0 { due.team 0 with throttled := true }) 0 1).noMem = none) ∧ ¬ teamLimit base 0 * 4096 ≤ (base.team 0).meter ∧
    (leaseOf past 0 0 = some ⟨0, 0, true⟩ ∧ leaseOf base 0 0 = none) ∧ (teamGroups (base.team 0)).Nodup ∧ resident (base.grp 0) = true ∧
    (base.grp 0).q.q6.length < 8 ∧
    ((move.ctx (move.team 0).ctx).state = 0 ∧ (migrateTarget move 0).isSome = true ∧ (∀ g ∈ liveGroups move 0, groupQuiet move g = true) ∧
      (∃ g ∈ liveGroups base 0, groupQuiet base g = false)) := by decide

/-! ### Witnesses of further clauses, and tests of what they say -/

/-- Group 0 at the header word h at 4112, with the word w behind it, its clause not yet fetched. -/
def atHeader (h w : Nat) (f : Group → Group) : State :=
  poke (poke (codeS fun x => f { x with clause := [], hdr := 0, pc := 4112, running := false }) 0x401010 8 h) 0x401018 8 w

/-- The clause at 4112 is fetched, and its check answers as said. -/
def fetches (h w : Nat) (fault : Option (Nat × Nat)) : Bool :=
  match clauseWords (atHeader h w id) 0 4112 with
  | (u, a :: ws, none) => isHeader a && clauseFault a ws (isDet u 0) (u.grp 0).trap.hmode (u.grp 0).gw == fault
  | _ => false

/-- Beginning the clause traps to the handler with TPC at the header. -/
def enterTraps (h w code addr : Nat) : Bool :=
  let y := (beginClause (atHeader h w id) 0 4112 4112 0).grp 0
  y.trap.tpc == 4112 && y.trap.tcause == BitVec.ofNat 64 code && y.trap.taddr == BitVec.ofNat 64 addr && y.pc == 8192

/-- The fetch of a clause fails at an address, as said. -/
def fetchFails (s : State) (a : Nat) (e : FetchX) : Bool :=
  match clauseWords s 0 a with
  | (_, _, some (b, x)) => b == a && x == e
  | _ => false

/-- 02 R57: the header is where the group resumes, and the failing word is named. -/
theorem test_clause_slot_fault : enterTraps 0xF000000000000000 0x0F00000000000000 0x01 4120 = true := by decide
theorem test_clause_timing_class : enterTraps 0xF000000000000000 0x22005060700FE000 0x04 4120 = true := by decide

/-- A clause that passes; a bad header, TH in program mode, RG without its branch, a failing slot, a class over TCX; WAIT met and
unmet; a word that is no header; what stops a fetch. -/
theorem witness_IssueHoldsAndTraps_clause :
    (fetches 0xF000000000000000 0 none && fetches 0xF000000000000001 0 (some (1, 0)) && fetches 0xF000000000002000 0 (some (3, 0)) &&
      fetches 0xF000000000008000 0 (some (1, 0)) && fetches 0xF000000000000000 0x0F00000000000000 (some (1, 1)) &&
      fetches 0xF000000000000000 0x22005060700FE000 (some (4, 1))) = true ∧
    slotFault (headerOf 0xF000000000000000) false 16 0 0 = none ∧ headerLegal 0xF000000000000000 = true ∧
    headerLegal 0xF000000000000001 = false ∧ (headerOf 0xF000000000002000).th = true ∧ (headerOf 0xF000000000008000).rg = true ∧
    (match clauseWords (atHeader 0 0 id) 0 4112 with
      | (u, [h], none) => !isHeader h && (u.grp 0).came.isNone && !(u.grp 0).trap.hmode && fld (dwOf (u.launchOf 0).dw 1) 0 57 != 4112
      | _ => false) = true ∧
    (match clauseWords (atHeader 0xF000800000000000 0 fun x => { x with pend := [{ kind := .load }] }) 0 4112 with
      | (u, h :: _, none) => (u.grp 0).hdr == 0 && !waitOk (u.grp 0) (headerOf h).wait
      | _ => false) = true ∧
    waitOk (base.grp 0) 0x80 = true ∧
    (fetchFails (atHeader 0 0 id) 0x200000 .absent && fetchFails { atHeader 0 0 id with badMem := [0x401010] } 4112 .ecc &&
      fetchFails (poke (atHeader 0 0 id) 0x110000 8 0x0430000000400025) 4112 .prot &&
      fetchFails (poke (atHeader 0 0 id) 0x110000 8 0x0470000000400021) 4112 .malformed) = true := by decide

/-- A second leaf: addresses from 0x200000 on lie at a peer that is not up. -/
def away (s : State) : State := poke s 0x110008 8 0x0870000000600025

/-- A transfer to a page that is absent, or outside the device, and what it may be taken back to. -/
theorem witness_UniformBranch_unread :
    let s := codeS four
    let x := s.grp 0
    let c : Came := { pc := 4104, hdr := 4096, em := 15, live := 15, stack := [], lanes := 3, sreg := some (5, 9) }
    let w := (s.modGrp 0 fun x => { x with came := some c })
    codeAt s 0 (branchTarget x 261632) = .absent ∧ codeAt (away s) 0 (branchTarget x 261632) = .outside ∧
    headerAt s 0 (branchTarget x 261632) = true ∧ (activeMask x 1 false).getLsbD 0 = true ∧
    (w.grp 0).came = some c ∧ c.tret = false ∧ c.sreg = some (5, 9) ∧ ({ c with sreg := none } : Came).sreg = none := by decide

/-- A target that is no header, one on an absent page, one that a fetch reads, and a header. -/
theorem witness_JoinsAndRegroups_target :
    let s := codeS four
    let h := away s
    let t := activeMask (s.grp 0) 1 false
    let at_ (o : Int) : Nat := branchTarget (s.grp 0) o
    t ≠ 0 ∧ joinAt s 0 (at_ 8) = true ∧ codeAt s 0 (at_ 3) = .other ∧ codeAt s 0 (at_ 261632) = .absent ∧
    codeAt h 0 (at_ 261632) = .outside ∧ (targetCheck h 0 (at_ 261632) t).2 = false ∧ codeAt s 0 (at_ 16) = .header 0xF000000000000000 ∧
    (targetCheck s 0 (at_ 16) t).2 = true ∧ (∀ p ∈ (s.grp 0).pend, isResult p.kind = false) ∧ releaseReady (s.grp 0) 1 2 = true ∧
    codeAt (poke s 0x110000 8 0x0430000000400025) 0 (at_ 16) = .barred ∧
    (targetCheck (poke s 0x110000 8 0x0430000000400025) 0 (at_ 16) t).2 = false := by decide

/-- Entries whose addresses hold no header, and nothing outstanding but a load. -/
theorem witness_CallsReturnsAndExits_unread :
    let s := codeS fun x => { four x with em := 3, stack := [.ret 4120 15] }
    let d := codeS fun x => { four x with em := 3, stack := [.diverge 4160 15 12 4120] }
    let t := activeMask (s.grp 0) 1 false
    headerAt s 0 4120 = false ∧ (s.grp 0).stack = [.ret 4120 15] ∧ (d.grp 0).stack.map (dropLanes t) = [.diverge 4160 12 12 4120] ∧
    (d.grp 0).live &&& ~~~t ≠ 0 ∧ (d.grp 0).em &&& ~~~t = 0 ∧
    (∀ p ∈ (s.grp 0).pend, isResult p.kind = false ∧ p.kind ≠ .store) := by decide

/-- Join addresses that a `brx` finds absent, and at a peer. -/
theorem witness_Branches_join :
    let s := codeS four
    let h := away s
    codeAt s 0 (branchTarget (s.grp 0) 261632) = .absent ∧ codeAt h 0 (branchTarget (s.grp 0) 261632) = .outside ∧
    (joinCheck h 0 (branchTarget (s.grp 0) 261632) 3).2 = false ∧ headerAt (joinCheck s 0 (branchTarget (s.grp 0) 8) 3).1 0 4224 = true := by decide

/-- TPC behind a header that is not there to read, and TPC itself not there; a THDR that is no header, or too far away. -/
theorem witness_TrapsTaken_unread :
    let h (tpc thdr : DWord) : State := codeS fun x => { four x with trap := { hmode := true, tcause := 1, tpc := tpc, thdr := thdr } }
    let c (s : State) (a : DWord) : CodeX := codeAt s 0 a.toNat
    (let s := poke (poke (h 0x200008 0x1FFFF8) 0x110008 8 0x0470000000400025) 0x110000 8 0
     c s 0x200008 = .other ∧ c s 0x1FFFF8 = .absent ∧ 0x200008 ≤ 0x1FFFF8 + 128 ∧ s.noMem = none) ∧
    (c (h 0x200000 4224) 0x200000 = .absent ∧ c (h 0x200000 4224) 4224 = .header 0xF000000000000000 ∧ ¬ 0x200000 ≤ 4224 + 8 * 1) ∧
    (c (h 4120 4104) 4104 = .other ∧ c (away (h 4120 0x200000)) 0x200000 = .outside ∧ ¬ 0x200000 < 4120) ∧ ((h 4120 4104).launch 0).aborted = false ∧ ((h 4120 4104).launch 0).ended = false := by decide

/-- The registers read and their lanes, of a shuffle and of a broadcast of lane 3. -/
theorem witness_LaneCross_reads :
    let s := laneS []
    (6, [0]) ∈ bankReads s (v32 5 6 7 0 .b32 0) (Wf.shflUse .b32) ∧ (6, [3]) ∈ bankReads s (v32 5 6 7 0 .b32 3) (Wf.bcastUse .b32) ∧
    reuseHit s s.cur (v32 5 6 7 0 .b32 0) (Wf.shflUse .b32) = false ∧ reuseHit s s.cur (v32 5 6 7 0 .b32 3) (Wf.bcastUse .b32) = false := by decide

theorem witness_ScanAndReduce_log : opens (.redux (v32 5 6 0 0 .l16 0)) = true ∧ crossFill .l16 0 ≠ crossId .l16 0 ∧ (LV.fin false 3) ≠ .nan ∧
    (Log.fmtOf .l16).lmin ≤ 3 ∧ 3 ≤ (Log.fmtOf .l16).lmax := by decide

/-- `pf` with its offset register inside and beyond the count; an element record of each kind, one with a malformed block. -/
theorem witness_AccessesComplete_lanes :
    let s := recordS []
    let n := s.modGrp 0 fun x => { x with nregs := 5 }
    let r (k : Nat) : State := (memS []).modLaunch 0 fun x => { x with records := [[65536, BitVec.ofNat 64 (0x020000001000 + k * 2 ^ 45), 0, 0, 0]] }
    firstLimit s.g [(6, 1)] = none ∧ firstLimit n.g [(6, 1)] = some 6 ∧ s.noMem = none ∧
    (resolveLanes s 0 (lineReq s { ldW 1 1 0 with d := 0, sz := 0 } false) [0]).1.noMem = none ∧ (ldW 1 1 0).fe = 0 ∧
    ([0, 1, 2, 3, 4, 5, 6].map fun k => (recFor (r k) (ldW 1 1 0)).rfmt) = [0, 1, 2, 3, 4, 5, 6] ∧
    Cv.malformed (recFor (r 4) (ldW 1 1 0)).menc 0 = false ∧ Cv.malformed 6 0 = true := by decide

/-- A line of each form, in the order of 09 R234, and one that none fits. -/
theorem test_compress_forms :
    let all := (2 ^ 2048 - 1) / (2 ^ 32 - 1)
    ([0, 7 * all, 1, 0x12345678 * all + 1, 32 * 2 ^ 16, 0x12345678 * all + 1000, 0x40000000].map fun d => (compressLine d).1) = [1, 2, 3, 5, 4, 6, 0] := by
  decide

/-- A store that is not acknowledged in front of a fence, and one behind it; a fence that is due; items that no release has asked for. -/
theorem witness_Fences_outstanding :
    let s := grpS fun x => { x with seq := 1, pend := [{ kind := .store }] }
    let w (l : List Pend) : Group := (grpS fun x => { x with seq := 3, pend := l }).grp 0
    let fence : Pend := { kind := .fence, ready := false, seq := 1, aux := 9 }
    let due (x : Group) : List Pend := x.pend.filter fun q => q.kind == .fence && fenceReady x (q.aux / 4) (q.aux % 4) q.seq
    let i := { base with items := [(2, [{ launch := 0, team := 0, grp := some (0, 0) }])] }
    (∃ p ∈ (s.grp 0).pend, p.seq < (s.grp 0).seq ∧ p.kind = .store) ∧ due (w [fence, { kind := .store, seq := 2 }]) = [fence] ∧
    due (w [{ kind := .store, seq := 0 }, fence]) = [] ∧ i.items = [(2, [{ launch := 0, team := 0, grp := some (0, 0) }])] ∧
    ¬ ((2 : Nat) = 3 ∧ (2 : Nat) = 3) := by decide

/-- A wait that replays after its phase: the last member that has yet to see it, and one before. -/
theorem witness_GridBarriers_replay :
    let s (n : Nat) : State := { (gridS 9 { ph := 10, exp := 2, obs := n, refused := [1] }).modGrp 0 fun x => { x with replay := true } with
      greqs := [⟨0, 0, 0, 1, 1, 9, 5, 0⟩] }
    let q (n : Nat) : GCtr := tget ((s n).ctx 0).gctrs {} 1
    (q 1).ph.toNat ≠ (9 : DWord).toNat % 2 ^ 16 ∧ ((s 1).grp 0).replay = true ∧ (q 1).obs ≤ 1 ∧ (q 2).obs = 2 ∧ 0 ∉ (q 1).refused ∧
    (s 1).noMem = none := by decide
/-- The last group that waits replays, and a refused arrival is woken. -/
theorem test_gbar_wait_replays : goes .gridBarrierRequest
    { ((gridS 9 { ph := 10, exp := 2, obs := 1, refused := [1] }).modGrp 0 fun x => { x with replay := true }).modGrp 1 (fun _ =>
        { st := .parked, park := some { cause := .gbarArrive 0 1, mask := 1, pc := 4104 } }) with greqs := [⟨0, 0, 0, 1, 1, 9, 5, 0⟩] }
    (fun t => ctr t { ph := 10, exp := 2 } && (t.grp 1).park.any (·.woken)) = true := by decide

/-- A store outstanding before a release; every team of a phase arrived, and one that has not; a record's address in order. -/
theorem witness_WideBarriersAndTasks_waits :
    let h := gangS.modGrp 0 fun x => { x with pend := [{ kind := .store }] }
    let a := (gangS.modTeam 0 fun t => { t with wide := some true }).modGrp 0 fun x =>
      { x with st := .parked, park := some { cause := .wide true, mask := 1, pc := 4104 } }
    releaseReady (h.grp 0) 3 3 = false ∧ wideTeams a 0 true 0 = [0] ∧ (∀ tm ∈ wideTeams a 0 true 0, (a.team tm).wide = some true ∧ teamArrived a tm true = true) ∧
    (gangS.team 0).wide ≠ some true ∧ 2048 % 64 = 0 := by decide

/-- A watched word of device memory; entries of the group that fired, and none; a release that waits. -/
theorem witness_Monitors_fired :
    let m : Monitor := ⟨0, 0, 0, .store 0 32, 7, 2, true, 0⟩
    let r : ParkRec := { cause := .monitor, mask := 1, pc := 4104 }
    let s := { parkedS r with monitors := [m] }
    (s.monitors.filter fun m => m.core * 32 + m.slot = 0 ∧ m.fired = true).head? = some m ∧ (s.grp 0).park = some r ∧
    0 < m.pred ∧ m.pred < 8 ∧ (s.grp 0).gw ≤ 64 ∧ s.noMem = none ∧
    (armedS.monitors.filter fun m => m.core * 32 + m.slot = 0 ∧ m.fired = true) = [] ∧
    releaseReady { base.grp 0 with pend := [{ kind := .store }] } 0 2 = true ∧ releaseReady { base.grp 0 with pend := [{ kind := .store }] } 2 3 = false := by decide
theorem witness_Monitors_global :
    (match uniformAddr (poke ((memS []).modGrp 0 fun x => { x with sregs := [(3, 7), (4, 16)] }) 0x500010 4 7) { yW 2 3 2 with idx := 1 } true with
      | (v, .word _ (.mem p)) => p.pa == 0x500010 && v.noMem.isNone && (homeRead (homeAccess v 0 0 p) 0 p.pa 4).1.noMem.isNone &&
          (homeRead (homeAccess v 0 0 p) 0 p.pa 4).2 == 7
      | _ => false) = true := by decide
theorem test_waitv_global_arms : goes (.waitv { yW 2 3 2 with idx := 1 })
    (poke ((memS []).modGrp 0 fun x => { x with sregs := [(3, 7), (4, 16)] }) 0x500010 4 7)
    (fun t => t.monitors.map (·.obj) == [.mem 0x500010] && (t.grp 0).st == .parked) = true := by decide

/-- After the credit test: a malformed mask, an uncorrectable word of the fragment, and one of the accumulators. -/
theorem witness_MatrixProducts_traps :
    let s := laneS []
    let bad (r : Nat) : State := s.modCore 0 fun k => { k with badStore := [regOff (base.teamOf 0) (base.grp 0) r 0] }
    let m := mfmt 3
    columnBad m (columnSlice s 0 (s.teamOf 0) 0 m.tiles 0) = true ∧ firstLimit (s.grp 0) [(64, 64), (0, m.frag)] = none ∧
    0 + m.tiles ≤ (tilesOn (s.teamOf 0) 0).length ∧ tilesReady s (s.teamOf 0) 0 0 m.tiles = true ∧ (s.core 0).matBusy = 0 ∧
    (operandBad (bad 0) 0 [0] [0]).isSome = true ∧ accBad (bad 0) 0 64 [0] = none ∧ (accBad (bad 64) 0 64 [0]).isSome = true ∧
    operandBad (bad 64) 0 [0] [0] = none ∧ (s.core 0).latch = none := by decide

/-- Context 0's page 0 in the TLB, written before, and the line of the addresses 512 to 767 in the L2. -/
def nearTlb : TlbE := ⟨0, 0, 0x0470000000400025, 0x110000, true, true⟩
def nearLine : L2Line := ⟨0x4002, 0, 0xFF, 0, 0, .none, none, false, 0⟩
def nearS (c : Cmd) : State := { (copyS c).modCore 0 fun k => { k with tlb := [nearTlb] } with l2 := [nearLine] }
theorem near_resident (c : Cmd) (a n : Nat) (p : Phys) (h : leafPhys 0x0470000000400025 true a = p) (ha : a / 65536 = 0)
    (hn : a % 256 + n ≤ 256) (hp : p.pr = false ∧ p.hb = false ∧ p.pa < Config.hbmBytes ∧ p.pa / 256 = 0x4002) : Resident (nearS c) 0 0 a n p := by
  refine ⟨by omega, hn, ⟨nearTlb, ?_, h⟩, hp.1, hp.2.1, hp.2.2.1, rfl, nearLine, List.mem_singleton.mpr rfl, hp.2.2.2.symm⟩
  show List.find? _ [nearTlb] = _
  simp [nearTlb, ha]

/-- A submitted block, the words of an index list, and a word that a fold-max joins, at hand. -/
theorem witness_CopyCommands_resident :
    let c : Cmd := { cmd [] with started := false, addr := some 512, region := none }
    let p := leafPhys 0x0470000000400025 true 512
    Resident (nearS c) 0 0 512 128 p ∧ Resident (nearS c) 0 0 512 4 p ∧ Writable (nearS c) 0 0 512 p ∧ p.r = true ∧
      ((nearS c).core 0).cmds = [c] ∧ (nearS c).noMem = none := by
  refine ⟨near_resident _ _ _ _ rfl (by decide) (by decide) (by decide), near_resident _ _ _ _ rfl (by decide) (by decide) (by decide),
    ⟨by decide, fun t ht _ _ => ?_, fun l hl _ => ?_⟩, by decide, by decide, by decide⟩
  · have : t ∈ [nearTlb] := ht
    simp at this; subst this; rfl
  · have : l ∈ [nearLine] := hl
    simp at this; subst this; rfl

/-- A quantise block of the window, and a fold-max there; a tile as the destination; the chain's next block in order or not. -/
theorem witness_CopyCommands_blocks :
    let c := cmd (block 2 1 4 1 32 0)
    let s := copyS c
    let b := blkOf c.block
    let x := srcEnd c b
    let d := dstEnd c b
    let t := s.team 0
    let f := blkOf ((block 6 1 1 1 4 0).set 4 512)
    let y := srcEnd (cmd (block 6 1 1 1 4 0)) f
    (headCmd s 0 1 = some c ∧ c.prog = 32 * 0 ∧ b.ncol % 32 = 0 ∧ 0 < b.nrow * (b.ncol / 32) ∧ b.dri = true ∧ b.aux = 0 ∧ t.pair = false ∧ c.upper = false) ∧
    (x.space = 1 ∧ d.space = 1 ∧ x.hi = none ∧ d.hi = none ∧ x.epr = 0 ∧ d.epr = 0 ∧ x.swz = 0 ∧ d.swz = 0 ∧ x.scm = 0 ∧ d.scm = 0 ∧ d.fem = 3 ∧
      0 < x.e ∧ x.e ≤ 4 ∧ Cv.elementwise x.enc = true ∧ d.enc = 4 ∧ (∀ e, e < 32 → x.base + e * x.e + x.e ≤ t.size) ∧
      d.base + Cv.blockSize d.enc ≤ t.size ∧ (s.core t.core).badStore = [] ∧ t.barriers = []) ∧
    (∀ e, e < 32 → Cv.decode x.enc (mread (s.core t.core).store (t.frame + x.base + e * x.e) x.e) = .val false 1 0) ∧
    (y.space = 1 ∧ y.hi = none ∧ y.epr = 0 ∧ y.swz = 0 ∧ y.scm = 0 ∧ 0 < y.e ∧ y.e ≤ 4 ∧ Cv.elementwise y.enc = true ∧
      (∀ j, j < f.nrow * f.ncol → y.base + j * y.e + y.e ≤ t.size)) ∧
    (tilesOn t t.core).length ≠ 0 ∧ blockOk (cmd (block 0 0 0 1 1 0)) (blkOf (block 0 0 0 1 1 0)) = true := by decide

/-- A malformed entry, with room in the fault queue and without. -/
theorem witness_TranslationRegisters_malformed :
    let s := poke (paged base) 0x110000 8 0x0470000000400021
    let y := s.ctx 0
    let z : Ctx := { y with fqtail := 63 }
    walk s 0 0 = .malformed ∧ (y.fqtail + 1) % 2 ^ (y.fqsize + 6) ≠ y.fqhead % 2 ^ (y.fqsize + 6) ∧ s.faultWait = [] ∧
    (z.fqtail + 1) % 2 ^ (z.fqsize + 6) = z.fqhead % 2 ^ (z.fqsize + 6) := by decide
/-- The last page of the address space: its entry, the only one a register from its last byte on can meet, lies in device memory. -/
theorem witness_TranslationRegisters_last :
    let s := poke (poke (poke (paged base) (0x100000 + 8 * 4095) 8 0x108001) (0x108000 + 8 * 4095) 8 0x110001) (0x110000 + 8 * 4095) 8 0x0470000000400025
    (2 ^ 57 - 1 < 2 ^ 57 ∧ (∃ e b a, walk s 0 (2 ^ 57 - 1) = .leaf e b a ∧ (leafPhys e a (2 ^ 57 - 1)).r = true ∧ (leafPhys e a (2 ^ 57 - 1)).w = true)) ∧
    ∀ k e' b' a', 2 ^ 57 - 1 ≤ k → k < 2 ^ 57 → walk s 0 k = .leaf e' b' a' → b' < Config.hbmBytes := by
  intro s
  have h : walk s 0 (2 ^ 57 - 1) = .leaf 0x0470000000400025 (0x110000 + 8 * 4095) true := by decide
  refine ⟨⟨by decide, _, _, _, h, by decide, by decide⟩, fun k e' b' a' h1 h2 hw => ?_⟩
  obtain rfl : k = 2 ^ 57 - 1 := by omega
  rw [h] at hw
  injection hw with _ hb _
  subst hb
  decide

/-- A write of MASTAT that is due at the end of the cycle. -/
theorem witness_SystemRegisters_settled :
    ((base.modCore 0 fun k => { k with ctxSets := [(0, 0x09, 5)] }).core 0).ctxSets = [(0, 0x09, 5)] := by decide

/-- A group of a regroup batch that has exited. -/
theorem witness_GroupsExitAndReturn_batch :
    let s := grpS fun x => { x with exiting := true, live := 0, origin := [(0, 0)] }
    (s.grp 0).exiting = true ∧ (s.grp 0).pend = [] ∧ (s.grp 0).origin ≠ [] ∧ (s.team (s.grp 0).team).wide = none ∧
    (s.team (s.grp 0).team).st = .resident := by decide

/-- Groups that came by different branches, and one whose register window lies apart. -/
theorem witness_RegroupRendezvousAndRejoin_groups :
    let p : ParkRec := { cause := .regroup, mask := 3, pc := 4104 }
    let f (pc : Nat) (x : Group) : Group := { x with st := .parked, pc := pc, em := 3, live := 3, target := [(0, 4224), (1, 4112)], park := some p }
    let s := ((base.modTeam 0 fun t => { t with slots := [0, 1] }).modGrp 0 (f 4104)).setGrp 1 { f 4120 (base.grp 0) with member := 1 }
    let one := grpS (f 4104)
    let r := (grpS fun x => { x with st := .exited, live := 1, origin := [(0, 0)] }).modTeam 0 fun t =>
      { t with rgOrigins := [(0, base.grp 0)], rgFlags := [(0, 1, 0, [])] }
    ((teamGroups (s.team 0)).filter fun g => parkedOn (s.grp g) .regroup && (s.grp g).st == .parked) = [0, 1] ∧ (s.grp 0).pc ≠ (s.grp 1).pc ∧
    (s.team 0).st = .resident ∧ (s.team 0).rgOrigins = [] ∧
    ((one.grp 0).nregs ≤ 192 ∧ (one.grp 0).nregs * (one.grp 0).gw * 4 ≤ (one.team 0).win ∧ ∀ e ∈ (one.grp 0).target, e.1 < (one.grp 0).gw) ∧
    (r.team 0).rgFlags.find? (fun f => f.1 == 0) = some (0, 1, 0, []) ∧ (∀ e ∈ (r.team 0).rgOrigins, e.1 ∈ teamGroups (r.team 0)) ∧
    ∀ e ∈ (r.grp 0).origin, e.1 < (r.grp 0).gw := by decide

/-- Two ready groups with room, and none; a slot that DETROT passes, one it waits for, and one it takes. -/
def twoReady (f g : Group → Group) : State :=
  ((base.modGrp 0 fun x => f { x with running := false }).setGrp 5 (g { base.grp 0 with running := false })).modCore 0 fun k => { k with ptr := 0 }
theorem witness_CyclesAndRails_choice :
    let s := twoReady id id
    let full := twoReady id fun x => { x with running := true, rows := 15 }
    let wait := twoReady (fun x => { x with st := .held }) id
    let pass := twoReady (fun x => { x with st := .held, exiting := true }) id
    let plain (s : State) : Prop := ((s.core 0).slots.map Prod.fst).Nodup ∧ ∀ e ∈ (s.core 0).slots, e.1 < 32 ∧ (s.team e.2.team).throttled = false ∧
      e.2.yielded = none ∧ e.2.tail = none ∧ e.2.stopReq = false ∧ e.2.clause ≠ []
    let rdy (s : State) (g : Nat) : Bool := (s.grp g).st == .eligible && !(s.grp g).running
    let order := (List.range 32).map fun j => 0 * 32 + (0 + j) % 32
    plain s ∧ plain full ∧ plain wait ∧ (s.core 0).ptr < 32 ∧
    order.find? (rdy s) = some 0 ∧ order.find? (rdy full) = some 0 ∧ order.find? (rdy wait) = some 5 ∧
    rowsFor 0 (s.grp 0).gw = some 1 ∧ rowsFor 15 (s.grp 0).gw = none ∧ (wait.grp 0).exiting = false ∧ (pass.grp 0).exiting = true ∧
    (pass.grp 1).st = .free ∧ policyOf (base.modLaunch 0 fun x => { x with det := true }) 0 = 2 := by
  unfold twoReady; decide
theorem test_fair_takes_both : (let u := selectFair (twoReady id id) 0 1; (u.grp 0).running && (u.grp 5).running && (u.core 0).ptr == 1) = true := by decide
theorem test_det_passes_a_drain :
    (let u := selectDet (twoReady (fun x => { x with st := .held, exiting := true }) id) 0 32; (u.grp 5).running && (u.core 0).ptr == 6) = true := by decide

/-- A deterministic launch of one core with a range of 8 bytes; a launch dealt after cluster 3. -/
theorem witness_LaunchesArmedAndEnded_digest :
    let x : Launch := { dw := record 0 3 0 0, st := 3, nret := 1, det := true, lcn := 1, outs := [(512, 0, 0, 8)] }
    let s := (paged base).setLaunch 3 x
    let v := (s.cores.map Prod.fst).foldl l1WriteAll s
    (match coreDigests v x (List.range x.lcn) with | (_, .ok bs) => bs.length == 8 | _ => false) = true ∧
    (match rangeBytes s x.ctx x.badPages (x.outs.filter fun o => o.2.1 == 0) with | (_, .ok bs) => bs == List.replicate 8 0 | _ => false) = true ∧
    (match cpBytes s x.ctx 512 x.badPages 8 with | (_, .ok bs) => bs.length == 8 | _ => false) = true ∧
    (match coreDigests v { x with outs := [(0x200000, 0, 0, 8)], badPages := [32] } [0] with | (_, .error (.bad _ _)) => true | _ => false) = true ∧
    ((s.launch 3).det = true ∧ (s.launch 3).killed = false ∧ (s.launch 3).refused = false ∧ (s.launch 3).aborted = false) ∧
    (match cpReach s 0 x.rec_ 64 false true [] with | (_, .ok _) => true | _ => false) = true ∧ s.noMem = none ∧ x.doneOwed = false := by decide
/-- A launch dealt: its first team goes to the cluster after the one that last received a team task. -/
theorem witness_LaunchesArmedAndEnded_dealt :
    let s := { (paged base).setLaunch 3 { rec_ := 2048, dw := record 0 2 0 0, st := 2 } with launchQ := [(3, 3, 0)] }
    (match cpReach s 0 2048 64 false true [] with
      | (u, .ok p) => (putSt u 0 p (dwOf (s.launch 3).dw 7) 3).noMem.isNone
      | _ => false) = true ∧ recTeams (s.launch 3).dw = 1 ∧ partUnits s 0 false ≠ [] := by decide

/-- What a table answers: its default, or one of its entries. -/
theorem tget_default {α : Type} (l : Tab α) (d : α) (n : Nat) : tget l d n = d ∨ ∃ p ∈ l, p.1 = n ∧ tget l d n = p.2 := by
  induction l with
  | nil => exact .inl rfl
  | cons e r ih =>
    obtain ⟨j, w⟩ := e
    by_cases h : j = n
    · exact .inr ⟨(j, w), List.mem_cons_self, h, by simp [tget, h]⟩
    · rcases ih with ih | ⟨p, hp, h1, h2⟩
      · left; simpa [tget, h] using ih
      · exact .inr ⟨p, List.mem_cons_of_mem _ hp, h1, by simpa [tget, h] using h2⟩

/-- A saved team whose only group is its own. -/
def savedS : State :=
  ((base.modGrp 0 fun _ => {}).setGrp (savedCore 0 * 32) { base.grp 0 with st := .saved, running := false }).modTeam 0 fun t =>
    { t with core := savedCore 0, st := .saved }
theorem witness_ContextsSwitched_own : (savedS.team 0).st = .saved ∧ (restoreUnit savedS 0).isSome = true ∧ (destOn savedS 0 1).isSome = true ∧
    hasWork savedS 0 = true ∧ ∀ h, (savedS.grp h).st ≠ .free → (savedS.grp h).team = 0 → h ∈ teamGroups (savedS.team 0) := by
  refine ⟨by decide, by decide, by decide, by decide, fun h hst _ => ?_⟩
  have all : ∀ e ∈ savedS.cores, ∀ p ∈ e.2.slots, p.2.st ≠ .free → e.1 * 32 + p.1 ∈ teamGroups (savedS.team 0) := by decide
  unfold State.grp State.core at hst
  rcases tget_default savedS.cores (savedS.idleCore (h / 32)) (h / 32) with hc | ⟨e, he, hk, hc⟩
  · rw [hc] at hst
    exact absurd rfl hst
  · rw [hc] at hst
    rcases tget_default e.2.slots ({} : Group) (h % 32) with hs | ⟨p, hp, hn, hs⟩
    · rw [hs] at hst; exact absurd rfl hst
    · rw [hs] at hst
      have := all e he p hp hst
      rw [hk, hn] at this
      simpa [Nat.div_add_mod'] using this

/-- ARRIVE with a reserved bit, at a fault queue with room and a full one; a window access to a peer that cannot be reached. -/
theorem witness_HostWindows_records :
    let s := (paged base).setCtx 0 { (paged base).ctx 0 with bound := true, en := true }
    let full := s.setCtx 0 { s.ctx 0 with fqtail := 63 }
    fqFull (s.ctx 0) = false ∧ fqFull (full.ctx 0) = true ∧ (0x801 : DWord).toNat % 64 ≠ 0 ∧
    (faultRecord s 0 { kind := 4, addr := 0x801, eng := true }).noMem = none ∧
    (faultRecord full 0 { kind := 4, addr := 0x801, eng := true }).noMem = none ∧
    (match cpReach (away s) 0 0x200000 4 true false [] with
      | (u, .error (.bad a 2)) => a == 0x200000 && (faultRecord u 0 { kind := 6, code := 7, addr := 0x200000, eng := true }).noMem.isNone
      | _ => false) = true ∧ ((s.grp 0).q.q15in.length < 4 ∧ (s.grp 0).q.owed = []) := by decide
theorem test_arrive_with_reserved_bit : goes (.arrive 0 0x801) (base.setCtx 0 { base.ctx 0 with en := true }) (fun t =>
    t.decs == [] && (t.ctx 0).fqtail == 1) = true := by decide

/-- A bound context and one that is not; a cluster with a resident team and one without; a request in flight and none. -/
theorem witness_ControlWindowWrites_bound :
    (base.ctx 2).bound = false ∧ ((base.setCtx 2 { base.ctx 2 with bound := true }).ctx 2).bound = true ∧
    (∃ e ∈ base.teams, e.2.cluster = 0 ∧ (e.2.st = .resident ∨ e.2.windowHeld = true)) ∧
    (∀ e ∈ base.teams, e.2.cluster = 5 → e.2.st ≠ .resident ∧ e.2.windowHeld = false) ∧ (base.fn 1).req = none ∧
    (({ base with fns := [(1, { req := some ⟨0, 0, 0, 0, 0⟩ })] } : State).fn 1).req ≠ none := by decide

/-- The pair that the translator's cluster gives up; the status without a quota and for another function's context. -/
theorem witness_TranslatorAndBringUp_pair :
    let d := Device.reset
    let q : XlReq := ⟨0, 0, 0, 0, 0⟩
    let s := { base.setCtx 0 { base.ctx 0 with bound := true, fn := 1 } with fns := [(1, { quota := 0, req := some q })] }
    ((175 : Nat) < 176 ∧ d.enabled.getLsbD (2 * 175) = (d.enabled.getLsbD 350) ∧ (∃ j, j < 176 ∧ d.enabled.getLsbD (2 * j) = true ∧
      d.enabled.getLsbD (2 * j + 1) = true ∧ ∀ k, k < 176 → j < k → d.enabled.getLsbD (2 * k) = false ∨ d.enabled.getLsbD (2 * k + 1) = false)) ∧
    ((s.ctx q.ctx).bound = true ∧ (s.ctx q.ctx).fn = 1 ∧ (s.fn 1).quota = 0 ∧ (s.ctx q.ctx).fn ≠ 2) ∧
    (base.dev.provst ≠ 1 ∧ (base.modDev fun d => { d with provst := 1 }).dev.provst = 1) := by
  refine ⟨⟨by decide, rfl, 175, by decide, by decide, by decide, fun k h1 h2 => by omega⟩, by decide, by decide⟩

/-- A proxy that was woken and returns; a command whose fill waits at a peer, named by its slot; a line code with no form. -/
theorem witness_PeersServed_proxies :
    let s := { base with empties := [0x1000], proxies := [(2, 3, 4, 0x1000, 9)] }
    let l := { s with headland := [{ obj := .mem 0x1000, who := .peer 2 3 4, fe := 1, arr := 9 }] }
    let f : Cmd := { cmd [] with ending := true, stage := 3, fillPeer := some (2, 0x1000), entry := 5 }
    s.proxies.filter (fun p => p.1 == 2 && p.2.1 == 3 && p.2.2.1 == 4) = [(2, 3, 4, 0x1000 / 4 * 4, 9)] ∧
    (s.headland.any fun w => w.who == .peer 2 3 4) = false ∧ (l.headland.any fun w => w.who == .peer 2 3 4) = true ∧
    ((copyS f).core 0).cmds = [f] ∧ f.fillPeer ≠ none ∧ f.entry = 69 - 64 ∧ (retryFill (copyS f) 0 f).noMem = none ∧ (7 : Nat) ≤ 7 ∧
    (∀ c ∈ ((copyS f).core 0).cmds, c.fillPeer ≠ none → c.entry ≠ 70 - 64) := by decide

theorem witness_Intervals_saved : (savedS.team 0).st = .saved ∧ (savedS.team 0).cluster = 0 ∧ (∀ e ∈ savedS.teams, e.2.st ≠ .resident) ∧
    savedS.noMem = none := by decide

/-- A team to move that no core can take, on a core that is hot or not; one whose core is chosen; a stranger in one of its slots. -/
theorem witness_ThrottlingAndMigration_targets :
    let move := (base.modTeam 0 fun t => { t with migrate := true }).modGrp 0 fun x => { x with running := false }
    let none_ := eachDo (List.range 16) (move.modDev fun d => { d with parts := (List.range 22).map fun k => (k, 1) }) fun s c =>
      s.modCore c fun k => { k with temp := 90 }
    let hot := none_.modCore 0 fun k => { k with trp := true }
    let sent := move.modTeam 0 fun t => { t with target := some 1 }
    (migrateTarget none_ 0 = none ∧ (none_.team 0).target = none ∧ (none_.team 0).pair = false ∧ (none_.core 0).trp = false ∧
      (hot.core 0).trp = true ∧ (hot.core 0).halfDuty = false ∧ migrateTarget hot 0 = none ∧ hot.noMem = none ∧
      (eachDo (teamsOf hot 0) (hot.modCore 0 fun k => { k with halfDuty := true }) fun a m => notice a m 6).noMem = none) ∧
    (targetOk sent 0 1 = true ∧ (sent.team 0).target = some 1 ∧ (destOn sent 0 1).isSome = true ∧ leaseOf sent 0 0 = none ∧
      (∀ k ∈ teamCores (sent.team 0), ∀ m ∈ teamsOf sent k, m ≠ 0 → (sent.team m).stuck = false) ∧
      (∀ g ∈ liveGroups sent 0, groupQuiet sent g = true)) ∧
    ((base.modTeam 0 fun t => { t with slots := [0, 1] }).setGrp 1 { base.grp 0 with team := 7 }).grp 1 ≠ {} := by decide

end Sys2Proof.Tests
end

/-! ## The unified store (04): `sbfe`, and the lane-cross instructions -/

namespace Sys2Proof.Claims

open Machine Machine.State Wf

/-! ### Bit fields of the scalar unit (04 R110) -/

theorem operandB_eq_scalarB (s : State) (f : FmtS) : operandB s f = scalarB s f := rfl

theorem exec_sbfe (f : FmtS) (s : State) : exec (.sbfe f) s = execSbfe f s := rfl

/-- A scalar instruction of 04 R108 to R110 completes with its operation's value in SD, after latency 1. -/
theorem setsScalar_of_scalarOp {i : Instr} {s : State} {f : FmtS} {op : DWord → DWord → DWord}
    (h : exec i s = scalarOp s f op) :
    SetsScalar i s f.sd.toNat (op (readS s s.cur f.sa.toNat) (operandB s f)) 1 := by
  rw [operandB_eq_scalarB]
  exact setsScalar_of h

/-- `sbfe` reads its position, its width and its sign choice from b[5:0], b[12:6] and b[13]. -/
theorem sbfe_eq_fields (a b : DWord) :
    Alu.sbfe a b =
      let pos := (b.extractLsb' 0 6).toNat
      let wd := (b.extractLsb' 6 7).toNat
      let x := a.toNat / 2 ^ pos % 2 ^ wd
      if wd = 0 ∨ 64 < wd then 0
      else if b.getLsbD 13 = true ∧ 2 ^ (wd - 1) ≤ x then BitVec.ofInt 64 ((x : Int) - (2 : Int) ^ wd)
      else BitVec.ofNat 64 x := by
  have hpos : (b.extractLsb' 0 6).toNat = b.toNat % 64 := by
    rw [BitVec.extractLsb'_toNat, Nat.shiftRight_zero]
  have hwd : (b.extractLsb' 6 7).toNat = b.toNat / 64 % 128 := by
    rw [BitVec.extractLsb'_toNat, Nat.shiftRight_eq_div_pow]
  have hpow (n : Nat) : ((2 ^ n : Nat) : Int) = (2 : Int) ^ n := Int.natCast_pow 2 n
  have hsg : b.getLsbD 13 = true ↔ b.toNat / 2 ^ 13 % 2 = 1 := by
    rw [BitVec.getLsbD, Nat.testBit_eq_decide_div_mod_eq, decide_eq_true_iff]
  simp only [hpos, hwd, hsg, Alu.sbfe, hpow]

/-- Settles O10: `sbfe` is a scalar operation, and its value is the field that R110 names. -/
theorem scalarBitField : Obligations.ScalarBitField := by
  intro s f a b pos wd x
  have h := setsScalar_of_scalarOp (exec_sbfe f s)
  rwa [sbfe_eq_fields] at h

/-! ### The frame of the format-V instructions -/

/-- A format-V instruction completes with what its body computes from the operands and the active lanes. -/
theorem vGives_of_runV {i : Instr} {s : State} {f : FmtV} {u : VUse} {tm : VTime}
    {body : (Nat → Nat × Nat × Nat) → List Nat → VOut} (h : exec i s = runV s f u tm body) :
    VGives i s f u tm (body (vOperands s f u) (vLanes s f)) := by
  intro hgate
  have hdo : exec i s = .next (vDo s f u tm (body (vOperands s f u) (vLanes s f))) := by
    rw [h, runV, hgate]
  constructor
  · intro hq
    rw [vDo, if_pos (by simp [hq])] at hdo
    exact completes_of hdo
  · intro q hq
    rw [vDo, if_neg (by simp [hq])] at hdo
    exact ⟨_, hdo, finishRows_passes ..⟩

theorem mem_map_pair_const {α β : Type} {l : List α} {a : α} {b c : β} :
    (a, b) ∈ l.map (fun x => (x, c)) ↔ a ∈ l ∧ b = c := by
  constructor
  · intro h
    obtain ⟨x, hx, heq⟩ := List.mem_map.mp h
    obtain ⟨rfl, rfl⟩ := Prod.mk.inj heq
    exact ⟨hx, rfl⟩
  · rintro ⟨ha, rfl⟩
    exact List.mem_map_of_mem ha

/-- The registers a format-V word reads: those of A in A's lanes unless the reuse latch holds them, those of B and C in the
active lanes. -/
theorem mem_bankReads {s : State} {f : FmtV} {u : VUse} {r : Nat} {ls : List Nat} :
    (r, ls) ∈ bankReads s f u ↔
      (reuseHit s s.cur f u = false ∧ r ∈ spreadRuns (vFields f u).2.1 ∧ ls = aLanes s f u) ∨
      (r ∈ spreadRuns ((vFields f u).2.2.1 ++ (vFields f u).2.2.2) ∧ ls = vLanes s f) := by
  simp only [bankReads, List.mem_append]
  cases reuseHit s s.cur f u
  case false => simp only [Bool.false_eq_true, ↓reduceIte, mem_map_pair_const, true_and]
  case true => simp only [reduceCtorEq, ↓reduceIte, List.not_mem_nil, mem_map_pair_const, false_and, false_or]

/-! ### Masks of lanes -/

theorem getLsbD_laneBit (i j : Nat) (hj : j < 64) : (laneBit i).getLsbD j = decide (i = j) := by
  rw [laneBit, BitVec.getLsbD_ofNat, Nat.testBit_two_pow]
  simp only [hj, decide_true, Bool.true_and]

theorem getLsbD_maskOf (l : List Nat) (j : Nat) (hj : j < 64) : (maskOf l).getLsbD j = decide (j ∈ l) := by
  have hfold : ∀ m : Mask,
      (l.foldl (fun m i => m ||| laneBit i) m).getLsbD j = (m.getLsbD j || decide (j ∈ l)) := by
    induction l with
    | nil => simp
    | cons i r ih =>
      intro m
      rw [List.foldl_cons, ih, BitVec.getLsbD_or, getLsbD_laneBit i j hj, Bool.or_assoc]
      simp only [List.mem_cons, Bool.decide_or, @eq_comm _ i j]
  exact (hfold 0).trans (by simp)

/-- The mask of some lanes is the number below 2^64 whose bits they are. -/
theorem maskOf_toNat_eq {l : List Nat} {m : Nat} (hm : m < 2 ^ 64)
    (h : ∀ j, j < 64 → (m.testBit j = true ↔ j ∈ l)) : (maskOf l).toNat = m := by
  have hbv : maskOf l = BitVec.ofNat 64 m := by
    refine BitVec.eq_of_getLsbD_eq fun j hj => ?_
    rw [getLsbD_maskOf l j hj, BitVec.getLsbD_ofNat, Bool.eq_iff_iff]
    simp [hj, h j hj]
  rw [hbv, BitVec.toNat_ofNat, Nat.mod_eq_of_lt hm]

/-! ### `shfl` and `bcast` (04 R118) -/

theorem exec_shfl (f : FmtV) (s : State) : exec (.shfl f) s = execShfl f s := rfl
theorem exec_bcast (f : FmtV) (s : State) : exec (.bcast f) s = execBcast f s := rfl

/-- A group's lanes are a power of two, so the remainder by them is a mask of low bits. -/
theorem mod_lanes_eq_and {gw : Nat} (hgw : gw ∈ [16, 32, 64]) (d : Nat) : d % gw = d &&& (gw - 1) := by
  simp only [List.mem_cons, List.not_mem_nil, or_false] at hgw
  obtain rfl | rfl | rfl := hgw
  · exact (Nat.and_two_pow_sub_one_eq_mod d 4).symm
  · exact (Nat.and_two_pow_sub_one_eq_mod d 5).symm
  · exact (Nat.and_two_pow_sub_one_eq_mod d 6).symm

theorem shflLane_idx {gw : Nat} (hgw : gw ∈ [16, 32, 64]) (i d : Nat) : shflLane 0 gw i d = d &&& (gw - 1) :=
  mod_lanes_eq_and hgw d
theorem shflLane_up (gw i d : Nat) : shflLane 1 gw i d = if d > i then i else i - d := rfl
theorem shflLane_down (gw i d : Nat) : shflLane 2 gw i d = if i + d ≥ gw then i else i + d := rfl
theorem shflLane_xor {gw : Nat} (hgw : gw ∈ [16, 32, 64]) (n i d : Nat) :
    shflLane (n + 3) gw i d = i ^^^ (d &&& (gw - 1)) :=
  congrArg (i ^^^ ·) (mod_lanes_eq_and hgw d)

theorem aLanes_shflUse (s : State) (f : FmtV) :
    aLanes s f (shflUse f.ty) = (vLanes s f).map (shflFrom s f (shflUse f.ty)) := rfl
theorem aLanes_bcastUse (s : State) (f : FmtV) : aLanes s f (bcastUse f.ty) = [f.fn.toNat] := rfl

/-- `bcast` names no register in B or C. -/
theorem vFields_bcastUse (f : FmtV) :
    (vFields f (bcastUse f.ty)).2.2.1 = [] ∧ (vFields f (bcastUse f.ty)).2.2.2 = [] :=
  ⟨by simp [vFields, bcastUse, use, fieldRegs], rfl⟩

theorem bankReads_shfl {s : State} {f : FmtV} {r : Nat} {ls : List Nat} (h : (r, ls) ∈ bankReads s f (shflUse f.ty)) :
    ls = (vLanes s f).map (shflFrom s f (shflUse f.ty)) ∨ ls = vLanes s f := by
  obtain ⟨-, -, hA⟩ | ⟨-, hBC⟩ := mem_bankReads.mp h
  · exact .inl (hA.trans (aLanes_shflUse s f))
  · exact .inr hBC

theorem bankReads_bcast {s : State} {f : FmtV} {r : Nat} {ls : List Nat} (h : (r, ls) ∈ bankReads s f (bcastUse f.ty)) :
    ls = [f.fn.toNat] := by
  obtain ⟨-, -, hA⟩ | ⟨hBC, -⟩ := mem_bankReads.mp h
  · exact hA.trans (aLanes_bcastUse s f)
  · simp [vFields_bcastUse, spreadRuns] at hBC

/-! ### `vote` and `match` (04 R119) -/

theorem exec_vote (f : FmtV) (s : State) : exec (.vote f) s = execVote f s := rfl
theorem exec_matchV (f : FmtV) (s : State) : exec (.matchV f) s = execMatchV f s := rfl

/-- What `vote.any`, `.all` and `.uni` (FN 0, 1 and 2) find over the lanes. -/
def voteHolds (n : Nat) (ls : List Nat) (p : Nat → Bool) : Bool :=
  match n with
  | 0 => ls.any p
  | 1 => ls.all p
  | _ => ls.all p || !ls.any p

theorem voteHolds_uni {n : Nat} (h0 : n ≠ 0) (h1 : n ≠ 1) (ls : List Nat) (p : Nat → Bool) :
    voteHolds n ls p = (ls.all p || !ls.any p) := by
  match n with
  | 0 => exact absurd rfl h0
  | 1 => exact absurd rfl h1
  | _ + 2 => rfl

theorem voteHolds_iff (fn : BitVec 6) (ls : List Nat) (p : Nat → Bool) :
    voteHolds fn.toNat ls p = true ↔ if fn = 0 then ∃ i, i ∈ ls ∧ p i = true else if fn = 1 then ∀ i, i ∈ ls → p i = true
      else (∀ i, i ∈ ls → p i = true) ∨ ∀ i, i ∈ ls → ¬ p i = true := by
  split
  case isTrue h0 => subst h0; exact List.any_eq_true
  case isFalse h0 =>
    split
    case isTrue h1 => subst h1; exact List.all_eq_true
    case isFalse h1 =>
      rw [voteHolds_uni (fun h => h0 (BitVec.eq_of_toNat_eq h)) (fun h => h1 (BitVec.eq_of_toNat_eq h))]
      simp

/-- The ballot is the mask of the active lanes whose bit is set. -/
theorem execVote_ballot {f : FmtV} (hf : f.fn = 3) (s : State) :
    execVote f s = runV s f (use .r64 .predSrc .unused .unused .dest) tc0 fun rd lanes =>
      { vals := lanes.map fun i => (i, (maskOf (lanes.filter fun j => (rd j).1 == 1)).toNat),
        scalar := some (maskOf (lanes.filter fun j => (rd j).1 == 1)).toNat } :=
  if_pos hf

/-- The other forms answer one truth value in every active lane. -/
theorem execVote_pred {f : FmtV} (hf : f.fn ≠ 3) (s : State) :
    execVote f s = runV s f (use .predDst .predSrc .unused .unused .noScalar) tc0 fun rd lanes =>
      { vals := lanes.map fun i => (i, if voteHolds f.fn.toNat lanes (fun j => (rd j).1 == 1) then 1 else 0) } :=
  if_neg hf

/-! ### The lane-cross results together -/

/-- Settles O24: each instruction's frame gives its results, and what is left is arithmetic: the source lane of `shfl` with
GW a power of two, the bits of a mask of lanes, the truth value of a vote. -/
theorem laneCross : Obligations.LaneCross := by
  refine ⟨?shuffles, ?votes⟩
  case shuffles =>
    intro s f gw sh bc src
    have hsrc (hgw : gw ∈ [16, 32, 64]) :
        (fun i => src i ((vOperands s f sh i).2.1 % 2 ^ 32)) = shflFrom s f sh := by
      funext i
      simp only [src, shflFrom]
      generalize f.fn.toNat = n
      match n with
      | 0 => exact (shflLane_idx hgw ..).symm
      | 1 => exact (shflLane_up ..).symm
      | 2 => exact (shflLane_down ..).symm
      | n + 3 => exact (shflLane_xor hgw ..).symm
    have hshfl := vGives_of_runV (exec_shfl f s)
    have hbcast := vGives_of_runV (exec_bcast f s)
    refine ⟨fun hgw => ?_, hbcast, fun hgw _ _ r ls h => ?_, fun _ _ r ls h => bankReads_bcast h⟩
    · rwa [← hsrc hgw] at hshfl
    · rw [hsrc hgw]
      exact bankReads_shfl h
  case votes =>
    intro s f ls pv bal mt set
    refine ⟨fun m hf hm hbits _ => ?ballot, fun b hf hb => ?truth, fun m _ hm hbits => ?matching⟩
    case ballot =>
      have h := vGives_of_runV ((exec_vote f s).trans (execVote_ballot hf s))
      rwa [maskOf_toNat_eq hm fun j hj => (hbits j hj).trans (by simp [set, bal, ls])] at h
    case truth =>
      have h := vGives_of_runV ((exec_vote f s).trans (execVote_pred hf s))
      have hvote : voteHolds f.fn.toNat ls (fun j => (vOperands s f pv j).1 == 1) = b :=
        Bool.eq_iff_iff.mpr ((voteHolds_iff ..).trans (by simpa [set] using hb.symm))
      rwa [hvote] at h
    case matching =>
      have h := vGives_of_runV (exec_matchV f s)
      have hmask : (fun i =>
          (i, (maskOf (ls.filter fun j => (vOperands s f mt j).1 == (vOperands s f mt i).1)).toNat)) = fun i => (i, m i) := by
        funext i
        rw [maskOf_toNat_eq (hm i) fun j hj => (hbits i j hj).trans (by simp)]
      rwa [hmask] at h

end Sys2Proof.Claims
